-- ==== Sys2Proof/Word.lean ====
section
/-!
DEFINITION. The word types of the machine (R11, R34, R35).
-/
namespace Sys2Proof

/-- A byte of memory. -/
abbrev Byte := BitVec 8
/-- A halfword: a head, a tail or a leaf slot (R27). -/
abbrev Half := BitVec 16
/-- A scalar register, an address, a control register (R11). -/
abbrev Word := BitVec 64
/-- A vector register: 64 byte lanes (R11). -/
abbrev Vec := BitVec 512
/-- An operand specifier field (R39, R40). -/
abbrev Spec := BitVec 6

end Sys2Proof
end

