-- ==== Sys2Proof/Machine/Bits.lean ====
section
/-!
DEFINITION. Bit fields, lanes, bytes in little-endian order (R2, R62, R109) and the CRC of a leaf (R29).
-/
namespace Sys2Proof.Machine

/-- name[lo + n - 1 : lo] as a number (Notation of 00_scope). -/
def fld {w : Nat} (x : BitVec w) (lo n : Nat) : Nat := (x.toNat >>> lo) % 2 ^ n

/-- Bit i. -/
def bit {w : Nat} (x : BitVec w) (i : Nat) : Bool := x.getLsbD i

/-- `x` with bits [lo + n - 1 : lo] replaced by the low n bits of `v`. -/
def setFld {w : Nat} (x : BitVec w) (lo n v : Nat) : BitVec w :=
  (x &&& ~~~(BitVec.ofNat w ((2 ^ n - 1) <<< lo))) ||| BitVec.ofNat w ((v % 2 ^ n) <<< lo)

/-- A word with one bit set or cleared. -/
def setBit {w : Nat} (x : BitVec w) (i : Nat) (b : Bool) : BitVec w := setFld x i 1 b.toNat

/-- sext(v, n) of R77. -/
def sextTo (n : Nat) (v : Word) : Word := (v.setWidth n).signExtend 64

/-- zext(v, n) of R77. -/
def zextTo (n : Nat) (v : Word) : Word := (v.setWidth n).setWidth 64

/-- mask(n) of R77. -/
def maskW (n : Nat) : Word := BitVec.ofNat 64 (2 ^ n - 1)

/-- The signed value of an n-bit field held in a number. -/
def toIntN (n v : Nat) : Int := if v % 2 ^ n < 2 ^ (n - 1) then (v % 2 ^ n : Nat) else (v % 2 ^ n : Nat) - (2 ^ n : Nat)

/-- Lane i of width w (R109). -/
def lane (v : Vec) (w i : Nat) : BitVec w := v.extractLsb' (w * i) w

/-- The number whose w-bit digits are f 0, ..., f (n - 1), lowest first. -/
def digits (w : Nat) (f : Nat → BitVec w) : Nat → Nat
  | 0 => 0
  | k + 1 => digits w f k + (f k).toNat <<< (w * k)

/-- The vector of the n lanes f 0, ..., f (n - 1) of width w (R109). -/
def ofLanes (w n : Nat) (f : Nat → BitVec w) : Vec := BitVec.ofNat 512 (digits w f n)

/-- Every bit of the 64-bit predicate that covers byte lanes [j, j + n) (R117). -/
def coverMask (j n : Nat) : Word := BitVec.ofNat 64 ((2 ^ n - 1) <<< j)

/-- n bytes, lowest address first (R2). -/
def leBytes : Nat → Nat → List Byte
  | 0, _ => []
  | n + 1, v => BitVec.ofNat 8 v :: leBytes n (v >>> 8)

/-- The number that bytes hold, lowest address first (R2). -/
def ofLe : List Byte → Nat
  | [] => 0
  | b :: r => b.toNat + (ofLe r) <<< 8

/-- One byte into the CRC-16/CCITT-FALSE register, most significant bit first (R29). -/
def crcBits : Nat → Nat → Nat
  | 0, c => c
  | n + 1, c => crcBits n (if c.testBit 15 then (((c <<< 1) % 65536) ^^^ 0x1021) else (c <<< 1) % 65536)

def crcByte (c : Nat) (b : Byte) : Nat := crcBits 8 (c ^^^ (b.toNat <<< 8))

/-- CRC-16/CCITT-FALSE (R29). -/
def crc16 (bs : List Byte) : Nat := bs.foldl crcByte 0xffff

/-- Entry i of a fixed table, `d` beyond its end. -/
def vget {α : Type} {n : Nat} (v : Vector α n) (i : Nat) (d : α) : α := (v[i]?).getD d

/-- Entry i replaced; beyond the end nothing changes. -/
def vset {α : Type} {n : Nat} (v : Vector α n) (i : Nat) (x : α) : Vector α n := v.setIfInBounds i x

/-- Number of one bits. -/
def popCount : Nat → Nat → Nat
  | 0, _ => 0
  | n + 1, v => v % 2 + popCount n (v / 2)

/-- floor(log2 n), 0 for 0. -/
def lg2 (n : Nat) : Nat := Nat.log2 n

/-- The numbers 0 to n - 1. -/
def upto (n : Nat) : List Nat := List.range n

end Sys2Proof.Machine
end

