-- ==== Sys2Proof/Syntax.lean ====
section
/-!
DEFINITION. The instruction set and the device's events as one inductive (R50 to R57 and the rows of
spec/opcode_table.json). Operand fields are kept as the encodings give them (R34 to R41); what a
field may hold is checked when the instruction issues.
-/
namespace Sys2Proof

/-- A core's index (y << 5) | x (R150). -/
abbrev CoreId := BitVec 10
/-- A tile's index 16 ty + tx (R221). -/
abbrev TileId := BitVec 8
/-- A registered context's number (R19, R394). -/
abbrev CtxNum := BitVec 10
/-- A line number pa[51:7] (R216). -/
abbrev Line := BitVec 45
/-- A physical address (R216). -/
abbrev PAddr := BitVec 52

/-- The two hardware contexts of a core (R11). -/
inductive CtxKind where
  | task | handler
deriving DecidableEq, Repr

/-- The four directions of the grid (R137, R358). -/
inductive Dir where
  | north | east | south | west
deriving DecidableEq, Repr

/-- The space an MS tail names (R35). -/
inductive Space where
  | virt | arr
deriving DecidableEq, Repr

/-- Scopes of an MS tail (R43). -/
inductive Scope where
  | core | tile | group | sg | dev | sys
deriving DecidableEq, Repr

/-- Widths of 8, 16, 32 and 64 bits: lanes and accesses (R53, R54). -/
inductive LaneW where
  | b | h | w | d
deriving DecidableEq, Repr

/-- Source widths of SEXT and ZEXT, and access widths of LDU: 8, 16, 32 bits (R53, R54). -/
inductive ExtW where
  | b | h | w
deriving DecidableEq, Repr

/-- Access widths of CAS, CASFAR and WAITA (R54). -/
inductive CasW where
  | w | d
deriving DecidableEq, Repr

/-- A lane width with a signedness: VMULH, VMIN, VMAX (R53). -/
structure SgnW where
  uns : Bool
  w : LaneW
deriving DecidableEq, Repr

/-- Rounding modes of the scalar forms and of VCVT (R53, R122). -/
inductive Rnd where
  | ne | rz | rp | rm
deriving DecidableEq, Repr

/-- Relations of FCMP and VFCMP (R94). -/
inductive FRel where
  | eq | lt | le | un
deriving DecidableEq, Repr

/-- Conversions of FCVT (R95), in fn order. -/
inductive FCvt where
  | lF | luF | fL | fLu | bfF | fBf | hfF | fHf
deriving DecidableEq, Repr

/-- Floating lane types (R53). -/
inductive FTy where
  | f | bf | hf
deriving DecidableEq, Repr

/-- Relations of VCMP (R53). -/
inductive IRel where
  | eq | ne | lt | ltu
deriving DecidableEq, Repr

/-- fn of VCMP (R53). -/
structure VRel where
  rel : IRel
  w : LaneW
deriving DecidableEq, Repr

/-- fn of VFCMP (R53). -/
structure VFRel where
  rel : FRel
  ty : FTy
deriving DecidableEq, Repr

/-- Operations of VRED and VFRED (R53). -/
inductive RedOp where
  | add | min | max
deriving DecidableEq, Repr

/-- fn of VRED (R53). -/
structure VRedK where
  op : RedOp
  w : LaneW
deriving DecidableEq, Repr

/-- fn of VFRED (R53). -/
structure VFRedK where
  op : RedOp
  ty : FTy
deriving DecidableEq, Repr

/-- fn of VDOT (R53). -/
inductive DotK where
  | s | u
deriving DecidableEq, Repr

/-- fn of VFDOT (R53). -/
inductive FDotK where
  | bf | hf
deriving DecidableEq, Repr

/-- Conversions of VCVT (R122), in fn order. -/
inductive VCvt where
  | bfF | fBf | hfF | fHf | wF | fW
deriving DecidableEq, Repr

/-- Operations of AMO and AMOFAR (R261). -/
inductive AmoOp where
  | add | and | or | xor | swap | min | max | maxu
deriving DecidableEq, Repr

/-- Kinds of a deferred reduction (R266). -/
inductive RedK where
  | f | w | d
deriving DecidableEq, Repr

/-- A T tail: leaf displacement and slot (R44). -/
structure Target where
  lo : BitVec 10
  slot : BitVec 5
deriving DecidableEq, Repr

/-- An RX tail (R35). -/
structure RX where
  c : Spec
  p : Bool
  m : BitVec 3
  gsel : BitVec 2
  goff : BitVec 4
deriving DecidableEq, Repr

/-- A memory operand of either space: MS.sp, MS.a and I16 (R35, R47). -/
structure MemOp where
  sp : Space
  a : Spec
  off : BitVec 16
deriving DecidableEq, Repr

/-- A memory operand whose opcode fixes its space: MS.a and I16 (R54). -/
structure BaseOff where
  a : Spec
  off : BitVec 16
deriving DecidableEq, Repr

/-- A mapping the host gives for a page response or an ATS answer (R347 to R349): a run of
2^lg pages of 4 KiB with one set of permissions. -/
structure HostPage where
  pasid : BitVec 20
  va : Word
  pa : PAddr
  lg : BitVec 5
  r : Bool
  w : Bool
  x : Bool
deriving DecidableEq, Repr

/-- A boot stage's image, its public key and its signature (R423). -/
structure BootImage where
  image : List Byte
  key : List Byte
  sig : List Byte
deriving DecidableEq, Repr


/-- One constructor per row of spec/opcode_table.json: the 228 instructions in the order of the
opcode map (R50), then the 143 events of the part's other agents. `d` is field A unless the form
gives A another role. -/
inductive Instr where
  /-- TRAP (0x01), R100. -/
  | trap (i : BitVec 6)
  /-- BRK (0x02), R100. -/
  | brk (i : BitVec 6)
  /-- ERET (0x03), R101. -/
  | eret
  /-- HALT (0x04), R104. -/
  | halt
  /-- WFE (0x05), R105. -/
  | wfe
  /-- CSRD (0x06), R102. -/
  | csrd (d : Spec) (csr : BitVec 10) (a : Spec)
  /-- CSWR (0x07), R102. -/
  | cswr (d : Spec) (csr : BitVec 10) (a : Spec)
  /-- CSSET (0x08), R102. -/
  | csset (d : Spec) (csr : BitVec 10) (a : Spec)
  /-- CSCLR (0x09), R102. -/
  | csclr (d : Spec) (csr : BitVec 10) (a : Spec)
  /-- LDI (0x0a), R86. -/
  | ldi (d : Spec) (i : BitVec 32)
  /-- LDIH (0x0b), R86. -/
  | ldih (d : Spec) (i : BitVec 32)
  /-- MOV (0x0c), R86. -/
  | mov (d a : Spec)
  /-- LEA (0x0d), R87. -/
  | lea (d : Spec) (m : MemOp)
  /-- COORD (0x0e), R89. -/
  | coord (d a : Spec) (i : BitVec 10)
  /-- WIDX (0x0f), R90. -/
  | widx (d a : Spec) (i : BitVec 10)
  /-- ADD (0x10), R81. -/
  | add (d a b : Spec)
  /-- ADDI (0x11), R81. -/
  | addi (d a : Spec) (i : BitVec 10)
  /-- SUB (0x12), R81. -/
  | sub (d a b : Spec)
  /-- MUL (0x13), R83. -/
  | mul (d a b : Spec)
  /-- MULH (0x14), R83. -/
  | mulh (d a b : Spec)
  /-- MULHU (0x15), R83. -/
  | mulhu (d a b : Spec)
  /-- DIV (0x16), R83. -/
  | div (d a b : Spec)
  /-- DIVU (0x17), R83. -/
  | divu (d a b : Spec)
  /-- REM (0x18), R83. -/
  | rem (d a b : Spec)
  /-- REMU (0x19), R83. -/
  | remu (d a b : Spec)
  /-- AND (0x1a), R81. -/
  | and (d a b : Spec)
  /-- ANDI (0x1b), R81. -/
  | andi (d a : Spec) (i : BitVec 10)
  /-- OR (0x1c), R81. -/
  | or (d a b : Spec)
  /-- ORI (0x1d), R81. -/
  | ori (d a : Spec) (i : BitVec 10)
  /-- XOR (0x1e), R81. -/
  | xor (d a b : Spec)
  /-- XORI (0x1f), R81. -/
  | xori (d a : Spec) (i : BitVec 10)
  /-- SHL (0x20), R82. -/
  | shl (d a b : Spec)
  /-- SHLI (0x21), R82. -/
  | shli (d a : Spec) (i : BitVec 10)
  /-- SHR (0x22), R82. -/
  | shr (d a b : Spec)
  /-- SHRI (0x23), R82. -/
  | shri (d a : Spec) (i : BitVec 10)
  /-- SAR (0x24), R82. -/
  | sar (d a b : Spec)
  /-- SARI (0x25), R82. -/
  | sari (d a : Spec) (i : BitVec 10)
  /-- MIN (0x26), R81. -/
  | min (d a b : Spec)
  /-- MAX (0x27), R81. -/
  | max (d a b : Spec)
  /-- MINU (0x28), R81. -/
  | minu (d a b : Spec)
  /-- MAXU (0x29), R81. -/
  | maxu (d a b : Spec)
  /-- SEQ (0x2a), R81. -/
  | seq (d a b : Spec)
  /-- SNE (0x2b), R81. -/
  | sne (d a b : Spec)
  /-- SLT (0x2c), R81. -/
  | slt (d a b : Spec)
  /-- SLTI (0x2d), R81. -/
  | slti (d a : Spec) (i : BitVec 10)
  /-- SLTU (0x2e), R81. -/
  | sltu (d a b : Spec)
  /-- SEL (0x2f), R86. -/
  | sel (d a b c : Spec)
  /-- CLZ (0x30), R84. -/
  | clz (d a : Spec)
  /-- CTZ (0x31), R84. -/
  | ctz (d a : Spec)
  /-- POPC (0x32), R84. -/
  | popc (d a : Spec)
  /-- BREV (0x33), R84. -/
  | brev (d a : Spec)
  /-- BSWAP (0x34), R84. -/
  | bswap (d a : Spec)
  /-- BFX (0x35), R85. -/
  | bfx (d a b : Spec)
  /-- BFXU (0x36), R85. -/
  | bfxu (d a b : Spec)
  /-- BFI (0x37), R85. -/
  | bfi (d a b : Spec)
  /-- SEXT (0x38), R84. -/
  | sext (fn : ExtW) (d a : Spec)
  /-- ZEXT (0x39), R84. -/
  | zext (fn : ExtW) (d a : Spec)
  /-- ADDRA (0x3a), R88. -/
  | addra (d a b : Spec)
  /-- B (0x40), R97. -/
  | b (t : Target)
  /-- BEQ (0x41), R97. -/
  | beq (a b : Spec) (t : Target)
  /-- BNE (0x42), R97. -/
  | bne (a b : Spec) (t : Target)
  /-- BLT (0x43), R97. -/
  | blt (a b : Spec) (t : Target)
  /-- BGE (0x44), R97. -/
  | bge (a b : Spec) (t : Target)
  /-- BLTU (0x45), R97. -/
  | bltu (a b : Spec) (t : Target)
  /-- BGEU (0x46), R97. -/
  | bgeu (a b : Spec) (t : Target)
  /-- CALL (0x47), R97. -/
  | call (a : Spec) (t : Target)
  /-- CALLR (0x48), R97. -/
  | callr (d a : Spec)
  /-- BZ (0x49), R97. -/
  | bz (a : Spec) (t : Target)
  /-- BNZ (0x4a), R97. -/
  | bnz (a : Spec) (t : Target)
  /-- LOOP (0x4b), R99. -/
  | loop (a : Spec) (t : Target)
  /-- JR (0x4c), R97. -/
  | jr (a : Spec)
  /-- RET (0x4e), R97. -/
  | ret (a : Spec)
  /-- FADD (0x50), R92. -/
  | fadd (fn : Rnd) (d a b : Spec)
  /-- FSUB (0x51), R92. -/
  | fsub (fn : Rnd) (d a b : Spec)
  /-- FMUL (0x52), R92. -/
  | fmul (fn : Rnd) (d a b : Spec)
  /-- FFMA (0x53), R92. -/
  | ffma (fn : Rnd) (d a b c : Spec)
  /-- FDIV (0x54), R92. -/
  | fdiv (fn : Rnd) (d a b : Spec)
  /-- FSQRT (0x55), R92. -/
  | fsqrt (fn : Rnd) (d a : Spec)
  /-- FMIN (0x56), R93. -/
  | fmin (d a b : Spec)
  /-- FMAX (0x57), R93. -/
  | fmax (d a b : Spec)
  /-- FCMP (0x58), R94. -/
  | fcmp (fn : FRel) (d a b : Spec)
  /-- FCVT (0x59), R95. -/
  | fcvt (fn : FCvt) (d a : Spec)
  /-- FCLASS (0x5a), R96. -/
  | fclass (d a : Spec)
  /-- LD (0x60), R258. -/
  | ld (fn : LaneW) (d : Spec) (m : MemOp)
  /-- LDU (0x61), R258. -/
  | ldu (fn : ExtW) (d : Spec) (m : MemOp)
  /-- ST (0x62), R259. -/
  | st (fn : LaneW) (d : Spec) (m : MemOp)
  /-- LDACQ (0x63), R258. -/
  | ldacq (fn : LaneW) (sc : Scope) (d : Spec) (m : MemOp)
  /-- STREL (0x64), R259. -/
  | strel (fn : LaneW) (sc : Scope) (d : Spec) (m : MemOp)
  /-- AMO (0x65), R261. -/
  | amo (fn : AmoOp) (sc : Scope) (d : Spec) (m : MemOp) (c : Spec)
  /-- AMOFAR (0x66), R261. -/
  | amofar (fn : AmoOp) (sc : Scope) (d : Spec) (m : BaseOff) (c : Spec)
  /-- CAS (0x67), R262. -/
  | cas (fn : CasW) (sc : Scope) (d : Spec) (m : MemOp) (c : Spec)
  /-- CASFAR (0x68), R262. -/
  | casfar (fn : CasW) (sc : Scope) (d : Spec) (m : BaseOff) (c : Spec)
  /-- AMOF (0x69), R263. -/
  | amof (sc : Scope) (d : Spec) (m : BaseOff) (c : Spec)
  /-- RED (0x6a), R266. -/
  | red (fn : RedK) (d : Spec) (m : BaseOff)
  /-- MERGE (0x6b), R267. -/
  | merge (d : Spec) (m : BaseOff)
  /-- FENCE (0x6c), R265. -/
  | fence (sc : Scope)
  /-- FENCE_RS (0x6c), R265. -/
  | fenceRs
  /-- BIND (0x6d), R268. -/
  | bind (sc : Scope) (d : Spec) (m : BaseOff)
  /-- WAITA (0x6e), R269. -/
  | waita (fn : CasW) (sc : Scope) (d : Spec) (m : BaseOff)
  /-- PREF (0x6f), R270. -/
  | pref (ex : Bool) (m : BaseOff)
  /-- CWB (0x70), R271. -/
  | cwb (m : BaseOff)
  /-- CINV (0x71), R272. -/
  | cinv (m : BaseOff)
  /-- GANG (0x72), R174. -/
  | gang (i : BitVec 6)
  /-- SPLIT (0x73), R175. -/
  | split
  /-- SEND (0x74), R176. -/
  | send (d : Spec) (m : BaseOff)
  /-- SENDV (0x75), R177. -/
  | sendv (d : Spec) (m : BaseOff) (rx : RX)
  /-- SPAWN (0x76), R179. -/
  | spawn (d : Spec) (m : BaseOff)
  /-- SBIND (0x77), R180. -/
  | sbind (d a : Spec) (i : BitVec 10)
  /-- SUNBIND (0x78), R181. -/
  | sunbind (d : Spec) (i : BitVec 10)
  /-- RQADD (0x79), R185. -/
  | rqadd (d a b : Spec)
  /-- RQTAKE (0x7a), R184. -/
  | rqtake (d : Spec)
  /-- RQPEEK (0x7b), R183. -/
  | rqpeek (d a b : Spec)
  /-- STEAL (0x7c), R186. -/
  | steal (d a b : Spec)
  /-- TEXIT (0x7d), R188. -/
  | texit
  /-- YIELD (0x7e), R189. -/
  | yield
  /-- HRET (0x7f), R191. -/
  | hret
  /-- TMSET (0x80), R190. -/
  | tmset (d a : Spec)
  /-- PAUSE (0x81), R192. -/
  | pause (a : Spec) (i : BitVec 10)
  /-- BINIT (0x82), R193. -/
  | binit (d a : Spec) (i : BitVec 10)
  /-- BARV (0x83), R195. -/
  | barv (m : BaseOff)
  /-- BWAIT (0x84), R194. -/
  | bwait (d a : Spec) (i : BitVec 10)
  /-- BTEST (0x85), R193. -/
  | btest (d : Spec) (i : BitVec 10)
  /-- BEXP (0x86), R193. -/
  | bexp (d a : Spec) (i : BitVec 10)
  /-- SLOTF (0x87), R182. -/
  | slotf (a : Spec)
  /-- COPY (0x88), R314. -/
  | copy (d : Spec) (m : MemOp)
  /-- COPY2 (0x89), R314. -/
  | copy2 (d : Spec) (m : MemOp)
  /-- COPYX (0x8a), R315. -/
  | copyx (d : Spec) (m : MemOp)
  /-- COPYM (0x8b), R316. -/
  | copym (d : Spec) (m : MemOp)
  /-- CONV (0x8c), R317. -/
  | conv (d : Spec) (m : MemOp)
  /-- MVIEW (0x8d), R320. -/
  | mview (d a : Spec)
  /-- MVIEW_SV (0x8d), R320. -/
  | mviewSv (d a : Spec) (f : BitVec 5)
  /-- MZERO (0x8e), R324. -/
  | mzero (a : Spec)
  /-- MMA (0x8f), R323. -/
  | mma (d a b c : Spec)
  /-- MMAX (0x90), R298. -/
  | mmax (d a b c : Spec)
  /-- MMAS (0x91), R299. -/
  | mmas (d a b c : Spec)
  /-- MMAR (0x92), R300. -/
  | mmar (d a b c : Spec)
  /-- MPROG (0x93), R326. -/
  | mprog (d a : Spec)
  /-- MWAIT (0x94), R325. -/
  | mwait (a : Spec)
  /-- VADD (0x98), R114. -/
  | vadd (fn : LaneW) (d a b : Spec) (rx : RX)
  /-- VADD_TWIN (0x99), R51. -/
  | vaddTwin (fn : LaneW) (d a b : Spec) (rx : RX)
  /-- VSUB (0x9a), R114. -/
  | vsub (fn : LaneW) (d a b : Spec) (rx : RX)
  /-- VSUB_TWIN (0x9b), R51. -/
  | vsubTwin (fn : LaneW) (d a b : Spec) (rx : RX)
  /-- VMUL (0x9c), R114. -/
  | vmul (fn : LaneW) (d a b : Spec) (rx : RX)
  /-- VMUL_TWIN (0x9d), R51. -/
  | vmulTwin (fn : LaneW) (d a b : Spec) (rx : RX)
  /-- VMULH (0x9e), R114. -/
  | vmulh (fn : SgnW) (d a b : Spec) (rx : RX)
  /-- VMULH_TWIN (0x9f), R51. -/
  | vmulhTwin (fn : SgnW) (d a b : Spec) (rx : RX)
  /-- VMADD (0xa0), R114. -/
  | vmadd (fn : LaneW) (d a b : Spec) (rx : RX)
  /-- VMADD_TWIN (0xa1), R51. -/
  | vmaddTwin (fn : LaneW) (d a b : Spec) (rx : RX)
  /-- VAND (0xa2), R114. -/
  | vand (d a b : Spec) (rx : RX)
  /-- VAND_TWIN (0xa3), R51. -/
  | vandTwin (d a b : Spec) (rx : RX)
  /-- VOR (0xa4), R114. -/
  | vor (d a b : Spec) (rx : RX)
  /-- VOR_TWIN (0xa5), R51. -/
  | vorTwin (d a b : Spec) (rx : RX)
  /-- VXOR (0xa6), R114. -/
  | vxor (d a b : Spec) (rx : RX)
  /-- VXOR_TWIN (0xa7), R51. -/
  | vxorTwin (d a b : Spec) (rx : RX)
  /-- VSHL (0xa8), R114. -/
  | vshl (fn : LaneW) (d a b : Spec) (rx : RX)
  /-- VSHL_TWIN (0xa9), R51. -/
  | vshlTwin (fn : LaneW) (d a b : Spec) (rx : RX)
  /-- VSHR (0xaa), R114. -/
  | vshr (fn : LaneW) (d a b : Spec) (rx : RX)
  /-- VSHR_TWIN (0xab), R51. -/
  | vshrTwin (fn : LaneW) (d a b : Spec) (rx : RX)
  /-- VSAR (0xac), R114. -/
  | vsar (fn : LaneW) (d a b : Spec) (rx : RX)
  /-- VSAR_TWIN (0xad), R51. -/
  | vsarTwin (fn : LaneW) (d a b : Spec) (rx : RX)
  /-- VMIN (0xae), R114. -/
  | vmin (fn : SgnW) (d a b : Spec) (rx : RX)
  /-- VMIN_TWIN (0xaf), R51. -/
  | vminTwin (fn : SgnW) (d a b : Spec) (rx : RX)
  /-- VMAX (0xb0), R114. -/
  | vmax (fn : SgnW) (d a b : Spec) (rx : RX)
  /-- VMAX_TWIN (0xb1), R51. -/
  | vmaxTwin (fn : SgnW) (d a b : Spec) (rx : RX)
  /-- VABS (0xb2), R114. -/
  | vabs (fn : LaneW) (d a : Spec) (rx : RX)
  /-- VNEG (0xb3), R114. -/
  | vneg (fn : LaneW) (d a : Spec) (rx : RX)
  /-- VFADD (0xb4), R115. -/
  | vfadd (fn : FTy) (d a b : Spec) (rx : RX)
  /-- VFADD_TWIN (0xb5), R51. -/
  | vfaddTwin (fn : FTy) (d a b : Spec) (rx : RX)
  /-- VFSUB (0xb6), R115. -/
  | vfsub (fn : FTy) (d a b : Spec) (rx : RX)
  /-- VFSUB_TWIN (0xb7), R51. -/
  | vfsubTwin (fn : FTy) (d a b : Spec) (rx : RX)
  /-- VFMUL (0xb8), R115. -/
  | vfmul (fn : FTy) (d a b : Spec) (rx : RX)
  /-- VFMUL_TWIN (0xb9), R51. -/
  | vfmulTwin (fn : FTy) (d a b : Spec) (rx : RX)
  /-- VFMA (0xba), R115. -/
  | vfma (fn : FTy) (d a b : Spec) (rx : RX)
  /-- VFMA_TWIN (0xbb), R51. -/
  | vfmaTwin (fn : FTy) (d a b : Spec) (rx : RX)
  /-- VFMS (0xbc), R115. -/
  | vfms (fn : FTy) (d a b : Spec) (rx : RX)
  /-- VFMS_TWIN (0xbd), R51. -/
  | vfmsTwin (fn : FTy) (d a b : Spec) (rx : RX)
  /-- VFNMA (0xbe), R115. -/
  | vfnma (fn : FTy) (d a b : Spec) (rx : RX)
  /-- VFNMA_TWIN (0xbf), R51. -/
  | vfnmaTwin (fn : FTy) (d a b : Spec) (rx : RX)
  /-- VFDIV (0xc0), R115. -/
  | vfdiv (fn : FTy) (d a b : Spec) (rx : RX)
  /-- VFDIV_TWIN (0xc1), R51. -/
  | vfdivTwin (fn : FTy) (d a b : Spec) (rx : RX)
  /-- VFSQRT (0xc2), R115. -/
  | vfsqrt (fn : FTy) (d a : Spec) (rx : RX)
  /-- VFMIN (0xc3), R115. -/
  | vfmin (fn : FTy) (d a b : Spec) (rx : RX)
  /-- VFMIN_TWIN (0xc4), R51. -/
  | vfminTwin (fn : FTy) (d a b : Spec) (rx : RX)
  /-- VFMAX (0xc5), R115. -/
  | vfmax (fn : FTy) (d a b : Spec) (rx : RX)
  /-- VFMAX_TWIN (0xc6), R51. -/
  | vfmaxTwin (fn : FTy) (d a b : Spec) (rx : RX)
  /-- VFABS (0xc7), R115. -/
  | vfabs (fn : FTy) (d a : Spec) (rx : RX)
  /-- VCMP (0xc8), R117. -/
  | vcmp (fn : VRel) (d a b : Spec) (rx : RX)
  /-- VCMP_TWIN (0xc9), R51. -/
  | vcmpTwin (fn : VRel) (d a b : Spec) (rx : RX)
  /-- VFCMP (0xca), R117. -/
  | vfcmp (fn : VFRel) (d a b : Spec) (rx : RX)
  /-- VFCMP_TWIN (0xcb), R51. -/
  | vfcmpTwin (fn : VFRel) (d a b : Spec) (rx : RX)
  /-- VSEL (0xcc), R118. -/
  | vsel (d a b : Spec) (rx : RX)
  /-- VCVT (0xcd), R122. -/
  | vcvt (k : VCvt) (md : Rnd) (sat : Bool) (d a : Spec) (rx : RX)
  /-- VSPLAT (0xce), R120. -/
  | vsplat (fn : LaneW) (d a : Spec) (rx : RX)
  /-- VMOVS (0xcf), R120. -/
  | vmovs (fn : LaneW) (d a : Spec) (rx : RX)
  /-- VEXT (0xd0), R120. -/
  | vext (fn : LaneW) (d a b : Spec) (rx : RX)
  /-- VINS (0xd1), R120. -/
  | vins (fn : LaneW) (d a b : Spec) (rx : RX)
  /-- VPERM (0xd2), R120. -/
  | vperm (fn : LaneW) (d a b : Spec) (rx : RX)
  /-- VPSWP (0xd3), R120. -/
  | vpswp (fn : LaneW) (d a : Spec) (rx : RX)
  /-- VROT (0xd4), R114. -/
  | vrot (fn : LaneW) (d a b : Spec) (rx : RX)
  /-- VZIP (0xd5), R120. -/
  | vzip (fn : LaneW) (d a b : Spec) (rx : RX)
  /-- VUZP (0xd6), R120. -/
  | vuzp (fn : LaneW) (d a b : Spec) (rx : RX)
  /-- VRED (0xd7), R123. -/
  | vred (fn : VRedK) (d a : Spec) (rx : RX)
  /-- VFRED (0xd8), R123. -/
  | vfred (fn : VFRedK) (d a : Spec) (rx : RX)
  /-- VDOT (0xd9), R124. -/
  | vdot (fn : DotK) (d a b : Spec) (rx : RX)
  /-- VDOT_TWIN (0xda), R51. -/
  | vdotTwin (fn : DotK) (d a b : Spec) (rx : RX)
  /-- VFDOT (0xdb), R124. -/
  | vfdot (fn : FDotK) (d a b : Spec) (rx : RX)
  /-- VFDOT_TWIN (0xdc), R51. -/
  | vfdotTwin (fn : FDotK) (d a b : Spec) (rx : RX)
  /-- VSIN (0xdd), R126. -/
  | vsin (d a : Spec) (rx : RX)
  /-- VCOS (0xde), R126. -/
  | vcos (d a : Spec) (rx : RX)
  /-- VEXP2 (0xdf), R125. -/
  | vexp2 (d a : Spec) (rx : RX)
  /-- VLOG2 (0xe0), R125. -/
  | vlog2 (d a : Spec) (rx : RX)
  /-- VRCP (0xe1), R125. -/
  | vrcp (d a : Spec) (rx : RX)
  /-- VRSQ (0xe2), R125. -/
  | vrsq (d a : Spec) (rx : RX)
  /-- VTANH (0xe3), R125. -/
  | vtanh (d a : Spec) (rx : RX)
  /-- VCLASS (0xe4), R115. -/
  | vclass (fn : FTy) (d a : Spec) (rx : RX)
  /-- VLD (0xe5), R128. -/
  | vld (d : Spec) (m : MemOp) (rx : RX)
  /-- VST (0xe6), R128. -/
  | vst (d : Spec) (m : MemOp) (rx : RX)
  /-- VLDS (0xe7), R128. -/
  | vlds (fn : LaneW) (d : Spec) (m : MemOp) (rx : RX)
  /-- VSTS (0xe8), R128. -/
  | vsts (fn : LaneW) (d : Spec) (m : MemOp) (rx : RX)
  /-- VGATH (0xe9), R128. -/
  | vgath (fn : LaneW) (d : Spec) (m : MemOp) (rx : RX)
  /-- VSCAT (0xea), R128. -/
  | vscat (fn : LaneW) (d : Spec) (m : MemOp) (rx : RX)
  /-- MAND (0xeb), R119. -/
  | mand (d a b : Spec)
  /-- MOR (0xec), R119. -/
  | mor (d a b : Spec)
  /-- MXOR (0xed), R119. -/
  | mxor (d a b : Spec)
  /-- MNOT (0xee), R119. -/
  | mnot (d a : Spec)
  /-- MPOP (0xef), R119. -/
  | mpop (d a : Spec)
  /-- NOP (0xf0), R106. -/
  | nop
  /-- HINT (0xf1), R58. -/
  | hint (k : BitVec 4)
  /-- UNASSIGNED_OPCODE, R57. -/
  | unassignedOpcode (op : BitVec 8)
  /-- ASYNC_EVENT_ENTRY, R338. -/
  | asyncEventEntry (k : CoreId)
  /-- TIMER_EXPIRY, R20. -/
  | timerExpiry (k : CoreId)
  /-- WFE_WAKE, R105. -/
  | wfeWake (k : CoreId)
  /-- LEAF_FILL, R32. -/
  | leafFill (k : CoreId) (h : CtxKind) (va : Word)
  /-- CORE_RELEASE, R26. -/
  | coreRelease (k : CoreId)
  /-- CSR_WRITE, R103. -/
  | csrWrite (k : CoreId) (h : CtxKind) (csr : BitVec 10) (v : Word)
  /-- TIMECMP_WRITE, R20. -/
  | timecmpWrite (k : CoreId) (v : Word)
  /-- QMAP_WRITE, R134. -/
  | qmapWrite (t : TileId) (v : Word)
  /-- TKILL_WRITE, R345. -/
  | tkillWrite (k : CoreId) (v : Word)
  /-- DEATH_TRAP_ENTRY, R345. -/
  | deathTrapEntry (k : CoreId)
  /-- DEATH_PURGE_COMPLETE, R345. -/
  | deathPurgeComplete (tag : BitVec 16)
  /-- MPROG_STOP_REQUEST, R301. -/
  | mprogStopRequest (k : CoreId)
  /-- MPROG_V_CLEAR, R302. -/
  | mprogVClear (k : CoreId)
  /-- LINK_WORD_ARRIVAL, R138. -/
  | linkWordArrival (k : CoreId) (d : Dir)
  /-- GANG_FORMATION, R174. -/
  | gangFormation (k : CoreId)
  /-- LAUNCH_ACCEPT, R153. -/
  | launchAccept (k : CoreId)
  /-- ACTIVE_MESSAGE_ARRIVAL, R148. -/
  | activeMessageArrival (src k : CoreId)
  /-- REMOTE_ATOMIC_APPLY, R264. -/
  | remoteAtomicApply (k : CoreId)
  /-- BARRIER_ARRIVAL, R169. -/
  | barrierArrival (k : CoreId)
  /-- BWAIT_RESUME, R170. -/
  | bwaitResume (k : CoreId) (h : CtxKind)
  /-- COPYX_REQUEST, R315. -/
  | copyxRequest (k : CoreId)
  /-- HANDLER_ACTIVATION, R156. -/
  | handlerActivation (k : CoreId)
  /-- HANDLER_BUDGET_EXPIRY, R159. -/
  | handlerBudgetExpiry (k : CoreId)
  /-- STREAM_WORD_ARRIVAL, R161. -/
  | streamWordArrival (src k : CoreId)
  /-- STREAM_REDUCE_APPLY, R161. -/
  | streamReduceApply (k : CoreId) (e : BitVec 3)
  /-- STREAM_EOS_ACTIVATION, R164. -/
  | streamEosActivation (k : CoreId) (e : BitVec 3)
  /-- STREAM_CREDIT_RETURN, R178. -/
  | streamCreditReturn (k : CoreId)
  /-- MESSAGE_REFUSAL_ARRIVAL, R336. -/
  | messageRefusalArrival (k : CoreId)
  /-- SLOT_RETURN_ARRIVAL, R182. -/
  | slotReturnArrival (k : CoreId)
  /-- REMOTE_LOAD_REQUEST, R207. -/
  | remoteLoadRequest (src k : CoreId)
  /-- REMOTE_STORE_ARRIVAL, R207. -/
  | remoteStoreArrival (src k : CoreId)
  /-- STORE_ACK_ARRIVAL, R209. -/
  | storeAckArrival (k : CoreId)
  /-- STORE_REFUSAL_ARRIVAL, R211. -/
  | storeRefusalArrival (k : CoreId)
  /-- LOAD_COMPLETION, R260. -/
  | loadCompletion (k : CoreId) (h : CtxKind)
  /-- STAMP_FILL_COMPLETE, R212. -/
  | stampFillComplete (region : Nat)
  /-- TOKEN_REQUEST, R220. -/
  | tokenRequest (line : Line) (r : BitVec 11) (w : Bool)
  /-- TOKEN_RESPONSE, R220. -/
  | tokenResponse (line : Line) (r : BitVec 11)
  /-- PERSISTENT_REQUEST, R221. -/
  | persistentRequest (line : Line) (r : BitVec 11) (w : Bool)
  /-- PERSISTENT_DEACTIVATION, R221. -/
  | persistentDeactivation (line : Line)
  /-- REBALANCE_WINDOW_END, R223. -/
  | rebalanceWindowEnd
  /-- INDIRECTION_UPDATE, R223. -/
  | indirectionUpdate (t : TileId) (bucket : BitVec 12)
  /-- HOST_SNP_DATA, R227. -/
  | hostSnpData (line : Line) (half : Bool)
  /-- HOST_SNP_INV, R227. -/
  | hostSnpInv (line : Line) (half : Bool)
  /-- RDOWN_COMPLETE, R227. -/
  | rdownComplete (line : Line) (half : Bool) (data : Option Vec)
  /-- RDSHARED_COMPLETE, R227. -/
  | rdsharedComplete (line : Line) (half : Bool) (excl : Bool) (data : Option Vec)
  /-- HOST_MEMRD, R229. -/
  | hostMemrd (line : Line) (half : Bool)
  /-- HOST_READ_OWN, R229. -/
  | hostReadOwn (line : Line) (half : Bool)
  /-- HOST_WRITEBACK, R229. -/
  | hostWriteback (line : Line) (half : Bool) (keep : Bool) (data : Vec)
  /-- BISNPINV_COMPLETE, R229. -/
  | bisnpinvComplete (line : Line) (half : Bool)
  /-- BISNPDATA_COMPLETE, R229. -/
  | bisnpdataComplete (line : Line) (half : Bool) (data : Option Vec)
  /-- HOST_ATOMIC, R245. -/
  | hostAtomic (pa : PAddr) (op : AmoOp) (v : Word)
  /-- DSC_EVICTION, R229. -/
  | dscEviction (line : Line)
  /-- POISON_DETECTION, R230. -/
  | poisonDetection (agent : BitVec 16) (pa : PAddr)
  /-- FAR_ATOMIC_APPLY, R245. -/
  | farAtomicApply (src : CoreId)
  /-- RED_LOG_APPEND, R250. -/
  | redLogAppend (src : CoreId)
  /-- MERGE_APPLICATION, R251. -/
  | mergeApplication (k : CoreId) (h : CtxKind)
  /-- BIND_INVALIDATION, R248. -/
  | bindInvalidation (k : CoreId)
  /-- WAITA_REREAD, R269. -/
  | waitaReread (k : CoreId) (h : CtxKind)
  /-- CHUNK_LANDING, R278. -/
  | chunkLanding (t : TileId) (i : Nat) (c : Nat)
  /-- CVE_BLOCK_CONVERT, R318. -/
  | cveBlockConvert (t : TileId) (i : Nat)
  /-- COMMAND_COMPLETION, R281. -/
  | commandCompletion (t : TileId) (cve : Bool) (i : Nat)
  /-- COMMAND_FAILURE, R284. -/
  | commandFailure (t : TileId) (cve : Bool) (i : Nat)
  /-- COMPLETION_DELIVERY, R283. -/
  | completionDelivery (k : CoreId)
  /-- SGV_STEP, R307. -/
  | sgvStep (sg : BitVec 4)
  /-- MTE_SLICE_END, R295. -/
  | mteSliceEnd (t : TileId)
  /-- MTE_WRITEBACK_COMPLETE, R296. -/
  | mteWritebackComplete (t : TileId)
  /-- MZERO_COMPLETE, R297. -/
  | mzeroComplete (t : TileId)
  /-- MTE_FAILURE, R305. -/
  | mteFailure (t : TileId) (err : BitVec 8)
  /-- NOTICE_ARRIVAL, R346. -/
  | noticeArrival (k : CoreId)
  /-- RECORD_RECEIVE, R356. -/
  | recordReceive
  /-- TRANSLATION_RESPONSE, R348. -/
  | translationResponse (k : CoreId) (va : Word)
  /-- PAGE_RESPONSE, R349. -/
  | pageResponse (ptag : BitVec 16) (ok : Bool) (page : Option HostPage)
  /-- ATS_INVALIDATION_REQUEST, R350. -/
  | atsInvalidationRequest (pasid : BitVec 20) (va len : Word)
  /-- ATS_INVALIDATION_COMPLETE, R350. -/
  | atsInvalidationComplete
  /-- PAGE_HASH_CHECK, R352. -/
  | pageHashCheck (ctx : CtxNum) (page : Word)
  /-- SWITCH_HOLD, R353. -/
  | switchHold (t : TileId)
  /-- SWITCH_ENGINE_STOP, R353. -/
  | switchEngineStop (t : TileId)
  /-- SWITCH_DRAIN, R353. -/
  | switchDrain (t : TileId)
  /-- SWITCH_SAVE, R353. -/
  | switchSave (t : TileId)
  /-- SWITCH_RESTORE, R353. -/
  | switchRestore (t : TileId) (ctx : CtxNum)
  /-- SWITCH_RESUME, R353. -/
  | switchResume (t : TileId)
  /-- LINK_FLIT_ERROR, R357. -/
  | linkFlitError (src dst : CoreId)
  /-- LINK_LOSS, R357. -/
  | linkLoss (src dst : CoreId)
  /-- BEACON_SEND, R359. -/
  | beaconSend (t : TileId)
  /-- BEACON_RECEIVE, R359. -/
  | beaconReceive (t : TileId) (d : Dir) (w : BitVec 32)
  /-- SILENCE_TIMEOUT, R360. -/
  | silenceTimeout (t : TileId) (d : Dir)
  /-- MALFORMED_FLIT, R360. -/
  | malformedFlit (t : TileId) (d : Dir) (credit : Bool)
  /-- VOTE_RELAY, R361. -/
  | voteRelay (t : TileId)
  /-- VOTE_EXPIRY, R361. -/
  | voteExpiry (t : TileId)
  /-- DARK_DECLARATION, R363. -/
  | darkDeclaration (t : TileId)
  /-- PORT_CLOSE, R365. -/
  | portClose (t : TileId) (d : Dir)
  /-- SELF_TEST_DONE, R368. -/
  | selfTestDone (t : TileId) (pass : Bool)
  /-- RELIGHT_APPEAL, R369. -/
  | relightAppeal (t : TileId)
  /-- APPEAL_RECEIPT, R369. -/
  | appealReceipt (t : TileId) (d : Dir)
  /-- ACCEPTANCE_RECEIPT, R369. -/
  | acceptanceReceipt (t : TileId) (d : Dir)
  /-- RELIGHT_DECLARATION, R369. -/
  | relightDeclaration (t : TileId)
  /-- APPEAL_TIMEOUT, R369. -/
  | appealTimeout (t : TileId)
  /-- REGCTX, R394. -/
  | regctx (a0 : Word)
  /-- UNREG, R394. -/
  | unreg (a0 : Word)
  /-- REGFOLIO, R395. -/
  | regfolio (a0 a1 : Word)
  /-- REGQUEUE, R398. -/
  | regqueue (a0 a1 a2 : Word)
  /-- UNREGQUEUE, R394. -/
  | unregqueue (a0 a1 : Word)
  /-- READMIT, R394. -/
  | readmit (a0 : Word)
  /-- SETOWN, R393. -/
  | setown (a0 a1 a2 : Word)
  /-- DOORBELL, R401. -/
  | doorbell (q : Nat) (tail : Word)
  /-- TAIL_READ, R402. -/
  | tailRead (q : Nat)
  /-- RECORD_TAKE, R402. -/
  | recordTake (q : Nat)
  /-- LAUNCH_PLACEMENT, R403. -/
  | launchPlacement (q : Nat)
  /-- LAUNCH_END_SAMPLE, R403. -/
  | launchEndSample
  /-- SLICE_EXPIRY, R404. -/
  | sliceExpiry (t : TileId)
  /-- MODULE_TRAINING_FAIL, R390. -/
  | moduleTrainingFail (m : Bool)
  /-- SAMPLE_RECORD, R418. -/
  | sampleRecord (k : CoreId)
  /-- CHUNK_END, R419. -/
  | chunkEnd (k : CoreId) (h : CtxKind) (cause : BitVec 8) (v : Word)
  /-- MANAGEMENT_HALT, R422. -/
  | managementHalt
  /-- POWER_ON_RESET, R423. -/
  | powerOnReset (rom : BitVec 512) (stages : List BootImage)
  /-- GET_VERSION, R425. -/
  | getVersion
  /-- GET_CAPABILITIES, R425. -/
  | getCapabilities
  /-- NEGOTIATE_ALGORITHMS, R425. -/
  | negotiateAlgorithms
  /-- GET_DIGESTS, R425. -/
  | getDigests
  /-- GET_CERTIFICATE, R425. -/
  | getCertificate
  /-- CHALLENGE, R425. -/
  | challenge (nonce : BitVec 256)
  /-- GET_MEASUREMENTS, R425. -/
  | getMeasurements (nonce : BitVec 256)
  /-- POWER_CAP_SET, R426. -/
  | powerCapSet (watts : BitVec 8)
  /-- FREQUENCY_CHANGE, R426. -/
  | frequencyChange (f : BitVec 4)
  /-- THERMAL_STEP, R427. -/
  | thermalStep (tj : BitVec 8)
  /-- OVERTEMP_POWER_OFF, R427. -/
  | overtempPowerOff (tj : BitVec 8)
  /-- LPDDR_TRAINING, R430. -/
  | lpddrTraining (rate : BitVec 2) (gib : BitVec 8)
  /-- RAMP_WRITE, R307. -/
  | rampWrite (sg : BitVec 4) (v : Word) (lock : Bool)
  /-- TVEC_BRINGUP_WRITE, R432. -/
  | tvecBringupWrite (k : CoreId) (v : Word)
  /-- TILE_RESET, R431. -/
  | tileReset (t : TileId)
  /-- LINK_TRAINING, R430. -/
  | linkTraining
  /-- LINK_SLOT_RETURN, R138. -/
  | linkSlotReturn (k : CoreId) (d : Dir)
  /-- RESERVATION_RELEASE, R166. -/
  | reservationRelease (k : CoreId)
  /-- PAUSE_WINDOW_END, R192. -/
  | pauseWindowEnd (k : CoreId) (h : CtxKind)
  /-- BANK_ARRAY_CYCLE, R204. -/
  | bankArrayCycle (k : CoreId)
  /-- MMAS_STREAM_ARRIVAL, R299. -/
  | mmasStreamArrival (t : TileId)
  /-- WRITE_BACK_ACCEPTANCE, R271. -/
  | writeBackAcceptance (k : CoreId) (h : CtxKind)
  /-- LPDDR6_READ_RETURN, R392. -/
  | lpddr6ReadReturn (line : Line) (bad : BitVec 4)
  /-- CHUNK_RECORD_ACK, R420. -/
  | chunkRecordAck (k : CoreId) (h : CtxKind)
  /-- BULK_PREEMPTION_POINT, R404. -/
  | bulkPreemptionPoint (t : TileId)
  /-- DOE_DISCOVERY, R423. -/
  | doeDiscovery
  /-- MEASUREMENT_EXTENSION, R424. -/
  | measurementExtension (i : BitVec 2) (d : BitVec 512)
deriving DecidableEq, Repr

end Sys2Proof
end

