-- ==== Sys2Proof/Machine/Float.lean ====
section
/-!
DEFINITION. Number formats, `round_to`, stochastic draws and exact arithmetic (R60 to R70, R74, R92
to R96). A real number is held exactly as sign, mantissa and exponent; `st` marks a value strictly
between its mantissa and the next one, for quotients and roots.
-/
namespace Sys2Proof.Machine

/-- How a format encodes infinities and NaNs (R60). -/
inductive FSpecial where
  | infNan | nanOnly | neither
deriving DecidableEq, Repr

/-- A floating-point format (R60): exponent and mantissa bits, bias, code of its largest finite
magnitude and of its canonical NaN (R64). -/
structure Fmt where
  eb : Nat
  mb : Nat
  bias : Nat
  special : FSpecial
  maxCode : Nat
  nan : Nat
deriving DecidableEq, Repr

def fp32 : Fmt := ⟨8, 23, 127, .infNan, 0x7f7fffff, 0x7fc00000⟩
def fp16 : Fmt := ⟨5, 10, 15, .infNan, 0x7bff, 0x7e00⟩
def bf16 : Fmt := ⟨8, 7, 127, .infNan, 0x7f7f, 0x7fc0⟩
def e4m3 : Fmt := ⟨4, 3, 7, .nanOnly, 0x7e, 0x7f⟩
def e5m2 : Fmt := ⟨5, 2, 15, .infNan, 0x7b, 0x7e⟩
def e3m2 : Fmt := ⟨3, 2, 3, .neither, 0x1f, 0⟩
def e2m3 : Fmt := ⟨2, 3, 1, .neither, 0x1f, 0⟩
def e2m1 : Fmt := ⟨2, 1, 1, .neither, 0x7, 0⟩

/-- Bits of the format. -/
def Fmt.width (f : Fmt) : Nat := 1 + f.eb + f.mb

/-- The sign bit in place. -/
def Fmt.sign (f : Fmt) (neg : Bool) : Nat := if neg then 2 ^ (f.eb + f.mb) else 0

/-- The code of infinity's magnitude, in a format that has one. -/
def Fmt.infCode (f : Fmt) : Nat := (2 ^ f.eb - 1) <<< f.mb

/-- An exact extended real: (m + δ) × 2^e with δ = 0, or 0 < δ < 1 when `st` (R65). -/
inductive XVal where
  | nan
  | inf (neg : Bool)
  | fin (neg : Bool) (m : Nat) (e : Int) (st : Bool)
deriving DecidableEq, Repr

/-- The value a code holds (R60, R64: subnormals exact, no flush). -/
def Fmt.decode (f : Fmt) (c : Nat) : XVal :=
  let neg := c.testBit (f.eb + f.mb)
  let ex := (c >>> f.mb) % 2 ^ f.eb
  let mt := c % 2 ^ f.mb
  if f.special = .infNan ∧ ex = 2 ^ f.eb - 1 then (if mt = 0 then .inf neg else .nan)
  else if f.special = .nanOnly ∧ ex = 2 ^ f.eb - 1 ∧ mt = 2 ^ f.mb - 1 then .nan
  else if ex = 0 then .fin neg mt (1 - f.bias - f.mb) false
  else .fin neg (mt + 2 ^ f.mb) ((ex : Int) - f.bias - f.mb) false

/-- Rounding modes of `round_to` (R65); stochastic mode carries its draw (R68). -/
inductive RMode where
  | ne | rz | rp | rm
  | st (draw : Nat)
deriving DecidableEq, Repr

def Rnd.mode : Rnd → RMode
  | .ne => .ne
  | .rz => .rz
  | .rp => .rp
  | .rm => .rm

/-- Step 3 of R65: is the larger magnitude taken? `kept` is the magnitude below in units of the last
place, `rem` of 2^sh what is cut off, `st` more below that. -/
def roundsUp (mode : RMode) (neg : Bool) (kept rem sh : Nat) (st : Bool) : Bool :=
  match mode with
  | .ne => decide (2 * rem > 2 ^ sh) || (decide (2 * rem = 2 ^ sh) && (st || kept % 2 == 1))
  | .rz => false
  | .rp => !neg && (rem != 0 || st)
  | .rm => neg && (rem != 0 || st)
  | .st d => decide (d < (rem * 2 ^ 32) >>> sh)

/-- A magnitude rounded to a multiple of 2^q: the multiple (R65 steps 1 to 3). -/
def roundAt (mode : RMode) (neg : Bool) (m : Nat) (e q : Int) (st : Bool) : Nat :=
  if q ≤ e then m <<< (e - q).toNat
  else
    let sh := (q - e).toNat
    let kept := m >>> sh
    let rem := m % 2 ^ sh
    if rem = 0 ∧ st = false then kept
    else kept + (roundsUp mode neg kept rem sh st).toNat

/-- What replaces an overflowing result (R66), as a code without sign. -/
def Fmt.overflow (f : Fmt) (mode : RMode) (sat neg : Bool) : Nat :=
  if sat then f.maxCode
  else
    let big := match f.special with
      | .infNan => f.infCode
      | .nanOnly => f.nan
      | .neither => f.maxCode
    match mode with
    | .ne | .st _ => big
    | .rz => f.maxCode
    | .rp => if neg then f.maxCode else big
    | .rm => if neg then big else f.maxCode

/-- Sign and magnitude joined; the canonical NaN bears no sign (R64). -/
def Fmt.join (f : Fmt) (neg : Bool) (mag : Nat) : Nat :=
  if f.special = .nanOnly ∧ mag = f.nan then mag else f.sign neg + mag

/-- `round_to(x, fmt, mode, sat)` (R65 to R67): the code of the result. -/
def roundTo (f : Fmt) (mode : RMode) (sat : Bool) : XVal → Nat
  | .nan => f.nan
  | .inf neg =>
    match f.special with
    | .infNan => f.sign neg + f.infCode
    | .nanOnly => if sat then f.sign neg + f.maxCode else f.nan
    | .neither => f.sign neg + f.maxCode
  | .fin neg m e st =>
    if m = 0 then f.sign neg
    else
      let qmin : Int := 1 - f.bias - f.mb
      let q := max ((lg2 m : Int) + e - f.mb) qmin
      let k := roundAt mode neg m e q st
      let mag := (q - qmin).toNat * 2 ^ f.mb + k
      if mag ≤ f.maxCode then f.sign neg + mag else f.join neg (f.overflow mode sat neg)

/-- A finite value rounded to an integer under a mode (R67). -/
def roundInt (mode : RMode) (neg : Bool) (m : Nat) (e : Int) (st : Bool) : Int :=
  let k := roundAt mode neg m e 0 st
  if neg then -(k : Int) else k

/-- Clamp into a closed range. -/
def clampI (x lo hi : Int) : Int := if x < lo then lo else if hi < x then hi else x

/-- Conversion to an integer format with range [lo, hi] (R67): saturating, NaN gives 0. -/
def toInteger (mode : RMode) (lo hi : Int) : XVal → Int
  | .nan => 0
  | .inf neg => if neg then lo else hi
  | .fin neg m e st => clampI (roundInt mode neg m e st) lo hi

/-- An integer as an exact value. -/
def XVal.ofInt (n : Int) : XVal := .fin (decide (n < 0)) n.natAbs 0 false

/-- Sign of an exact zero sum (R92): -0 when every addend is -0, or toward -∞ unless all are +0. -/
def zeroSign (mode : RMode) (na nb : Bool) : Bool :=
  (na && nb) || (decide (mode = .rm) && (na || nb))

def signed (neg : Bool) (m : Nat) : Int := if neg then -(m : Int) else m

/-- Exact sum of two exact values (R92). -/
def XVal.add (mode : RMode) : XVal → XVal → XVal
  | .nan, _ => .nan
  | _, .nan => .nan
  | .inf a, .inf b => if a = b then .inf a else .nan
  | .inf a, .fin .. => .inf a
  | .fin .., .inf b => .inf b
  | .fin na ma ea _, .fin nb mb eb _ =>
    if ma = 0 ∧ mb = 0 then .fin (zeroSign mode na nb) 0 0 false
    else
      let e := min ea eb
      let s := signed na (ma <<< (ea - e).toNat) + signed nb (mb <<< (eb - e).toNat)
      if s = 0 then .fin (decide (mode = .rm)) 0 0 false
      else .fin (decide (s < 0)) s.natAbs e false

def XVal.neg : XVal → XVal
  | .nan => .nan
  | .inf n => .inf (!n)
  | .fin n m e st => .fin (!n) m e st

/-- Exact product (R92). The sign of a zero product is the exclusive or of the operands' signs, as that of any other product (log 69). -/
def XVal.mul : XVal → XVal → XVal
  | .nan, _ => .nan
  | _, .nan => .nan
  | .inf a, .inf b => .inf (a != b)
  | .inf a, .fin nb m _ _ => if m = 0 then .nan else .inf (a != nb)
  | .fin na m _ _, .inf b => if m = 0 then .nan else .inf (na != b)
  | .fin na ma ea _, .fin nb mb eb _ => .fin (na != nb) (ma * mb) (ea + eb) false

/-- Fused a × b + c (R92). -/
def XVal.fma (mode : RMode) (a b c : XVal) : XVal := XVal.add mode (XVal.mul a b) c

/-- Exact quotient, to at least 64 significant bits and a sticky bit (R92). The sign of a zero quotient is the exclusive or of the operands' signs
(log 69). -/
def XVal.div : XVal → XVal → XVal
  | .nan, _ => .nan
  | _, .nan => .nan
  | .inf _, .inf _ => .nan
  | .inf a, .fin nb _ _ _ => .inf (a != nb)
  | .fin na _ _ _, .inf b => .fin (na != b) 0 0 false
  | .fin na ma ea _, .fin nb mb eb _ =>
    if mb = 0 then (if ma = 0 then .nan else .inf (na != nb))
    else if ma = 0 then .fin (na != nb) 0 0 false
    else
      let sh := 64 + lg2 mb
      let q := (ma <<< sh) / mb
      .fin (na != nb) q (ea - eb - sh) ((ma <<< sh) % mb != 0)

/-- floor(√n) for n < 4^k, one bit of the root at a time. -/
def isqrtGo (n : Nat) : Nat → Nat → Nat
  | 0, r => r
  | k + 1, r =>
    let r' := r + 2 ^ k
    isqrtGo n k (if r' * r' ≤ n then r' else r)

/-- floor(√n). -/
def isqrt (n : Nat) : Nat := isqrtGo n (lg2 n / 2 + 1) 0

/-- Exact square root, to at least 32 significant bits and a sticky bit (R92). -/
def XVal.sqrt : XVal → XVal
  | .nan => .nan
  | .inf n => if n then .nan else .inf false
  | .fin n m e _ =>
    if m = 0 then .fin n 0 0 false
    else if n then .nan
    else
      let sh := if e % 2 = 0 then 64 else 65
      let r := isqrt (m <<< sh)
      .fin false r ((e - sh) / 2) (r * r != m <<< sh)

/-- Order of codes with -0 below +0 (R93). -/
def Fmt.key (f : Fmt) (c : Nat) : Int :=
  let mag := c % 2 ^ (f.eb + f.mb)
  if c.testBit (f.eb + f.mb) then -(mag : Int) - 1 else mag

/-- Order of codes with -0 = +0 (R94). -/
def Fmt.val (f : Fmt) (c : Nat) : Int :=
  let mag := c % 2 ^ (f.eb + f.mb)
  if c.testBit (f.eb + f.mb) then -(mag : Int) else mag

def Fmt.isNan (f : Fmt) (c : Nat) : Bool := f.decode c == .nan

/-- FMIN and FMAX on codes (R93). -/
def Fmt.minMax (f : Fmt) (mx : Bool) (a b : Nat) : Nat :=
  if f.isNan a || f.isNan b then f.nan
  else if mx then (if f.key a < f.key b then b else a)
  else (if f.key b < f.key a then b else a)

/-- FCMP on codes (R94). -/
def Fmt.rel (f : Fmt) (r : FRel) (a b : Nat) : Bool :=
  let un := f.isNan a || f.isNan b
  match r with
  | .eq => !un && decide (f.val a = f.val b)
  | .lt => !un && decide (f.val a < f.val b)
  | .le => !un && decide (f.val a ≤ f.val b)
  | .un => un

/-- The one-hot class of a code (R96). -/
def Fmt.classOf (f : Fmt) (c : Nat) : Nat :=
  match f.decode c with
  | .nan => 2 ^ 8
  | .inf n => if n then 1 else 2 ^ 7
  | .fin n m _ _ =>
    if m = 0 then (if n then 2 ^ 3 else 2 ^ 4)
    else if m < 2 ^ f.mb then (if n then 2 ^ 2 else 2 ^ 5)
    else (if n then 2 ^ 1 else 2 ^ 6)

/-- Addition, subtraction, multiplication, division, fused multiply-add and root of codes, each
rounded once (R74, R92, R115). -/
def Fmt.addC (f : Fmt) (md : RMode) (a b : Nat) : Nat := roundTo f md false ((f.decode a).add md (f.decode b))
def Fmt.subC (f : Fmt) (md : RMode) (a b : Nat) : Nat := roundTo f md false ((f.decode a).add md (f.decode b).neg)
def Fmt.mulC (f : Fmt) (md : RMode) (a b : Nat) : Nat := roundTo f md false ((f.decode a).mul (f.decode b))
def Fmt.divC (f : Fmt) (md : RMode) (a b : Nat) : Nat := roundTo f md false ((f.decode a).div (f.decode b))
def Fmt.sqrtC (f : Fmt) (md : RMode) (a : Nat) : Nat := roundTo f md false (f.decode a).sqrt
def Fmt.fmaC (f : Fmt) (md : RMode) (a b c : Nat) : Nat :=
  roundTo f md false (XVal.fma md (f.decode a) (f.decode b) (f.decode c))
def Fmt.fmsC (f : Fmt) (md : RMode) (a b c : Nat) : Nat :=
  roundTo f md false (XVal.fma md (f.decode a) (f.decode b) (f.decode c).neg)
def Fmt.fnmaC (f : Fmt) (md : RMode) (a b c : Nat) : Nat :=
  roundTo f md false (XVal.fma md (f.decode a).neg (f.decode b) (f.decode c))

def ftyFmt : FTy → Fmt
  | .f => fp32
  | .bf => bf16
  | .hf => fp16

/-- xs_next and draw (R68). -/
def xsNext (s : Nat) : Nat :=
  let s := s ^^^ ((s <<< 13) % 2 ^ 32)
  let s := s ^^^ (s >>> 17)
  s ^^^ ((s <<< 5) % 2 ^ 32)

def xsIter : Nat → Nat → Nat
  | 0, s => s
  | n + 1, s => xsIter n (xsNext s)

def draw (seed i : Nat) : Nat := xsIter (i + 1) (if seed = 0 then 0x6d2b79f5 else seed)

/-- FCVT (R91, R95): the result word of a source word. The manual places only BF16 and FP16 results in bits [15:0]; a source of those formats is
read from bits [15:0] too (log 69). -/
def fcvt (k : FCvt) (a : Word) : Word :=
  match k with
  | .lF => BitVec.ofInt 64 (toInteger .rz (-(2 ^ 63)) (2 ^ 63 - 1) (fp32.decode (fld a 0 32)))
  | .luF => BitVec.ofInt 64 (toInteger .rz 0 (2 ^ 64 - 1) (fp32.decode (fld a 0 32)))
  | .fL => BitVec.ofNat 64 (roundTo fp32 .ne false (XVal.ofInt a.toInt))
  | .fLu => BitVec.ofNat 64 (roundTo fp32 .ne false (XVal.ofInt a.toNat))
  | .bfF => BitVec.ofNat 64 (roundTo bf16 .ne false (fp32.decode (fld a 0 32)))
  | .fBf => BitVec.ofNat 64 (roundTo fp32 .ne false (bf16.decode (fld a 0 16)))
  | .hfF => BitVec.ofNat 64 (roundTo fp16 .ne false (fp32.decode (fld a 0 32)))
  | .fHf => BitVec.ofNat 64 (roundTo fp32 .ne false (fp16.decode (fld a 0 16)))

/-! Formats by the codes of R311, element values and their sums. -/

/-- Bits of an element of format code c; 0 for an unassigned code (R311). -/
def codeBits (c : Nat) : Nat :=
  match c with
  | 0x00 => 32 | 0x01 => 16 | 0x02 => 16 | 0x03 => 8 | 0x04 => 8 | 0x05 => 6 | 0x06 => 6 | 0x07 => 4
  | 0x08 => 16 | 0x09 => 8 | 0x0a => 8 | 0x0b => 4 | 0x0c => 4 | 0x0d => 2 | 0x0e => 8 | 0x0f => 8
  | 0x10 => 6 | 0x11 => 6 | 0x12 => 4 | 0x13 => 8 | 0x14 => 32
  | _ => 0

/-- Is the code an MX format? -/
def codeMx (c : Nat) : Bool := decide (0x0e ≤ c) && decide (c ≤ 0x13)

/-- The floating-point format of a code's elements; none for integer elements. -/
def codeFmt (c : Nat) : Option Fmt :=
  match c with
  | 0x00 => some fp32 | 0x01 => some fp16 | 0x02 => some bf16 | 0x03 => some e4m3 | 0x04 => some e5m2
  | 0x05 => some e3m2 | 0x06 => some e2m3 | 0x07 => some e2m1
  | 0x0e => some e4m3 | 0x0f => some e5m2 | 0x10 => some e3m2 | 0x11 => some e2m3 | 0x12 => some e2m1
  | _ => none

/-- Range of an integer format code (R61), MXINT8 and INT32 included. -/
def codeRange (c : Nat) : Int × Int :=
  match c with
  | 0x08 => (-32768, 32767)
  | 0x09 => (-128, 127)
  | 0x0a => (0, 255)
  | 0x0b => (-8, 7)
  | 0x0c => (0, 15)
  | 0x0d => (-1, 1)
  | 0x13 => (-127, 127)
  | 0x14 => (-(2 ^ 31), 2 ^ 31 - 1)
  | _ => (0, 0)

/-- The value of an element by its format code, without MX scale (R60, R61, R63). -/
def elemVal (c code : Nat) : XVal :=
  match codeFmt c with
  | some f => f.decode code
  | none =>
    match c with
    | 0x0a => XVal.ofInt (code % 256 : Nat)
    | 0x0c => XVal.ofInt (code % 16 : Nat)
    | 0x0d => XVal.ofInt (if code % 4 = 1 then 1 else if code % 4 = 3 then -1 else 0)
    | 0x13 =>
      match XVal.ofInt (toIntN 8 code) with
      | .fin n m e st => .fin n m (e - 6) st
      | x => x
    | _ => XVal.ofInt (toIntN (codeBits c) code)

/-- A value times the scale of an E8M0 byte (R63). -/
def scaled (x : Nat) : XVal → XVal
  | .nan => .nan
  | .inf n => if x = 0xff then .nan else .inf n
  | .fin n m e st => if x = 0xff then .nan else .fin n m (e + x - 127) st

/-- Conversion of an exact value to a format that is not MX (R67, R69). -/
def toCode (c : Nat) (mode : RMode) (sat : Bool) (x : XVal) : Nat :=
  match codeFmt c with
  | some f => roundTo f mode sat x
  | none =>
    let r := codeRange c
    let n := toInteger mode r.1 r.2 x
    (n % (2 ^ codeBits c : Nat)).toNat

/-- emax of an MX element format (R70). -/
def codeEmax (c : Nat) : Int :=
  match c with
  | 0x0e => 8 | 0x0f => 15 | 0x10 => 4 | 0x11 => 2 | 0x12 => 2
  | _ => 0

/-- Largest |x| of a block as mantissa and exponent, by comparison at a common exponent. -/
def maxAbs : List XVal → Nat × Int
  | [] => (0, 0)
  | .fin _ m e _ :: r =>
    let (m', e') := maxAbs r
    let k := min e e'
    if m' <<< (e' - k).toNat < m <<< (e - k).toNat then (m, e) else (m', e')
  | _ :: r => maxAbs r

/-- One element of a quantised block: x / 2^e into the element format, saturating (R70). -/
def quantElem (c : Nat) (mode : RMode) (e : Int) (x : XVal) : Nat :=
  match x with
  | .fin n m ex st =>
    match codeFmt c with
    | some f => roundTo f mode true (.fin n m (ex - e) st)
    | none =>
      let k := clampI (roundInt mode n m (ex - e + 6) st) (-127) 127
      (k % 256).toNat
  | _ => 0

/-- quantise_block (R70) of FP32 values; `modes` gives each element's mode with its draw. -/
def quantiseBlock (c : Nat) (xs : List XVal) (modes : List RMode) : Nat × List Nat :=
  if xs.any (fun x => match x with | .fin .. => false | _ => true) then (0xff, xs.map (fun _ => 0))
  else
    let (m, e) := maxAbs xs
    let ex := if m = 0 then 0 else clampI ((lg2 m : Int) + e - codeEmax c) (-127) 127
    ((ex + 127).toNat, List.zipWith (fun x md => quantElem c md ex x) xs modes)

/-! The exact slice sum (R72, R73). -/

/-- The exact sum of finite values at a common exponent: signed mantissa and exponent. -/
def sumFin : List XVal → Int × Int
  | [] => (0, 0)
  | .fin n m e _ :: r =>
    let (s, e') := sumFin r
    let k := min e e'
    (signed n (m <<< (e - k).toNat) + s * (2 ^ (e' - k).toNat : Nat), k)
  | _ :: r => sumFin r

def isNegZero : XVal → Bool
  | .fin n m _ _ => n && m == 0
  | _ => false

def infSign : XVal → Option Bool
  | .inf n => some n
  | _ => none

/-- The value C + S of a floating slice before its rounding (R72): C and the products. -/
def sliceVal (c : XVal) (ps : List XVal) : XVal :=
  if c = .nan ∨ ps.any (· == .nan) then .nan
  else
    let infs := (c :: ps).filterMap infSign
    match infs with
    | n :: r => if r.all (· == n) then .inf n else .nan
    | [] =>
      let (s, e) := sumFin ps
      let sneg := ps.all isNegZero && s == 0
      let sum : XVal := if s = 0 then .fin sneg 0 0 false else .fin (decide (s < 0)) s.natAbs e false
      XVal.add .ne c sum

/-- apply_slice on an FP32 accumulator (R72). -/
def applySliceF (c : BitVec 32) (ps : List XVal) : BitVec 32 :=
  BitVec.ofNat 32 (roundTo fp32 .ne false (sliceVal (fp32.decode c.toNat) ps))

/-- apply_slice on an INT32 accumulator: the exact sum, clamped (R72). -/
def applySliceI (c : BitVec 32) (ps : List Int) : BitVec 32 :=
  BitVec.ofInt 32 (clampI (c.toInt + ps.foldl (· + ·) 0) (-(2 ^ 31)) (2 ^ 31 - 1))

end Sys2Proof.Machine
end

