-- ==== Sys2Proof/WellFormed.lean ====
section
/-!
DEFINITION. Well-formed instructions: those that have words of their own (R34 to R36, R50, R58).
A specifier or scope that the manual rejects is not ill-formed: such words decode, and trap when they issue.
-/
namespace Sys2Proof

/-- Is the row an event of another agent of the part, which no words encode? -/
def Instr.isEvent : Instr → Bool
  | .unassignedOpcode .. | .asyncEventEntry .. | .timerExpiry .. | .wfeWake .. | .leafFill ..
  | .coreRelease .. | .csrWrite .. | .timecmpWrite .. | .qmapWrite .. | .tkillWrite ..
  | .deathTrapEntry .. | .deathPurgeComplete .. | .mprogStopRequest .. | .mprogVClear .. | .linkWordArrival ..
  | .gangFormation .. | .launchAccept .. | .activeMessageArrival .. | .remoteAtomicApply .. | .barrierArrival ..
  | .bwaitResume .. | .copyxRequest .. | .handlerActivation .. | .handlerBudgetExpiry .. | .streamWordArrival ..
  | .streamReduceApply .. | .streamEosActivation .. | .streamCreditReturn .. | .messageRefusalArrival .. | .slotReturnArrival ..
  | .remoteLoadRequest .. | .remoteStoreArrival .. | .storeAckArrival .. | .storeRefusalArrival .. | .loadCompletion ..
  | .stampFillComplete .. | .tokenRequest .. | .tokenResponse .. | .persistentRequest .. | .persistentDeactivation ..
  | .rebalanceWindowEnd | .indirectionUpdate .. | .hostSnpData .. | .hostSnpInv .. | .rdownComplete ..
  | .rdsharedComplete .. | .hostMemrd .. | .hostReadOwn .. | .hostWriteback .. | .bisnpinvComplete ..
  | .bisnpdataComplete .. | .hostAtomic .. | .dscEviction .. | .poisonDetection .. | .farAtomicApply ..
  | .redLogAppend .. | .mergeApplication .. | .bindInvalidation .. | .waitaReread .. | .chunkLanding ..
  | .cveBlockConvert .. | .commandCompletion .. | .commandFailure .. | .completionDelivery .. | .sgvStep ..
  | .mteSliceEnd .. | .mteWritebackComplete .. | .mzeroComplete .. | .mteFailure .. | .noticeArrival ..
  | .recordReceive | .translationResponse .. | .pageResponse .. | .atsInvalidationRequest .. | .atsInvalidationComplete
  | .pageHashCheck .. | .switchHold .. | .switchEngineStop .. | .switchDrain .. | .switchSave ..
  | .switchRestore .. | .switchResume .. | .linkFlitError .. | .linkLoss .. | .beaconSend ..
  | .beaconReceive .. | .silenceTimeout .. | .malformedFlit .. | .voteRelay .. | .voteExpiry ..
  | .darkDeclaration .. | .portClose .. | .selfTestDone .. | .relightAppeal .. | .appealReceipt ..
  | .acceptanceReceipt .. | .relightDeclaration .. | .appealTimeout .. | .regctx .. | .unreg ..
  | .regfolio .. | .regqueue .. | .unregqueue .. | .readmit .. | .setown ..
  | .doorbell .. | .tailRead .. | .recordTake .. | .launchPlacement .. | .launchEndSample
  | .sliceExpiry .. | .moduleTrainingFail .. | .sampleRecord .. | .chunkEnd .. | .managementHalt
  | .powerOnReset .. | .getVersion | .getCapabilities | .negotiateAlgorithms | .getDigests
  | .getCertificate | .challenge .. | .getMeasurements .. | .powerCapSet .. | .frequencyChange ..
  | .thermalStep .. | .overtempPowerOff .. | .lpddrTraining .. | .rampWrite .. | .tvecBringupWrite ..
  | .tileReset .. | .linkTraining | .linkSlotReturn .. | .reservationRelease .. | .pauseWindowEnd ..
  | .bankArrayCycle .. | .mmasStreamArrival .. | .writeBackAcceptance .. | .lpddr6ReadReturn .. | .chunkRecordAck ..
  | .bulkPreemptionPoint .. | .doeDiscovery | .measurementExtension ..
    => true
  | _ => false

/-- A hint value is 0xf1 to 0xff; 0xf0 is NOP (R45, R58). -/
def Instr.hintOk : Instr → Bool
  | .hint k => k != 0
  | _ => true

/-- The instruction has words. -/
def Instr.wf (i : Instr) : Bool := !i.isEvent && i.hintOk

end Sys2Proof
end

