-- ==== Sys2Proof/Decode.lean ====
section
/-!
DEFINITION. The decoder, total on any halfwords, and the encoder, both from the tables of R34 to R38
and R50 to R58. Words that the core answers with the illegal-instruction trap are rejected by name.
-/
namespace Sys2Proof

/-! Head and tails (R34, R35). -/

def headOp (h : Half) : BitVec 8 := h.extractLsb' 8 8
def headL (h : Half) : BitVec 2 := h.extractLsb' 6 2
def headA (h : Half) : Spec := h.extractLsb' 0 6
def mkHead (op : BitVec 8) (l : BitVec 2) (a : Spec) : Half := op ++ l ++ a

/-- The high specifier of an RR, RI or MS tail. -/
def tailA (t : Half) : Spec := t.extractLsb' 10 6
def rrB (t : Half) : Spec := t.extractLsb' 4 6
def rrFn (t : Half) : BitVec 4 := t.extractLsb' 0 4
def mkRR (a b : Spec) (fn : BitVec 4) : Half := a ++ b ++ fn

def riImm (t : Half) : BitVec 10 := t.extractLsb' 0 10
def mkRI (a : Spec) (i : BitVec 10) : Half := a ++ i

def readRX (t : Half) : RX :=
  ⟨t.extractLsb' 10 6, t.getLsbD 9, t.extractLsb' 6 3, t.extractLsb' 4 2, t.extractLsb' 0 4⟩
def mkRX (r : RX) : Half := r.c ++ BitVec.ofBool r.p ++ r.m ++ r.gsel ++ r.goff
/-- An RX tail of which only field c has a role (R52). -/
def mkRXc (c : Spec) : Half := mkRX ⟨c, false, 0, 0, 0⟩

def msSp (t : Half) : Space := if t.getLsbD 9 then .arr else .virt
def msFn (t : Half) : BitVec 3 := t.extractLsb' 6 3
def msSc (t : Half) : BitVec 3 := t.extractLsb' 3 3
def Space.code : Space → BitVec 1
  | .virt => 0
  | .arr => 1
def mkMS (a : Spec) (sp : Space) (fn sc : BitVec 3) : Half := a ++ sp.code ++ fn ++ sc ++ (0 : BitVec 3)

def readT (t : Half) : Target := ⟨t.extractLsb' 6 10, t.extractLsb' 1 5⟩
def mkT (t : Target) : Half := t.lo ++ t.slot ++ (0 : BitVec 1)

def csNum (t : Half) : BitVec 10 := t.extractLsb' 6 10
def csA (t : Half) : Spec := t.extractLsb' 0 6
def mkCS (n : BitVec 10) (a : Spec) : Half := n ++ a

/-! Function codes (R53, R54) and scopes (R43). -/

def Scope.read (n : BitVec 3) : Option Scope :=
  match n.toNat with
  | 0 => some .core | 1 => some .tile | 2 => some .group | 3 => some .sg | 4 => some .dev | 5 => some .sys
  | _ => none
def Scope.code : Scope → BitVec 3
  | .core => 0 | .tile => 1 | .group => 2 | .sg => 3 | .dev => 4 | .sys => 5

def LaneW.read : Nat → Option LaneW
  | 0 => some .b | 1 => some .h | 2 => some .w | 3 => some .d
  | _ => none
def LaneW.code : LaneW → Nat
  | .b => 0 | .h => 1 | .w => 2 | .d => 3

def ExtW.read : Nat → Option ExtW
  | 0 => some .b | 1 => some .h | 2 => some .w
  | _ => none
def ExtW.code : ExtW → Nat
  | .b => 0 | .h => 1 | .w => 2

def Rnd.read : Nat → Option Rnd
  | 0 => some .ne | 1 => some .rz | 2 => some .rp | 3 => some .rm
  | _ => none
def Rnd.code : Rnd → Nat
  | .ne => 0 | .rz => 1 | .rp => 2 | .rm => 3

def FRel.read : Nat → Option FRel
  | 0 => some .eq | 1 => some .lt | 2 => some .le | 3 => some .un
  | _ => none
def FRel.code : FRel → Nat
  | .eq => 0 | .lt => 1 | .le => 2 | .un => 3

def FCvt.read : Nat → Option FCvt
  | 0 => some .lF | 1 => some .luF | 2 => some .fL | 3 => some .fLu | 4 => some .bfF | 5 => some .fBf | 6 => some .hfF | 7 => some .fHf
  | _ => none
def FCvt.code : FCvt → Nat
  | .lF => 0 | .luF => 1 | .fL => 2 | .fLu => 3 | .bfF => 4 | .fBf => 5 | .hfF => 6 | .fHf => 7

def FTy.read : Nat → Option FTy
  | 0 => some .f | 1 => some .bf | 2 => some .hf
  | _ => none
def FTy.code : FTy → Nat
  | .f => 0 | .bf => 1 | .hf => 2

def DotK.read : Nat → Option DotK
  | 0 => some .s | 1 => some .u
  | _ => none
def DotK.code : DotK → Nat
  | .s => 0 | .u => 1

def VCvt.read : Nat → Option VCvt
  | 0 => some .bfF | 1 => some .fBf | 2 => some .hfF | 3 => some .fHf | 4 => some .wF | 5 => some .fW
  | _ => none
def VCvt.code : VCvt → Nat
  | .bfF => 0 | .fBf => 1 | .hfF => 2 | .fHf => 3 | .wF => 4 | .fW => 5

def AmoOp.read : Nat → Option AmoOp
  | 0 => some .add | 1 => some .and | 2 => some .or | 3 => some .xor | 4 => some .swap | 5 => some .min | 6 => some .max | 7 => some .maxu
  | _ => none
def AmoOp.code : AmoOp → Nat
  | .add => 0 | .and => 1 | .or => 2 | .xor => 3 | .swap => 4 | .min => 5 | .max => 6 | .maxu => 7

def RedK.read : Nat → Option RedK
  | 0 => some .f | 1 => some .w | 2 => some .d
  | _ => none
def RedK.code : RedK → Nat
  | .f => 0 | .w => 1 | .d => 2

def IRel.read : Nat → Option IRel
  | 0 => some .eq | 1 => some .ne | 2 => some .lt | 3 => some .ltu
  | _ => none
def IRel.code : IRel → Nat
  | .eq => 0 | .ne => 1 | .lt => 2 | .ltu => 3

def RedOp.read : Nat → Option RedOp
  | 0 => some .add | 1 => some .min | 2 => some .max
  | _ => none
def RedOp.code : RedOp → Nat
  | .add => 0 | .min => 1 | .max => 2

def CasW.read : Nat → Option CasW
  | 2 => some .w | 3 => some .d
  | _ => none
def CasW.code : CasW → Nat
  | .w => 2 | .d => 3

def FDotK.read : Nat → Option FDotK
  | 1 => some .bf | 2 => some .hf
  | _ => none
def FDotK.code : FDotK → Nat
  | .bf => 1 | .hf => 2

/-- fn[3:2] and fn[1:0] of VCMP, VFCMP, VRED and VFRED; fn[2] and fn[1:0] of VMULH, VMIN, VMAX (R53). -/
def SgnW.read (n : Nat) : Option SgnW := if n < 8 then (LaneW.read (n % 4)).map (SgnW.mk (n / 4 == 1)) else none
def SgnW.code (x : SgnW) : Nat := x.uns.toNat * 4 + x.w.code
def VRel.read (n : Nat) : Option VRel :=
  match IRel.read (n / 4), LaneW.read (n % 4) with
  | some r, some w => some ⟨r, w⟩
  | _, _ => none
def VRel.code (x : VRel) : Nat := x.rel.code * 4 + x.w.code
def VFRel.read (n : Nat) : Option VFRel :=
  match FRel.read (n / 4), FTy.read (n % 4) with
  | some r, some w => some ⟨r, w⟩
  | _, _ => none
def VFRel.code (x : VFRel) : Nat := x.rel.code * 4 + x.ty.code
def VRedK.read (n : Nat) : Option VRedK :=
  match RedOp.read (n / 4), LaneW.read (n % 4) with
  | some r, some w => some ⟨r, w⟩
  | _, _ => none
def VRedK.code (x : VRedK) : Nat := x.op.code * 4 + x.w.code
def VFRedK.read (n : Nat) : Option VFRedK :=
  match RedOp.read (n / 4), FTy.read (n % 4) with
  | some r, some w => some ⟨r, w⟩
  | _, _ => none
def VFRedK.code (x : VFRedK) : Nat := x.op.code * 4 + x.ty.code

/-- The only function code that an opcode without a list assigns (R53, R54). -/
def plainFn {w : Nat} (fn : BitVec w) (i : Instr) : Option Instr := if fn = 0 then some i else none

/-- VCVT's b field: mode in b[1:0], sat in b[2] (R122). -/
def vcvtB (md : Rnd) (sat : Bool) : Spec := (0 : BitVec 3) ++ BitVec.ofBool sat ++ BitVec.ofNat 2 md.code

/-! The decoder. -/

/-- Why words have no instruction: L differs from the format, fn or sc is unassigned (R38), or sp is
not accepted (R55). -/
inductive DecodeError where
  | badLength
  | badFunction
  | badSpace
deriving DecidableEq, Repr

/-- The sp column of R54. -/
inductive SpRule where
  | either | virt | arr | ignored
deriving DecidableEq, Repr

def SpRule.ok : SpRule → Space → Bool
  | .virt, .arr => false
  | .arr, .virt => false
  | _, _ => true

/-- The formats of R36, each with the instruction that its fields make; `none` where fn or sc is unassigned. -/
inductive Form where
  | n (f : Spec → Instr)
  | r (f : BitVec 4 → Spec → Spec → Spec → Option Instr)
  | i (f : Spec → Spec → BitVec 10 → Instr)
  | c (f : Spec → Target → Instr)
  | s (f : Spec → BitVec 10 → Spec → Instr)
  | v (f : BitVec 4 → Spec → Spec → Spec → RX → Option Instr)
  | cb (f : Spec → Spec → Target → Instr)
  | m (sp : SpRule) (f : BitVec 3 → BitVec 3 → Spec → MemOp → Option Instr)
  | w (f : Spec → BitVec 32 → Instr)
  | vm (sp : SpRule) (f : BitVec 3 → BitVec 3 → Spec → MemOp → RX → Option Instr)

def okOr (e : DecodeError) : Option Instr → Except DecodeError Instr
  | some i => .ok i
  | none => .error e

/-- A memory form once its fn and sc are read: R38, then the space of R55, before any specifier is looked at (log 55). -/
def okSp (p : SpRule) (sp : Space) : Option Instr → Except DecodeError Instr
  | some i => if p.ok sp then .ok i else .error .badSpace
  | none => .error .badFunction

/-- The instruction of a head and its tails under a format; L and the tails must be the format's (R38). -/
def Form.read (g : Form) (h : Half) (ts : List Half) : Except DecodeError Instr :=
  match g, (headL h).toNat, ts with
  | .n f, 0, [] => .ok (f (headA h))
  | .r f, 1, [t] => okOr .badFunction (f (rrFn t) (headA h) (tailA t) (rrB t))
  | .i f, 1, [t] => .ok (f (headA h) (tailA t) (riImm t))
  | .c f, 1, [t] => .ok (f (headA h) (readT t))
  | .s f, 1, [t] => .ok (f (headA h) (csNum t) (csA t))
  | .v f, 2, [t, x] => okOr .badFunction (f (rrFn t) (headA h) (tailA t) (rrB t) (readRX x))
  | .cb f, 2, [t, x] => .ok (f (headA h) (tailA t) (readT x))
  | .m p f, 2, [t, x] => okSp p (msSp t) (f (msFn t) (msSc t) (headA h) ⟨msSp t, tailA t, x⟩)
  | .w f, 2, [t, x] => .ok (f (headA h) (x ++ t))
  | .vm p f, 3, [t, u, x] => okSp p (msSp t) (f (msFn t) (msSc t) (headA h) ⟨msSp t, tailA t, x⟩ (readRX u))
  | _, _, _ => .error .badLength

/-- Row 0x0 of the opcode map (R50). -/
def formRow0 : Nat → Option Form
  | 0x1 => some (.n fun a => .trap a)
  | 0x2 => some (.n fun a => .brk a)
  | 0x3 => some (.n fun _ => .eret)
  | 0x4 => some (.n fun _ => .halt)
  | 0x5 => some (.n fun _ => .wfe)
  | 0x6 => some (.s fun d n a => .csrd d n a)
  | 0x7 => some (.s fun d n a => .cswr d n a)
  | 0x8 => some (.s fun d n a => .csset d n a)
  | 0x9 => some (.s fun d n a => .csclr d n a)
  | 0xa => some (.w fun d i => .ldi d i)
  | 0xb => some (.w fun d i => .ldih d i)
  | 0xc => some (.r fun fn d a _ => plainFn fn (.mov d a))
  | 0xd => some (.m .either fun fn _ d m => plainFn fn (.lea d m))
  | 0xe => some (.i fun d a i => .coord d a i)
  | 0xf => some (.i fun d a i => .widx d a i)
  | _ => none

/-- Row 0x1 of the opcode map (R50). -/
def formRow1 : Nat → Option Form
  | 0x0 => some (.r fun fn d a b => plainFn fn (.add d a b))
  | 0x1 => some (.i fun d a i => .addi d a i)
  | 0x2 => some (.r fun fn d a b => plainFn fn (.sub d a b))
  | 0x3 => some (.r fun fn d a b => plainFn fn (.mul d a b))
  | 0x4 => some (.r fun fn d a b => plainFn fn (.mulh d a b))
  | 0x5 => some (.r fun fn d a b => plainFn fn (.mulhu d a b))
  | 0x6 => some (.r fun fn d a b => plainFn fn (.div d a b))
  | 0x7 => some (.r fun fn d a b => plainFn fn (.divu d a b))
  | 0x8 => some (.r fun fn d a b => plainFn fn (.rem d a b))
  | 0x9 => some (.r fun fn d a b => plainFn fn (.remu d a b))
  | 0xa => some (.r fun fn d a b => plainFn fn (.and d a b))
  | 0xb => some (.i fun d a i => .andi d a i)
  | 0xc => some (.r fun fn d a b => plainFn fn (.or d a b))
  | 0xd => some (.i fun d a i => .ori d a i)
  | 0xe => some (.r fun fn d a b => plainFn fn (.xor d a b))
  | 0xf => some (.i fun d a i => .xori d a i)
  | _ => none

/-- Row 0x2 of the opcode map (R50). -/
def formRow2 : Nat → Option Form
  | 0x0 => some (.r fun fn d a b => plainFn fn (.shl d a b))
  | 0x1 => some (.i fun d a i => .shli d a i)
  | 0x2 => some (.r fun fn d a b => plainFn fn (.shr d a b))
  | 0x3 => some (.i fun d a i => .shri d a i)
  | 0x4 => some (.r fun fn d a b => plainFn fn (.sar d a b))
  | 0x5 => some (.i fun d a i => .sari d a i)
  | 0x6 => some (.r fun fn d a b => plainFn fn (.min d a b))
  | 0x7 => some (.r fun fn d a b => plainFn fn (.max d a b))
  | 0x8 => some (.r fun fn d a b => plainFn fn (.minu d a b))
  | 0x9 => some (.r fun fn d a b => plainFn fn (.maxu d a b))
  | 0xa => some (.r fun fn d a b => plainFn fn (.seq d a b))
  | 0xb => some (.r fun fn d a b => plainFn fn (.sne d a b))
  | 0xc => some (.r fun fn d a b => plainFn fn (.slt d a b))
  | 0xd => some (.i fun d a i => .slti d a i)
  | 0xe => some (.r fun fn d a b => plainFn fn (.sltu d a b))
  | 0xf => some (.v fun fn d a b x => plainFn fn (.sel d a b x.c))
  | _ => none

/-- Row 0x3 of the opcode map (R50). -/
def formRow3 : Nat → Option Form
  | 0x0 => some (.r fun fn d a _ => plainFn fn (.clz d a))
  | 0x1 => some (.r fun fn d a _ => plainFn fn (.ctz d a))
  | 0x2 => some (.r fun fn d a _ => plainFn fn (.popc d a))
  | 0x3 => some (.r fun fn d a _ => plainFn fn (.brev d a))
  | 0x4 => some (.r fun fn d a _ => plainFn fn (.bswap d a))
  | 0x5 => some (.r fun fn d a b => plainFn fn (.bfx d a b))
  | 0x6 => some (.r fun fn d a b => plainFn fn (.bfxu d a b))
  | 0x7 => some (.r fun fn d a b => plainFn fn (.bfi d a b))
  | 0x8 => some (.r fun fn d a _ => (ExtW.read fn.toNat).map fun k => .sext k d a)
  | 0x9 => some (.r fun fn d a _ => (ExtW.read fn.toNat).map fun k => .zext k d a)
  | 0xa => some (.r fun fn d a b => plainFn fn (.addra d a b))
  | _ => none

/-- Row 0x4 of the opcode map (R50). -/
def formRow4 : Nat → Option Form
  | 0x0 => some (.c fun _ t => .b t)
  | 0x1 => some (.cb fun a b t => .beq a b t)
  | 0x2 => some (.cb fun a b t => .bne a b t)
  | 0x3 => some (.cb fun a b t => .blt a b t)
  | 0x4 => some (.cb fun a b t => .bge a b t)
  | 0x5 => some (.cb fun a b t => .bltu a b t)
  | 0x6 => some (.cb fun a b t => .bgeu a b t)
  | 0x7 => some (.c fun a t => .call a t)
  | 0x8 => some (.r fun fn d a _ => plainFn fn (.callr d a))
  | 0x9 => some (.c fun a t => .bz a t)
  | 0xa => some (.c fun a t => .bnz a t)
  | 0xb => some (.c fun a t => .loop a t)
  | 0xc => some (.n fun a => .jr a)
  | 0xe => some (.n fun a => .ret a)
  | _ => none

/-- Row 0x5 of the opcode map (R50). -/
def formRow5 : Nat → Option Form
  | 0x0 => some (.r fun fn d a b => (Rnd.read fn.toNat).map fun k => .fadd k d a b)
  | 0x1 => some (.r fun fn d a b => (Rnd.read fn.toNat).map fun k => .fsub k d a b)
  | 0x2 => some (.r fun fn d a b => (Rnd.read fn.toNat).map fun k => .fmul k d a b)
  | 0x3 => some (.v fun fn d a b x => (Rnd.read fn.toNat).map fun k => .ffma k d a b x.c)
  | 0x4 => some (.r fun fn d a b => (Rnd.read fn.toNat).map fun k => .fdiv k d a b)
  | 0x5 => some (.r fun fn d a _ => (Rnd.read fn.toNat).map fun k => .fsqrt k d a)
  | 0x6 => some (.r fun fn d a b => plainFn fn (.fmin d a b))
  | 0x7 => some (.r fun fn d a b => plainFn fn (.fmax d a b))
  | 0x8 => some (.r fun fn d a b => (FRel.read fn.toNat).map fun k => .fcmp k d a b)
  | 0x9 => some (.r fun fn d a _ => (FCvt.read fn.toNat).map fun k => .fcvt k d a)
  | 0xa => some (.r fun fn d a _ => plainFn fn (.fclass d a))
  | _ => none

/-- Row 0x6 of the opcode map (R50). -/
def formRow6 : Nat → Option Form
  | 0x0 => some (.m .either fun fn _ d m => (LaneW.read fn.toNat).map fun k => .ld k d m)
  | 0x1 => some (.m .either fun fn _ d m => (ExtW.read fn.toNat).map fun k => .ldu k d m)
  | 0x2 => some (.m .either fun fn _ d m => (LaneW.read fn.toNat).map fun k => .st k d m)
  | 0x3 => some (.m .either fun fn sc d m => match LaneW.read fn.toNat, Scope.read sc with
    | some k, some c => some (.ldacq k c d m)
    | _, _ => none)
  | 0x4 => some (.m .either fun fn sc d m => match LaneW.read fn.toNat, Scope.read sc with
    | some k, some c => some (.strel k c d m)
    | _, _ => none)
  | 0x5 => some (.vm .either fun fn sc d m x => match AmoOp.read fn.toNat, Scope.read sc with
    | some k, some c => some (.amo k c d m x.c)
    | _, _ => none)
  | 0x6 => some (.vm .virt fun fn sc d m x => match AmoOp.read fn.toNat, Scope.read sc with
    | some k, some c => some (.amofar k c d ⟨m.a, m.off⟩ x.c)
    | _, _ => none)
  | 0x7 => some (.vm .either fun fn sc d m x => match CasW.read fn.toNat, Scope.read sc with
    | some k, some c => some (.cas k c d m x.c)
    | _, _ => none)
  | 0x8 => some (.vm .virt fun fn sc d m x => match CasW.read fn.toNat, Scope.read sc with
    | some k, some c => some (.casfar k c d ⟨m.a, m.off⟩ x.c)
    | _, _ => none)
  | 0x9 => some (.vm .virt fun fn sc d m x => match Scope.read sc with
    | some c => plainFn fn (.amof c d ⟨m.a, m.off⟩ x.c)
    | _ => none)
  | 0xa => some (.m .virt fun fn _ d m => (RedK.read fn.toNat).map fun k => .red k d ⟨m.a, m.off⟩)
  | 0xb => some (.m .virt fun fn _ d m => plainFn fn (.merge d ⟨m.a, m.off⟩))
  | 0xc => some (.m .ignored fun fn sc _ _ => match fn.toNat with
    | 0 => (Scope.read sc).map fun c => .fence c
    | 1 => some .fenceRs
    | _ => none)
  | 0xd => some (.m .virt fun fn sc d m => match Scope.read sc with
    | some c => plainFn fn (.bind c d ⟨m.a, m.off⟩)
    | _ => none)
  | 0xe => some (.m .virt fun fn sc d m => match CasW.read fn.toNat, Scope.read sc with
    | some k, some c => some (.waita k c d ⟨m.a, m.off⟩)
    | _, _ => none)
  | 0xf => some (.m .virt fun fn _ _ m => match fn.toNat with
    | 0 => some (.pref false ⟨m.a, m.off⟩)
    | 1 => some (.pref true ⟨m.a, m.off⟩)
    | _ => none)
  | _ => none

/-- Row 0x7 of the opcode map (R50). -/
def formRow7 : Nat → Option Form
  | 0x0 => some (.m .virt fun fn _ _ m => plainFn fn (.cwb ⟨m.a, m.off⟩))
  | 0x1 => some (.m .virt fun fn _ _ m => plainFn fn (.cinv ⟨m.a, m.off⟩))
  | 0x2 => some (.n fun a => .gang a)
  | 0x3 => some (.n fun _ => .split)
  | 0x4 => some (.m .arr fun fn _ d m => plainFn fn (.send d ⟨m.a, m.off⟩))
  | 0x5 => some (.vm .arr fun fn _ d m x => plainFn fn (.sendv d ⟨m.a, m.off⟩ x))
  | 0x6 => some (.m .arr fun fn _ d m => plainFn fn (.spawn d ⟨m.a, m.off⟩))
  | 0x7 => some (.i fun d a i => .sbind d a i)
  | 0x8 => some (.i fun d _ i => .sunbind d i)
  | 0x9 => some (.r fun fn d a b => plainFn fn (.rqadd d a b))
  | 0xa => some (.r fun fn d _ _ => plainFn fn (.rqtake d))
  | 0xb => some (.r fun fn d a b => plainFn fn (.rqpeek d a b))
  | 0xc => some (.r fun fn d a b => plainFn fn (.steal d a b))
  | 0xd => some (.n fun _ => .texit)
  | 0xe => some (.n fun _ => .yield)
  | 0xf => some (.n fun _ => .hret)
  | _ => none

/-- Row 0x8 of the opcode map (R50). -/
def formRow8 : Nat → Option Form
  | 0x0 => some (.r fun fn d a _ => plainFn fn (.tmset d a))
  | 0x1 => some (.i fun _ a i => .pause a i)
  | 0x2 => some (.i fun d a i => .binit d a i)
  | 0x3 => some (.m .arr fun fn _ _ m => plainFn fn (.barv ⟨m.a, m.off⟩))
  | 0x4 => some (.i fun d a i => .bwait d a i)
  | 0x5 => some (.i fun d _ i => .btest d i)
  | 0x6 => some (.i fun d a i => .bexp d a i)
  | 0x7 => some (.r fun fn _ a _ => plainFn fn (.slotf a))
  | 0x8 => some (.m .either fun fn _ d m => plainFn fn (.copy d m))
  | 0x9 => some (.m .either fun fn _ d m => plainFn fn (.copy2 d m))
  | 0xa => some (.m .either fun fn _ d m => plainFn fn (.copyx d m))
  | 0xb => some (.m .either fun fn _ d m => plainFn fn (.copym d m))
  | 0xc => some (.m .either fun fn _ d m => plainFn fn (.conv d m))
  | 0xd => some (.i fun d a i => if i.getLsbD 0 then .mviewSv d a (i.extractLsb' 5 5) else .mview d a)
  | 0xe => some (.n fun a => .mzero a)
  | 0xf => some (.v fun fn d a b x => plainFn fn (.mma d a b x.c))
  | _ => none

/-- Row 0x9 of the opcode map (R50). -/
def formRow9 : Nat → Option Form
  | 0x0 => some (.v fun fn d a b x => plainFn fn (.mmax d a b x.c))
  | 0x1 => some (.v fun fn d a b x => plainFn fn (.mmas d a b x.c))
  | 0x2 => some (.v fun fn d a b x => plainFn fn (.mmar d a b x.c))
  | 0x3 => some (.r fun fn d a _ => plainFn fn (.mprog d a))
  | 0x4 => some (.n fun a => .mwait a)
  | 0x8 => some (.v fun fn d a b x => (LaneW.read fn.toNat).map fun k => .vadd k d a b x)
  | 0x9 => some (.v fun fn d a b x => (LaneW.read fn.toNat).map fun k => .vaddTwin k d a b x)
  | 0xa => some (.v fun fn d a b x => (LaneW.read fn.toNat).map fun k => .vsub k d a b x)
  | 0xb => some (.v fun fn d a b x => (LaneW.read fn.toNat).map fun k => .vsubTwin k d a b x)
  | 0xc => some (.v fun fn d a b x => (LaneW.read fn.toNat).map fun k => .vmul k d a b x)
  | 0xd => some (.v fun fn d a b x => (LaneW.read fn.toNat).map fun k => .vmulTwin k d a b x)
  | 0xe => some (.v fun fn d a b x => (SgnW.read fn.toNat).map fun k => .vmulh k d a b x)
  | 0xf => some (.v fun fn d a b x => (SgnW.read fn.toNat).map fun k => .vmulhTwin k d a b x)
  | _ => none

/-- Row 0xa of the opcode map (R50). -/
def formRowa : Nat → Option Form
  | 0x0 => some (.v fun fn d a b x => (LaneW.read fn.toNat).map fun k => .vmadd k d a b x)
  | 0x1 => some (.v fun fn d a b x => (LaneW.read fn.toNat).map fun k => .vmaddTwin k d a b x)
  | 0x2 => some (.v fun fn d a b x => plainFn fn (.vand d a b x))
  | 0x3 => some (.v fun fn d a b x => plainFn fn (.vandTwin d a b x))
  | 0x4 => some (.v fun fn d a b x => plainFn fn (.vor d a b x))
  | 0x5 => some (.v fun fn d a b x => plainFn fn (.vorTwin d a b x))
  | 0x6 => some (.v fun fn d a b x => plainFn fn (.vxor d a b x))
  | 0x7 => some (.v fun fn d a b x => plainFn fn (.vxorTwin d a b x))
  | 0x8 => some (.v fun fn d a b x => (LaneW.read fn.toNat).map fun k => .vshl k d a b x)
  | 0x9 => some (.v fun fn d a b x => (LaneW.read fn.toNat).map fun k => .vshlTwin k d a b x)
  | 0xa => some (.v fun fn d a b x => (LaneW.read fn.toNat).map fun k => .vshr k d a b x)
  | 0xb => some (.v fun fn d a b x => (LaneW.read fn.toNat).map fun k => .vshrTwin k d a b x)
  | 0xc => some (.v fun fn d a b x => (LaneW.read fn.toNat).map fun k => .vsar k d a b x)
  | 0xd => some (.v fun fn d a b x => (LaneW.read fn.toNat).map fun k => .vsarTwin k d a b x)
  | 0xe => some (.v fun fn d a b x => (SgnW.read fn.toNat).map fun k => .vmin k d a b x)
  | 0xf => some (.v fun fn d a b x => (SgnW.read fn.toNat).map fun k => .vminTwin k d a b x)
  | _ => none

/-- Row 0xb of the opcode map (R50). -/
def formRowb : Nat → Option Form
  | 0x0 => some (.v fun fn d a b x => (SgnW.read fn.toNat).map fun k => .vmax k d a b x)
  | 0x1 => some (.v fun fn d a b x => (SgnW.read fn.toNat).map fun k => .vmaxTwin k d a b x)
  | 0x2 => some (.v fun fn d a _ x => (LaneW.read fn.toNat).map fun k => .vabs k d a x)
  | 0x3 => some (.v fun fn d a _ x => (LaneW.read fn.toNat).map fun k => .vneg k d a x)
  | 0x4 => some (.v fun fn d a b x => (FTy.read fn.toNat).map fun k => .vfadd k d a b x)
  | 0x5 => some (.v fun fn d a b x => (FTy.read fn.toNat).map fun k => .vfaddTwin k d a b x)
  | 0x6 => some (.v fun fn d a b x => (FTy.read fn.toNat).map fun k => .vfsub k d a b x)
  | 0x7 => some (.v fun fn d a b x => (FTy.read fn.toNat).map fun k => .vfsubTwin k d a b x)
  | 0x8 => some (.v fun fn d a b x => (FTy.read fn.toNat).map fun k => .vfmul k d a b x)
  | 0x9 => some (.v fun fn d a b x => (FTy.read fn.toNat).map fun k => .vfmulTwin k d a b x)
  | 0xa => some (.v fun fn d a b x => (FTy.read fn.toNat).map fun k => .vfma k d a b x)
  | 0xb => some (.v fun fn d a b x => (FTy.read fn.toNat).map fun k => .vfmaTwin k d a b x)
  | 0xc => some (.v fun fn d a b x => (FTy.read fn.toNat).map fun k => .vfms k d a b x)
  | 0xd => some (.v fun fn d a b x => (FTy.read fn.toNat).map fun k => .vfmsTwin k d a b x)
  | 0xe => some (.v fun fn d a b x => (FTy.read fn.toNat).map fun k => .vfnma k d a b x)
  | 0xf => some (.v fun fn d a b x => (FTy.read fn.toNat).map fun k => .vfnmaTwin k d a b x)
  | _ => none

/-- Row 0xc of the opcode map (R50). -/
def formRowc : Nat → Option Form
  | 0x0 => some (.v fun fn d a b x => (FTy.read fn.toNat).map fun k => .vfdiv k d a b x)
  | 0x1 => some (.v fun fn d a b x => (FTy.read fn.toNat).map fun k => .vfdivTwin k d a b x)
  | 0x2 => some (.v fun fn d a _ x => (FTy.read fn.toNat).map fun k => .vfsqrt k d a x)
  | 0x3 => some (.v fun fn d a b x => (FTy.read fn.toNat).map fun k => .vfmin k d a b x)
  | 0x4 => some (.v fun fn d a b x => (FTy.read fn.toNat).map fun k => .vfminTwin k d a b x)
  | 0x5 => some (.v fun fn d a b x => (FTy.read fn.toNat).map fun k => .vfmax k d a b x)
  | 0x6 => some (.v fun fn d a b x => (FTy.read fn.toNat).map fun k => .vfmaxTwin k d a b x)
  | 0x7 => some (.v fun fn d a _ x => (FTy.read fn.toNat).map fun k => .vfabs k d a x)
  | 0x8 => some (.v fun fn d a b x => (VRel.read fn.toNat).map fun k => .vcmp k d a b x)
  | 0x9 => some (.v fun fn d a b x => (VRel.read fn.toNat).map fun k => .vcmpTwin k d a b x)
  | 0xa => some (.v fun fn d a b x => (VFRel.read fn.toNat).map fun k => .vfcmp k d a b x)
  | 0xb => some (.v fun fn d a b x => (VFRel.read fn.toNat).map fun k => .vfcmpTwin k d a b x)
  | 0xc => some (.v fun fn d a b x => plainFn fn (.vsel d a b x))
  | 0xd => some (.v fun fn d a b x => match VCvt.read fn.toNat, Rnd.read (b.extractLsb' 0 2).toNat with
    | some k, some md => some (.vcvt k md (b.getLsbD 2) d a x)
    | _, _ => none)
  | 0xe => some (.v fun fn d a _ x => (LaneW.read fn.toNat).map fun k => .vsplat k d a x)
  | 0xf => some (.v fun fn d a _ x => (LaneW.read fn.toNat).map fun k => .vmovs k d a x)
  | _ => none

/-- Row 0xd of the opcode map (R50). -/
def formRowd : Nat → Option Form
  | 0x0 => some (.v fun fn d a b x => (LaneW.read fn.toNat).map fun k => .vext k d a b x)
  | 0x1 => some (.v fun fn d a b x => (LaneW.read fn.toNat).map fun k => .vins k d a b x)
  | 0x2 => some (.v fun fn d a b x => (LaneW.read fn.toNat).map fun k => .vperm k d a b x)
  | 0x3 => some (.v fun fn d a _ x => (LaneW.read fn.toNat).map fun k => .vpswp k d a x)
  | 0x4 => some (.v fun fn d a b x => (LaneW.read fn.toNat).map fun k => .vrot k d a b x)
  | 0x5 => some (.v fun fn d a b x => (LaneW.read fn.toNat).map fun k => .vzip k d a b x)
  | 0x6 => some (.v fun fn d a b x => (LaneW.read fn.toNat).map fun k => .vuzp k d a b x)
  | 0x7 => some (.v fun fn d a _ x => (VRedK.read fn.toNat).map fun k => .vred k d a x)
  | 0x8 => some (.v fun fn d a _ x => (VFRedK.read fn.toNat).map fun k => .vfred k d a x)
  | 0x9 => some (.v fun fn d a b x => (DotK.read fn.toNat).map fun k => .vdot k d a b x)
  | 0xa => some (.v fun fn d a b x => (DotK.read fn.toNat).map fun k => .vdotTwin k d a b x)
  | 0xb => some (.v fun fn d a b x => (FDotK.read fn.toNat).map fun k => .vfdot k d a b x)
  | 0xc => some (.v fun fn d a b x => (FDotK.read fn.toNat).map fun k => .vfdotTwin k d a b x)
  | 0xd => some (.v fun fn d a _ x => plainFn fn (.vsin d a x))
  | 0xe => some (.v fun fn d a _ x => plainFn fn (.vcos d a x))
  | 0xf => some (.v fun fn d a _ x => plainFn fn (.vexp2 d a x))
  | _ => none

/-- Row 0xe of the opcode map (R50). -/
def formRowe : Nat → Option Form
  | 0x0 => some (.v fun fn d a _ x => plainFn fn (.vlog2 d a x))
  | 0x1 => some (.v fun fn d a _ x => plainFn fn (.vrcp d a x))
  | 0x2 => some (.v fun fn d a _ x => plainFn fn (.vrsq d a x))
  | 0x3 => some (.v fun fn d a _ x => plainFn fn (.vtanh d a x))
  | 0x4 => some (.v fun fn d a _ x => (FTy.read fn.toNat).map fun k => .vclass k d a x)
  | 0x5 => some (.vm .either fun fn _ d m x => plainFn fn (.vld d m x))
  | 0x6 => some (.vm .either fun fn _ d m x => plainFn fn (.vst d m x))
  | 0x7 => some (.vm .either fun fn _ d m x => (LaneW.read fn.toNat).map fun k => .vlds k d m x)
  | 0x8 => some (.vm .either fun fn _ d m x => (LaneW.read fn.toNat).map fun k => .vsts k d m x)
  | 0x9 => some (.vm .either fun fn _ d m x => (LaneW.read fn.toNat).map fun k => .vgath k d m x)
  | 0xa => some (.vm .either fun fn _ d m x => (LaneW.read fn.toNat).map fun k => .vscat k d m x)
  | 0xb => some (.v fun fn d a b _ => plainFn fn (.mand d a b))
  | 0xc => some (.v fun fn d a b _ => plainFn fn (.mor d a b))
  | 0xd => some (.v fun fn d a b _ => plainFn fn (.mxor d a b))
  | 0xe => some (.v fun fn d a _ _ => plainFn fn (.mnot d a))
  | 0xf => some (.v fun fn d a _ _ => plainFn fn (.mpop d a))
  | _ => none

/-- The format and instruction of an opcode; none for unassigned values and hints (R50, R57, R58). -/
def formOf (op : Nat) : Option Form :=
  match op / 16 with
  | 0 => formRow0 (op % 16)
  | 1 => formRow1 (op % 16)
  | 2 => formRow2 (op % 16)
  | 3 => formRow3 (op % 16)
  | 4 => formRow4 (op % 16)
  | 5 => formRow5 (op % 16)
  | 6 => formRow6 (op % 16)
  | 7 => formRow7 (op % 16)
  | 8 => formRow8 (op % 16)
  | 9 => formRow9 (op % 16)
  | 10 => formRowa (op % 16)
  | 11 => formRowb (op % 16)
  | 12 => formRowc (op % 16)
  | 13 => formRowd (op % 16)
  | 14 => formRowe (op % 16)
  | _ => none

/-- The instruction of a head followed by its tails. An unassigned OP decodes to the row of R57, whose
meaning is the trap; a hint executes as NOP whatever its tails (R45). -/
def decode : List Half → Except DecodeError Instr
  | [] => .error .badLength
  | h :: ts =>
    let op := (headOp h).toNat
    match formOf op with
    | some g => g.read h ts
    | none =>
      if op = 0xf0 then .ok .nop
      else if 0xf0 < op then .ok (.hint (BitVec.ofNat 4 op))
      else .ok (.unassignedOpcode (headOp h))

/-- The instruction at the start of a stream of bytes, its halfwords little-endian (R2), with the bytes
after it: its length is given by L (R31). -/
def halvesOf : List Byte → List Half
  | a :: b :: r => (b ++ a) :: halvesOf r
  | _ => []

def decodeBytes (bs : List Byte) : Except DecodeError (Instr × List Byte) :=
  match halvesOf bs with
  | [] => .error .badLength
  | h :: r =>
    let n := (headL h).toNat
    if r.length < n then .error .badLength
    else (decode (h :: r.take n)).map fun i => (i, bs.drop (2 + 2 * n))

/-! The encoder. -/

/-- The words of an instruction, head first, reserved bits zero (R45); an event has none. -/
def encode : Instr → List Half
  | .trap i => [mkHead 0x01 0 i]
  | .brk i => [mkHead 0x02 0 i]
  | .eret => [mkHead 0x03 0 0]
  | .halt => [mkHead 0x04 0 0]
  | .wfe => [mkHead 0x05 0 0]
  | .csrd d csr a => [mkHead 0x06 1 d, mkCS csr a]
  | .cswr d csr a => [mkHead 0x07 1 d, mkCS csr a]
  | .csset d csr a => [mkHead 0x08 1 d, mkCS csr a]
  | .csclr d csr a => [mkHead 0x09 1 d, mkCS csr a]
  | .ldi d i => [mkHead 0x0a 2 d, i.extractLsb' 0 16, i.extractLsb' 16 16]
  | .ldih d i => [mkHead 0x0b 2 d, i.extractLsb' 0 16, i.extractLsb' 16 16]
  | .mov d a => [mkHead 0x0c 1 d, mkRR a 0 0]
  | .lea d m => [mkHead 0x0d 2 d, mkMS m.a m.sp 0 0, m.off]
  | .coord d a i => [mkHead 0x0e 1 d, mkRI a i]
  | .widx d a i => [mkHead 0x0f 1 d, mkRI a i]
  | .add d a b => [mkHead 0x10 1 d, mkRR a b 0]
  | .addi d a i => [mkHead 0x11 1 d, mkRI a i]
  | .sub d a b => [mkHead 0x12 1 d, mkRR a b 0]
  | .mul d a b => [mkHead 0x13 1 d, mkRR a b 0]
  | .mulh d a b => [mkHead 0x14 1 d, mkRR a b 0]
  | .mulhu d a b => [mkHead 0x15 1 d, mkRR a b 0]
  | .div d a b => [mkHead 0x16 1 d, mkRR a b 0]
  | .divu d a b => [mkHead 0x17 1 d, mkRR a b 0]
  | .rem d a b => [mkHead 0x18 1 d, mkRR a b 0]
  | .remu d a b => [mkHead 0x19 1 d, mkRR a b 0]
  | .and d a b => [mkHead 0x1a 1 d, mkRR a b 0]
  | .andi d a i => [mkHead 0x1b 1 d, mkRI a i]
  | .or d a b => [mkHead 0x1c 1 d, mkRR a b 0]
  | .ori d a i => [mkHead 0x1d 1 d, mkRI a i]
  | .xor d a b => [mkHead 0x1e 1 d, mkRR a b 0]
  | .xori d a i => [mkHead 0x1f 1 d, mkRI a i]
  | .shl d a b => [mkHead 0x20 1 d, mkRR a b 0]
  | .shli d a i => [mkHead 0x21 1 d, mkRI a i]
  | .shr d a b => [mkHead 0x22 1 d, mkRR a b 0]
  | .shri d a i => [mkHead 0x23 1 d, mkRI a i]
  | .sar d a b => [mkHead 0x24 1 d, mkRR a b 0]
  | .sari d a i => [mkHead 0x25 1 d, mkRI a i]
  | .min d a b => [mkHead 0x26 1 d, mkRR a b 0]
  | .max d a b => [mkHead 0x27 1 d, mkRR a b 0]
  | .minu d a b => [mkHead 0x28 1 d, mkRR a b 0]
  | .maxu d a b => [mkHead 0x29 1 d, mkRR a b 0]
  | .seq d a b => [mkHead 0x2a 1 d, mkRR a b 0]
  | .sne d a b => [mkHead 0x2b 1 d, mkRR a b 0]
  | .slt d a b => [mkHead 0x2c 1 d, mkRR a b 0]
  | .slti d a i => [mkHead 0x2d 1 d, mkRI a i]
  | .sltu d a b => [mkHead 0x2e 1 d, mkRR a b 0]
  | .sel d a b c => [mkHead 0x2f 2 d, mkRR a b 0, mkRXc c]
  | .clz d a => [mkHead 0x30 1 d, mkRR a 0 0]
  | .ctz d a => [mkHead 0x31 1 d, mkRR a 0 0]
  | .popc d a => [mkHead 0x32 1 d, mkRR a 0 0]
  | .brev d a => [mkHead 0x33 1 d, mkRR a 0 0]
  | .bswap d a => [mkHead 0x34 1 d, mkRR a 0 0]
  | .bfx d a b => [mkHead 0x35 1 d, mkRR a b 0]
  | .bfxu d a b => [mkHead 0x36 1 d, mkRR a b 0]
  | .bfi d a b => [mkHead 0x37 1 d, mkRR a b 0]
  | .sext fn d a => [mkHead 0x38 1 d, mkRR a 0 (BitVec.ofNat 4 fn.code)]
  | .zext fn d a => [mkHead 0x39 1 d, mkRR a 0 (BitVec.ofNat 4 fn.code)]
  | .addra d a b => [mkHead 0x3a 1 d, mkRR a b 0]
  | .b t => [mkHead 0x40 1 0, mkT t]
  | .beq a b t => [mkHead 0x41 2 a, mkRR b 0 0, mkT t]
  | .bne a b t => [mkHead 0x42 2 a, mkRR b 0 0, mkT t]
  | .blt a b t => [mkHead 0x43 2 a, mkRR b 0 0, mkT t]
  | .bge a b t => [mkHead 0x44 2 a, mkRR b 0 0, mkT t]
  | .bltu a b t => [mkHead 0x45 2 a, mkRR b 0 0, mkT t]
  | .bgeu a b t => [mkHead 0x46 2 a, mkRR b 0 0, mkT t]
  | .call a t => [mkHead 0x47 1 a, mkT t]
  | .callr d a => [mkHead 0x48 1 d, mkRR a 0 0]
  | .bz a t => [mkHead 0x49 1 a, mkT t]
  | .bnz a t => [mkHead 0x4a 1 a, mkT t]
  | .loop a t => [mkHead 0x4b 1 a, mkT t]
  | .jr a => [mkHead 0x4c 0 a]
  | .ret a => [mkHead 0x4e 0 a]
  | .fadd fn d a b => [mkHead 0x50 1 d, mkRR a b (BitVec.ofNat 4 fn.code)]
  | .fsub fn d a b => [mkHead 0x51 1 d, mkRR a b (BitVec.ofNat 4 fn.code)]
  | .fmul fn d a b => [mkHead 0x52 1 d, mkRR a b (BitVec.ofNat 4 fn.code)]
  | .ffma fn d a b c => [mkHead 0x53 2 d, mkRR a b (BitVec.ofNat 4 fn.code), mkRXc c]
  | .fdiv fn d a b => [mkHead 0x54 1 d, mkRR a b (BitVec.ofNat 4 fn.code)]
  | .fsqrt fn d a => [mkHead 0x55 1 d, mkRR a 0 (BitVec.ofNat 4 fn.code)]
  | .fmin d a b => [mkHead 0x56 1 d, mkRR a b 0]
  | .fmax d a b => [mkHead 0x57 1 d, mkRR a b 0]
  | .fcmp fn d a b => [mkHead 0x58 1 d, mkRR a b (BitVec.ofNat 4 fn.code)]
  | .fcvt fn d a => [mkHead 0x59 1 d, mkRR a 0 (BitVec.ofNat 4 fn.code)]
  | .fclass d a => [mkHead 0x5a 1 d, mkRR a 0 0]
  | .ld fn d m => [mkHead 0x60 2 d, mkMS m.a m.sp (BitVec.ofNat 3 fn.code) 0, m.off]
  | .ldu fn d m => [mkHead 0x61 2 d, mkMS m.a m.sp (BitVec.ofNat 3 fn.code) 0, m.off]
  | .st fn d m => [mkHead 0x62 2 d, mkMS m.a m.sp (BitVec.ofNat 3 fn.code) 0, m.off]
  | .ldacq fn sc d m => [mkHead 0x63 2 d, mkMS m.a m.sp (BitVec.ofNat 3 fn.code) sc.code, m.off]
  | .strel fn sc d m => [mkHead 0x64 2 d, mkMS m.a m.sp (BitVec.ofNat 3 fn.code) sc.code, m.off]
  | .amo fn sc d m c => [mkHead 0x65 3 d, mkMS m.a m.sp (BitVec.ofNat 3 fn.code) sc.code, mkRXc c, m.off]
  | .amofar fn sc d m c => [mkHead 0x66 3 d, mkMS m.a .virt (BitVec.ofNat 3 fn.code) sc.code, mkRXc c, m.off]
  | .cas fn sc d m c => [mkHead 0x67 3 d, mkMS m.a m.sp (BitVec.ofNat 3 fn.code) sc.code, mkRXc c, m.off]
  | .casfar fn sc d m c => [mkHead 0x68 3 d, mkMS m.a .virt (BitVec.ofNat 3 fn.code) sc.code, mkRXc c, m.off]
  | .amof sc d m c => [mkHead 0x69 3 d, mkMS m.a .virt 0 sc.code, mkRXc c, m.off]
  | .red fn d m => [mkHead 0x6a 2 d, mkMS m.a .virt (BitVec.ofNat 3 fn.code) 0, m.off]
  | .merge d m => [mkHead 0x6b 2 d, mkMS m.a .virt 0 0, m.off]
  | .fence sc => [mkHead 0x6c 2 0, mkMS 0 .virt 0 sc.code, 0]
  | .fenceRs => [mkHead 0x6c 2 0, mkMS 0 .virt 1 0, 0]
  | .bind sc d m => [mkHead 0x6d 2 d, mkMS m.a .virt 0 sc.code, m.off]
  | .waita fn sc d m => [mkHead 0x6e 2 d, mkMS m.a .virt (BitVec.ofNat 3 fn.code) sc.code, m.off]
  | .pref ex m => [mkHead 0x6f 2 0, mkMS m.a .virt (BitVec.ofNat 3 ex.toNat) 0, m.off]
  | .cwb m => [mkHead 0x70 2 0, mkMS m.a .virt 0 0, m.off]
  | .cinv m => [mkHead 0x71 2 0, mkMS m.a .virt 0 0, m.off]
  | .gang i => [mkHead 0x72 0 i]
  | .split => [mkHead 0x73 0 0]
  | .send d m => [mkHead 0x74 2 d, mkMS m.a .arr 0 0, m.off]
  | .sendv d m rx => [mkHead 0x75 3 d, mkMS m.a .arr 0 0, mkRX rx, m.off]
  | .spawn d m => [mkHead 0x76 2 d, mkMS m.a .arr 0 0, m.off]
  | .sbind d a i => [mkHead 0x77 1 d, mkRI a i]
  | .sunbind d i => [mkHead 0x78 1 d, mkRI 0 i]
  | .rqadd d a b => [mkHead 0x79 1 d, mkRR a b 0]
  | .rqtake d => [mkHead 0x7a 1 d, mkRR 0 0 0]
  | .rqpeek d a b => [mkHead 0x7b 1 d, mkRR a b 0]
  | .steal d a b => [mkHead 0x7c 1 d, mkRR a b 0]
  | .texit => [mkHead 0x7d 0 0]
  | .yield => [mkHead 0x7e 0 0]
  | .hret => [mkHead 0x7f 0 0]
  | .tmset d a => [mkHead 0x80 1 d, mkRR a 0 0]
  | .pause a i => [mkHead 0x81 1 0, mkRI a i]
  | .binit d a i => [mkHead 0x82 1 d, mkRI a i]
  | .barv m => [mkHead 0x83 2 0, mkMS m.a .arr 0 0, m.off]
  | .bwait d a i => [mkHead 0x84 1 d, mkRI a i]
  | .btest d i => [mkHead 0x85 1 d, mkRI 0 i]
  | .bexp d a i => [mkHead 0x86 1 d, mkRI a i]
  | .slotf a => [mkHead 0x87 1 0, mkRR a 0 0]
  | .copy d m => [mkHead 0x88 2 d, mkMS m.a m.sp 0 0, m.off]
  | .copy2 d m => [mkHead 0x89 2 d, mkMS m.a m.sp 0 0, m.off]
  | .copyx d m => [mkHead 0x8a 2 d, mkMS m.a m.sp 0 0, m.off]
  | .copym d m => [mkHead 0x8b 2 d, mkMS m.a m.sp 0 0, m.off]
  | .conv d m => [mkHead 0x8c 2 d, mkMS m.a m.sp 0 0, m.off]
  | .mview d a => [mkHead 0x8d 1 d, mkRI a 0]
  | .mviewSv d a f => [mkHead 0x8d 1 d, mkRI a (f ++ (1 : BitVec 5))]
  | .mzero a => [mkHead 0x8e 0 a]
  | .mma d a b c => [mkHead 0x8f 2 d, mkRR a b 0, mkRXc c]
  | .mmax d a b c => [mkHead 0x90 2 d, mkRR a b 0, mkRXc c]
  | .mmas d a b c => [mkHead 0x91 2 d, mkRR a b 0, mkRXc c]
  | .mmar d a b c => [mkHead 0x92 2 d, mkRR a b 0, mkRXc c]
  | .mprog d a => [mkHead 0x93 1 d, mkRR a 0 0]
  | .mwait a => [mkHead 0x94 0 a]
  | .vadd fn d a b rx => [mkHead 0x98 2 d, mkRR a b (BitVec.ofNat 4 fn.code), mkRX rx]
  | .vaddTwin fn d a b rx => [mkHead 0x99 2 d, mkRR a b (BitVec.ofNat 4 fn.code), mkRX rx]
  | .vsub fn d a b rx => [mkHead 0x9a 2 d, mkRR a b (BitVec.ofNat 4 fn.code), mkRX rx]
  | .vsubTwin fn d a b rx => [mkHead 0x9b 2 d, mkRR a b (BitVec.ofNat 4 fn.code), mkRX rx]
  | .vmul fn d a b rx => [mkHead 0x9c 2 d, mkRR a b (BitVec.ofNat 4 fn.code), mkRX rx]
  | .vmulTwin fn d a b rx => [mkHead 0x9d 2 d, mkRR a b (BitVec.ofNat 4 fn.code), mkRX rx]
  | .vmulh fn d a b rx => [mkHead 0x9e 2 d, mkRR a b (BitVec.ofNat 4 fn.code), mkRX rx]
  | .vmulhTwin fn d a b rx => [mkHead 0x9f 2 d, mkRR a b (BitVec.ofNat 4 fn.code), mkRX rx]
  | .vmadd fn d a b rx => [mkHead 0xa0 2 d, mkRR a b (BitVec.ofNat 4 fn.code), mkRX rx]
  | .vmaddTwin fn d a b rx => [mkHead 0xa1 2 d, mkRR a b (BitVec.ofNat 4 fn.code), mkRX rx]
  | .vand d a b rx => [mkHead 0xa2 2 d, mkRR a b 0, mkRX rx]
  | .vandTwin d a b rx => [mkHead 0xa3 2 d, mkRR a b 0, mkRX rx]
  | .vor d a b rx => [mkHead 0xa4 2 d, mkRR a b 0, mkRX rx]
  | .vorTwin d a b rx => [mkHead 0xa5 2 d, mkRR a b 0, mkRX rx]
  | .vxor d a b rx => [mkHead 0xa6 2 d, mkRR a b 0, mkRX rx]
  | .vxorTwin d a b rx => [mkHead 0xa7 2 d, mkRR a b 0, mkRX rx]
  | .vshl fn d a b rx => [mkHead 0xa8 2 d, mkRR a b (BitVec.ofNat 4 fn.code), mkRX rx]
  | .vshlTwin fn d a b rx => [mkHead 0xa9 2 d, mkRR a b (BitVec.ofNat 4 fn.code), mkRX rx]
  | .vshr fn d a b rx => [mkHead 0xaa 2 d, mkRR a b (BitVec.ofNat 4 fn.code), mkRX rx]
  | .vshrTwin fn d a b rx => [mkHead 0xab 2 d, mkRR a b (BitVec.ofNat 4 fn.code), mkRX rx]
  | .vsar fn d a b rx => [mkHead 0xac 2 d, mkRR a b (BitVec.ofNat 4 fn.code), mkRX rx]
  | .vsarTwin fn d a b rx => [mkHead 0xad 2 d, mkRR a b (BitVec.ofNat 4 fn.code), mkRX rx]
  | .vmin fn d a b rx => [mkHead 0xae 2 d, mkRR a b (BitVec.ofNat 4 fn.code), mkRX rx]
  | .vminTwin fn d a b rx => [mkHead 0xaf 2 d, mkRR a b (BitVec.ofNat 4 fn.code), mkRX rx]
  | .vmax fn d a b rx => [mkHead 0xb0 2 d, mkRR a b (BitVec.ofNat 4 fn.code), mkRX rx]
  | .vmaxTwin fn d a b rx => [mkHead 0xb1 2 d, mkRR a b (BitVec.ofNat 4 fn.code), mkRX rx]
  | .vabs fn d a rx => [mkHead 0xb2 2 d, mkRR a 0 (BitVec.ofNat 4 fn.code), mkRX rx]
  | .vneg fn d a rx => [mkHead 0xb3 2 d, mkRR a 0 (BitVec.ofNat 4 fn.code), mkRX rx]
  | .vfadd fn d a b rx => [mkHead 0xb4 2 d, mkRR a b (BitVec.ofNat 4 fn.code), mkRX rx]
  | .vfaddTwin fn d a b rx => [mkHead 0xb5 2 d, mkRR a b (BitVec.ofNat 4 fn.code), mkRX rx]
  | .vfsub fn d a b rx => [mkHead 0xb6 2 d, mkRR a b (BitVec.ofNat 4 fn.code), mkRX rx]
  | .vfsubTwin fn d a b rx => [mkHead 0xb7 2 d, mkRR a b (BitVec.ofNat 4 fn.code), mkRX rx]
  | .vfmul fn d a b rx => [mkHead 0xb8 2 d, mkRR a b (BitVec.ofNat 4 fn.code), mkRX rx]
  | .vfmulTwin fn d a b rx => [mkHead 0xb9 2 d, mkRR a b (BitVec.ofNat 4 fn.code), mkRX rx]
  | .vfma fn d a b rx => [mkHead 0xba 2 d, mkRR a b (BitVec.ofNat 4 fn.code), mkRX rx]
  | .vfmaTwin fn d a b rx => [mkHead 0xbb 2 d, mkRR a b (BitVec.ofNat 4 fn.code), mkRX rx]
  | .vfms fn d a b rx => [mkHead 0xbc 2 d, mkRR a b (BitVec.ofNat 4 fn.code), mkRX rx]
  | .vfmsTwin fn d a b rx => [mkHead 0xbd 2 d, mkRR a b (BitVec.ofNat 4 fn.code), mkRX rx]
  | .vfnma fn d a b rx => [mkHead 0xbe 2 d, mkRR a b (BitVec.ofNat 4 fn.code), mkRX rx]
  | .vfnmaTwin fn d a b rx => [mkHead 0xbf 2 d, mkRR a b (BitVec.ofNat 4 fn.code), mkRX rx]
  | .vfdiv fn d a b rx => [mkHead 0xc0 2 d, mkRR a b (BitVec.ofNat 4 fn.code), mkRX rx]
  | .vfdivTwin fn d a b rx => [mkHead 0xc1 2 d, mkRR a b (BitVec.ofNat 4 fn.code), mkRX rx]
  | .vfsqrt fn d a rx => [mkHead 0xc2 2 d, mkRR a 0 (BitVec.ofNat 4 fn.code), mkRX rx]
  | .vfmin fn d a b rx => [mkHead 0xc3 2 d, mkRR a b (BitVec.ofNat 4 fn.code), mkRX rx]
  | .vfminTwin fn d a b rx => [mkHead 0xc4 2 d, mkRR a b (BitVec.ofNat 4 fn.code), mkRX rx]
  | .vfmax fn d a b rx => [mkHead 0xc5 2 d, mkRR a b (BitVec.ofNat 4 fn.code), mkRX rx]
  | .vfmaxTwin fn d a b rx => [mkHead 0xc6 2 d, mkRR a b (BitVec.ofNat 4 fn.code), mkRX rx]
  | .vfabs fn d a rx => [mkHead 0xc7 2 d, mkRR a 0 (BitVec.ofNat 4 fn.code), mkRX rx]
  | .vcmp fn d a b rx => [mkHead 0xc8 2 d, mkRR a b (BitVec.ofNat 4 fn.code), mkRX rx]
  | .vcmpTwin fn d a b rx => [mkHead 0xc9 2 d, mkRR a b (BitVec.ofNat 4 fn.code), mkRX rx]
  | .vfcmp fn d a b rx => [mkHead 0xca 2 d, mkRR a b (BitVec.ofNat 4 fn.code), mkRX rx]
  | .vfcmpTwin fn d a b rx => [mkHead 0xcb 2 d, mkRR a b (BitVec.ofNat 4 fn.code), mkRX rx]
  | .vsel d a b rx => [mkHead 0xcc 2 d, mkRR a b 0, mkRX rx]
  | .vcvt k md sat d a rx => [mkHead 0xcd 2 d, mkRR a (vcvtB md sat) (BitVec.ofNat 4 k.code), mkRX rx]
  | .vsplat fn d a rx => [mkHead 0xce 2 d, mkRR a 0 (BitVec.ofNat 4 fn.code), mkRX rx]
  | .vmovs fn d a rx => [mkHead 0xcf 2 d, mkRR a 0 (BitVec.ofNat 4 fn.code), mkRX rx]
  | .vext fn d a b rx => [mkHead 0xd0 2 d, mkRR a b (BitVec.ofNat 4 fn.code), mkRX rx]
  | .vins fn d a b rx => [mkHead 0xd1 2 d, mkRR a b (BitVec.ofNat 4 fn.code), mkRX rx]
  | .vperm fn d a b rx => [mkHead 0xd2 2 d, mkRR a b (BitVec.ofNat 4 fn.code), mkRX rx]
  | .vpswp fn d a rx => [mkHead 0xd3 2 d, mkRR a 0 (BitVec.ofNat 4 fn.code), mkRX rx]
  | .vrot fn d a b rx => [mkHead 0xd4 2 d, mkRR a b (BitVec.ofNat 4 fn.code), mkRX rx]
  | .vzip fn d a b rx => [mkHead 0xd5 2 d, mkRR a b (BitVec.ofNat 4 fn.code), mkRX rx]
  | .vuzp fn d a b rx => [mkHead 0xd6 2 d, mkRR a b (BitVec.ofNat 4 fn.code), mkRX rx]
  | .vred fn d a rx => [mkHead 0xd7 2 d, mkRR a 0 (BitVec.ofNat 4 fn.code), mkRX rx]
  | .vfred fn d a rx => [mkHead 0xd8 2 d, mkRR a 0 (BitVec.ofNat 4 fn.code), mkRX rx]
  | .vdot fn d a b rx => [mkHead 0xd9 2 d, mkRR a b (BitVec.ofNat 4 fn.code), mkRX rx]
  | .vdotTwin fn d a b rx => [mkHead 0xda 2 d, mkRR a b (BitVec.ofNat 4 fn.code), mkRX rx]
  | .vfdot fn d a b rx => [mkHead 0xdb 2 d, mkRR a b (BitVec.ofNat 4 fn.code), mkRX rx]
  | .vfdotTwin fn d a b rx => [mkHead 0xdc 2 d, mkRR a b (BitVec.ofNat 4 fn.code), mkRX rx]
  | .vsin d a rx => [mkHead 0xdd 2 d, mkRR a 0 0, mkRX rx]
  | .vcos d a rx => [mkHead 0xde 2 d, mkRR a 0 0, mkRX rx]
  | .vexp2 d a rx => [mkHead 0xdf 2 d, mkRR a 0 0, mkRX rx]
  | .vlog2 d a rx => [mkHead 0xe0 2 d, mkRR a 0 0, mkRX rx]
  | .vrcp d a rx => [mkHead 0xe1 2 d, mkRR a 0 0, mkRX rx]
  | .vrsq d a rx => [mkHead 0xe2 2 d, mkRR a 0 0, mkRX rx]
  | .vtanh d a rx => [mkHead 0xe3 2 d, mkRR a 0 0, mkRX rx]
  | .vclass fn d a rx => [mkHead 0xe4 2 d, mkRR a 0 (BitVec.ofNat 4 fn.code), mkRX rx]
  | .vld d m rx => [mkHead 0xe5 3 d, mkMS m.a m.sp 0 0, mkRX rx, m.off]
  | .vst d m rx => [mkHead 0xe6 3 d, mkMS m.a m.sp 0 0, mkRX rx, m.off]
  | .vlds fn d m rx => [mkHead 0xe7 3 d, mkMS m.a m.sp (BitVec.ofNat 3 fn.code) 0, mkRX rx, m.off]
  | .vsts fn d m rx => [mkHead 0xe8 3 d, mkMS m.a m.sp (BitVec.ofNat 3 fn.code) 0, mkRX rx, m.off]
  | .vgath fn d m rx => [mkHead 0xe9 3 d, mkMS m.a m.sp (BitVec.ofNat 3 fn.code) 0, mkRX rx, m.off]
  | .vscat fn d m rx => [mkHead 0xea 3 d, mkMS m.a m.sp (BitVec.ofNat 3 fn.code) 0, mkRX rx, m.off]
  | .mand d a b => [mkHead 0xeb 2 d, mkRR a b 0, mkRXc 0]
  | .mor d a b => [mkHead 0xec 2 d, mkRR a b 0, mkRXc 0]
  | .mxor d a b => [mkHead 0xed 2 d, mkRR a b 0, mkRXc 0]
  | .mnot d a => [mkHead 0xee 2 d, mkRR a 0 0, mkRXc 0]
  | .mpop d a => [mkHead 0xef 2 d, mkRR a 0 0, mkRXc 0]
  | .nop => [mkHead 0xf0 0 0]
  | .hint k => [mkHead ((0xf : BitVec 4) ++ k) 0 0]
  | .unassignedOpcode .. | .asyncEventEntry .. | .timerExpiry .. | .wfeWake .. | .leafFill ..
  | .coreRelease .. | .csrWrite .. | .timecmpWrite .. | .qmapWrite .. | .tkillWrite ..
  | .deathTrapEntry .. | .deathPurgeComplete .. | .mprogStopRequest .. | .mprogVClear .. | .linkWordArrival ..
  | .gangFormation .. | .launchAccept .. | .activeMessageArrival .. | .remoteAtomicApply .. | .barrierArrival ..
  | .bwaitResume .. | .copyxRequest .. | .handlerActivation .. | .handlerBudgetExpiry .. | .streamWordArrival ..
  | .streamReduceApply .. | .streamEosActivation .. | .streamCreditReturn .. | .messageRefusalArrival .. | .slotReturnArrival ..
  | .remoteLoadRequest .. | .remoteStoreArrival .. | .storeAckArrival .. | .storeRefusalArrival .. | .loadCompletion ..
  | .stampFillComplete .. | .tokenRequest .. | .tokenResponse .. | .persistentRequest .. | .persistentDeactivation ..
  | .rebalanceWindowEnd | .indirectionUpdate .. | .hostSnpData .. | .hostSnpInv .. | .rdownComplete ..
  | .rdsharedComplete .. | .hostMemrd .. | .hostReadOwn .. | .hostWriteback .. | .bisnpinvComplete ..
  | .bisnpdataComplete .. | .hostAtomic .. | .dscEviction .. | .poisonDetection .. | .farAtomicApply ..
  | .redLogAppend .. | .mergeApplication .. | .bindInvalidation .. | .waitaReread .. | .chunkLanding ..
  | .cveBlockConvert .. | .commandCompletion .. | .commandFailure .. | .completionDelivery .. | .sgvStep ..
  | .mteSliceEnd .. | .mteWritebackComplete .. | .mzeroComplete .. | .mteFailure .. | .noticeArrival ..
  | .recordReceive | .translationResponse .. | .pageResponse .. | .atsInvalidationRequest .. | .atsInvalidationComplete
  | .pageHashCheck .. | .switchHold .. | .switchEngineStop .. | .switchDrain .. | .switchSave ..
  | .switchRestore .. | .switchResume .. | .linkFlitError .. | .linkLoss .. | .beaconSend ..
  | .beaconReceive .. | .silenceTimeout .. | .malformedFlit .. | .voteRelay .. | .voteExpiry ..
  | .darkDeclaration .. | .portClose .. | .selfTestDone .. | .relightAppeal .. | .appealReceipt ..
  | .acceptanceReceipt .. | .relightDeclaration .. | .appealTimeout .. | .regctx .. | .unreg ..
  | .regfolio .. | .regqueue .. | .unregqueue .. | .readmit .. | .setown ..
  | .doorbell .. | .tailRead .. | .recordTake .. | .launchPlacement .. | .launchEndSample
  | .sliceExpiry .. | .moduleTrainingFail .. | .sampleRecord .. | .chunkEnd .. | .managementHalt
  | .powerOnReset .. | .getVersion | .getCapabilities | .negotiateAlgorithms | .getDigests
  | .getCertificate | .challenge .. | .getMeasurements .. | .powerCapSet .. | .frequencyChange ..
  | .thermalStep .. | .overtempPowerOff .. | .lpddrTraining .. | .rampWrite .. | .tvecBringupWrite ..
  | .tileReset .. | .linkTraining | .linkSlotReturn .. | .reservationRelease .. | .pauseWindowEnd ..
  | .bankArrayCycle .. | .mmasStreamArrival .. | .writeBackAcceptance .. | .lpddr6ReadReturn .. | .chunkRecordAck ..
  | .bulkPreemptionPoint .. | .doeDiscovery | .measurementExtension ..
    => []

/-! The host's view of the decoder. -/

/-- The halfword i of a number, bit 0 of halfword 0 lowest. -/
def halfAt (w i : Nat) : Half := BitVec.ofNat 16 (w >>> (16 * i))

/-- The instruction whose head is the low halfword of `w` and whose tails follow upward, every bit above
`nbits` zero; the head's L says how many tails there are (R34). -/
def decodeTableWord (nbits w : Nat) : Option Instr :=
  let w := w % 2 ^ nbits
  let h := halfAt w 0
  match decode (h :: (List.range (headL h).toNat).map fun j => halfAt w (j + 1)) with
  | .ok i => some i
  | .error _ => none

end Sys2Proof
end

