-- ==== Sys2Proof/Machine/Flags.lean ====
section
/-!
DEFINITION. Conditions and integer results. The machine has no flags: comparisons write a register and
branches read registers (R77, R97). Everything here is a function of operand values (R81 to R85, R88 to R90).
-/
namespace Sys2Proof.Machine

/-- 1 or 0 (R81). -/
def boolW (b : Bool) : Word := if b then 1 else 0

/-- The conditions of R81 and R97. -/
def condEq (a b : Word) : Bool := a == b
def condLt (a b : Word) : Bool := a.slt b
def condLtu (a b : Word) : Bool := a.ult b

/-- Shifts take their amount modulo 64 (R82). -/
def shlW (a b : Word) : Word := a <<< fld b 0 6
def shrW (a b : Word) : Word := a >>> fld b 0 6
def sarW (a b : Word) : Word := a.sshiftRight (fld b 0 6)

def minS (a b : Word) : Word := if b.slt a then b else a
def maxS (a b : Word) : Word := if a.slt b then b else a
def minU (a b : Word) : Word := if b.ult a then b else a
def maxU (a b : Word) : Word := if a.ult b then b else a

/-- High halves of products (R83). -/
def mulhS (a b : Word) : Word := BitVec.ofInt 64 ((a.toInt * b.toInt) / 2 ^ 64)
def mulhU (a b : Word) : Word := BitVec.ofNat 64 (a.toNat * b.toNat / 2 ^ 64)

/-- Quotients and remainders with the corners of R83. -/
def divS (a b : Word) : Word := if b = 0 then BitVec.allOnes 64 else BitVec.ofInt 64 (a.toInt.tdiv b.toInt)
def remS (a b : Word) : Word := if b = 0 then a else BitVec.ofInt 64 (a.toInt.tmod b.toInt)
def divU (a b : Word) : Word := if b = 0 then BitVec.allOnes 64 else BitVec.ofNat 64 (a.toNat / b.toNat)
def remU (a b : Word) : Word := if b = 0 then a else BitVec.ofNat 64 (a.toNat % b.toNat)

/-- Zero bits below bit n and above the highest one bit under it. -/
def clzGo (a : Word) : Nat → Nat
  | 0 => 0
  | n + 1 => if bit a n then 0 else 1 + clzGo a n

/-- Zero bits from bit i upward, n bits looked at. -/
def ctzGo (a : Word) (i : Nat) : Nat → Nat
  | 0 => 0
  | n + 1 => if bit a i then 0 else 1 + ctzGo a (i + 1) n

/-- R84. -/
def clzW (a : Word) : Word := BitVec.ofNat 64 (clzGo a 64)
def ctzW (a : Word) : Word := BitVec.ofNat 64 (ctzGo a 0 64)
def popcW (a : Word) : Word := BitVec.ofNat 64 (popCount 64 a.toNat)

/-- The word whose bit j is f j, n bits. -/
def wordOfBits (f : Nat → Bool) : Nat → Nat
  | 0 => 0
  | n + 1 => wordOfBits f n + (f n).toNat <<< n

def brevW (a : Word) : Word := BitVec.ofNat 64 (wordOfBits (fun j => bit a (63 - j)) 64)
def bswapW (a : Word) : Word := BitVec.ofNat 64 (ofLe (leBytes 8 a.toNat).reverse)

/-- The widths of SEXT and ZEXT (R84). -/
def extBits : ExtW → Nat
  | .b => 8 | .h => 16 | .w => 32

/-- A lane width in bits (R53). -/
def laneBits : LaneW → Nat
  | .b => 8 | .h => 16 | .w => 32 | .d => 64

def casBits : CasW → Nat
  | .w => 32 | .d => 64

/-- Lowest bit and clipped width of a field descriptor (R85). -/
def fieldPos (b : Word) : Nat := fld b 0 6
def fieldWidth (b : Word) : Nat := min (fld b 6 7) (64 - fieldPos b)

def bfxuW (a b : Word) : Word := (a >>> fieldPos b) &&& maskW (fieldWidth b)
def bfxW (a b : Word) : Word :=
  if fieldWidth b = 0 then 0 else sextTo (fieldWidth b) (bfxuW a b)
def bfiW (d a b : Word) : Word :=
  let m := maskW (fieldWidth b) <<< fieldPos b
  (d &&& ~~~m) ||| ((a <<< fieldPos b) &&& m)

/-- A sign-extended immediate (R37). -/
def simm {w : Nat} (i : BitVec w) : Word := i.signExtend 64

/-- An array-space address with its offset advanced by i (R87). -/
def lmAdd (a i : Word) : Word := BitVec.ofNat 64 (fld a 21 11 * 2 ^ 21 + (fld a 0 21 + i.toNat) % 2 ^ 21)

/-- The address a memory operand forms (R87). -/
def formAddr (sp : Space) (a : Word) (off : BitVec 16) : Word :=
  match sp with
  | .virt => a + simm off
  | .arr => lmAdd a (simm off)

/-- An array-space address from its fields (R198). -/
def arrAddr (y x low : Nat) : Word := BitVec.ofNat 64 (y % 32 * 2 ^ 27 + x % 32 * 2 ^ 22 + low % 2 ^ 22)

/-- R88. -/
def addraW (a b : Word) : Word :=
  arrAddr (fld a 27 5 + fld b 48 5) (fld a 22 5 + fld b 40 5) (fld a 21 1 * 2 ^ 21 + (fld a 0 21 + fld b 0 21) % 2 ^ 21)

/-- R89, for the core at (x, y). -/
def coordW (x y : Nat) (a : Word) (i : BitVec 10) : Word := arrAddr (y + fld i 5 5) (x + fld i 0 5) (fld a 0 22)

/-- The sum of widths 0 to k - 1 of a field descriptor (R90). -/
def widthSum (desc : Word) : Nat → Nat
  | 0 => 0
  | k + 1 => widthSum desc k + fld desc (7 * k) 7

/-- R90. -/
def widxW (id desc : Word) (k : Nat) : Word :=
  if 5 < k then 0
  else
    let lo := widthSum desc k
    if 64 ≤ lo then 0 else (id >>> lo) &&& maskW (min (fld desc (7 * k) 7) (64 - lo))

/-- The value an atomic leaves in memory, on n-bit values (R261). -/
def amoVal (op : AmoOp) (old c : Word) : Word :=
  match op with
  | .add => old + c
  | .and => old &&& c
  | .or => old ||| c
  | .xor => old ^^^ c
  | .swap => c
  | .min => minS old c
  | .max => maxS old c
  | .maxu => maxU old c

end Sys2Proof.Machine
end

