-- ==== Sys2Proof/Config.lean ====
section
/-!
DEFINITION. The free values: what the manual leaves open and no proof may see (R64 to R76 fix the rest).
Each is an opaque constant; the log entry named beside it says which opening of the manual it fills.
-/
namespace Sys2Proof.Config

/-- Which of the two faithful values VSIN, VCOS, VEXP2 and VLOG2 (0 to 3) return, a fixed function of
the operand bits (R125; log 5). -/
opaque pickHi : Nat → BitVec 32 → Bool

/-- Which value within 2 ulp VTANH returns (R125; log 5). -/
opaque tanhPick : BitVec 32 → Nat

/-- Bytes of a frame after its owner changed: by fresh number and address (R393; log 6). -/
opaque frameByte : Nat → Nat → Byte

/-- Whether an unordered fetch of a leaf still installed observes memory instead (R247; log 7). -/
opaque refill : Nat → Bool

/-- The set in which a tile cache, an instruction cache and a DSC slice place a line, and the choice of the line that a
full set loses, by fresh number (R213; log 22). -/
opaque tileSet : Nat → Nat
opaque icacheSet : Nat → Nat
opaque dscSet : Nat → Nat
opaque victim : Nat → Nat

/-- Does the host send a half poisoned, by fresh number (R230; log 54)? -/
opaque hostBad : Nat → Bool

/-- SHA-512 of a byte string (R352, R423, R424; log 8). -/
opaque sha512 : List Byte → BitVec 512

/-- Does an RSASSA-PSS signature of R423 verify: key, digest, signature (log 8). -/
opaque rsaOk : List Byte → BitVec 512 → List Byte → Bool

/-- SHA-512 of the public key held in the fuses (R423; log 8). -/
opaque fuseKey : BitVec 512

/-- Signature of an SPDM response under the device identity key, by fresh number (R425; log 8). -/
opaque spdmSign : Nat → List Byte → BitVec 4096

/-- Contents of an SPDM response that the standard and not the manual lays out, by request (R425; log 8). -/
opaque spdmBody : Nat → List Byte

/-- The firmware's own key, found in its image (R423; log 8). -/
opaque imageKey : List Byte → List Byte

/-- The digest with which MR3 is extended: fuse state and debug enables (R424; log 8). -/
opaque fuseDigest : BitVec 512

/-- The digest of a bring-up configuration with which MR2 is extended (R424, R430; log 8). -/
opaque configDigest : List Word → BitVec 512

/-- What a read of an offset of BAR 0 returns at which the manual places nothing (R394, R416, R428; log 38). -/
opaque barFree : Nat → BitVec 64

/-- The frequency chosen for a power cap, by fresh number and watts (R426; log 13). -/
opaque ckFor : Nat → BitVec 8 → Nat

end Sys2Proof.Config
end

