-- ==== Sys2Proof/Machine/State.lean ====
section
/-!
DEFINITION. Everything the manual gives the machine, as plain data (R4, R11, R12 and the registers of
the later chapters). One core is held at the top (`core`, the one that steps); every other core and
every tile is held in a sparse list whose unlisted entries are as a tile reset leaves them (R431).
-/
namespace Sys2Proof.Machine

/-- A sparse map with keys strictly rising; what an unlisted key holds is said where it is read. -/
abbrev SMap (β : Type) := List (Nat × β)

/-- Memory: address and byte pairs, addresses strictly rising, no listed zero byte. -/
abbrev Mem := List Host.Cell

/-- One value per direction of the grid (R137, R358). -/
structure Quad (α : Type) where
  n : α
  e : α
  s : α
  w : α
deriving DecidableEq, Repr

/-- How a context's last attempt to issue ended (R22, R141). -/
inductive Last where
  | none
  | retired
  | blocked
  | trapped (code : BitVec 8)
deriving DecidableEq, Repr

/-- A piece of an access to local memory: its offset, its byte position in the vector register (0
for a scalar) and its size (R128, R203). -/
structure Piece where
  off : Nat
  pos : Nat
  n : Nat
deriving DecidableEq, Repr

/-- Kinds of an MVE or CVE command (R278, R288). -/
inductive CmdKind where
  | copy | copy2 | copyx | copym | conv
deriving DecidableEq, Repr

/-- What an issued or waiting instruction of a context waits for. The constructors of R141 (not
issued while they wait) are `bwait`, `gang` and `mwait`; the others have issued (R105, R260, R265 to R271). -/
inductive Wait where
  | none
  /-- WFE until an event is pending (R105). -/
  | wfe
  /-- BWAIT on barrier `b`; `released` by a completion or a BINIT (R194). -/
  | bwait (b : BitVec 6) (d a : Spec) (released : Bool)
  /-- WAITA on `n` bytes at `ea` while they equal `old` (R269). -/
  | waita (d : Spec) (ea : Word) (n : Nat) (old : Word)
  /-- A remote load or atomic outstanding, `addr` its formed address (R208, R260). -/
  | remote (d : Spec) (n : Nat) (sx : Bool) (addr : Word)
  /-- A vector load with requests to other cores outstanding: the pieces still to come from each, the
  value put together so far, and the refusal of the lowest element (R128 to R130, R208). -/
  | gather (d : Spec) (left : List (CoreId × List Piece)) (acc : Vec) (bad : Option (Nat × Word × BitVec 4))
  /-- A far atomic at a home slice outstanding, `t` its tag (R245, R246). -/
  | far (d : Spec) (n : Nat) (ea : Word) (t : BitVec 16)
  /-- STREL on the core's own local memory (`own`, its offset) or on physical pieces waits for the context's earlier
  remote stores, its checks made (R242, R259). -/
  | strel (own : Option Nat) (segs : List (Nat × Nat)) (bs : List Byte)
  /-- FENCE waits for the context's remote stores (R242, R265). -/
  | fence
  /-- FENCE.RS (R265). -/
  | fenceRs
  /-- RED waits for the acknowledgement of its append, `t` the number of the request (R250, R266). -/
  | red (ea : Word) (t : Nat)
  /-- MERGE waits for the application of the entries it took (R267). -/
  | merge
  /-- BIND waits for `left` cores to invalidate, `t` the number of the request (R248, R268). -/
  | bind (left : Nat) (t : Nat)
  /-- CWB or CINV waits for its write-back (R271, R272). -/
  | writeBack
  /-- A pending GANG of size `n` (R174). -/
  | gang (n : Nat)
  /-- An engine block command whose parameter block is being read from another core (R310 step 3). -/
  | block (kind : CmdKind) (d : Spec) (m : MemOp) (addr : Word)
  /-- MWAIT on C view register `v` (R325). -/
  | mwait (v : BitVec 3)
  /-- TEXIT waits for the journal (R188). -/
  | texit
  /-- A gang member whose queue, link or feed operands act with those of the members that still wait (R146). -/
  | joined
  /-- What a RED, CWB or CINV waited for has come (R266, R271, R272). -/
  | acked
  /-- An issued access to a region of the core's own local memory waits for the end of the region's fill (R212, R260). -/
  | fill
deriving DecidableEq, Repr

/-- A source of an issued instruction that acts when the instruction completes (R42). -/
inductive Take where
  | s (f : Spec)
  | v (f : Spec)
deriving DecidableEq, Repr

/-- The state of one hardware context (R11). -/
structure Ctx where
  /-- s0 to s31; the entry of s0 is never read (R11). -/
  s : Vector Word 32
  v : Vector Vec 32
  m : Vector Word 8
  pc : Word
  /-- STATUS less CTX and TP, which a read derives (R17). -/
  status : Word
  cause : Word
  epc : Word
  eval : Word
  sealerr : Word
  kscr : Word
  faultx : Word
  halted : Bool
  wait : Wait
  /-- The sources that the instruction it waits for takes at its completion (R42). -/
  takes : List Take
  /-- ck at which the PAUSE window ends, 0 for none (R192). -/
  pauseEnd : Nat
  /-- Retired instructions of the open chunk, and whether the instruction in issue ends it with cause 2 or 3 (R419, R420). -/
  chunkN : Nat
  chunkHeld : Bool
  /-- Sequential successor and bits of the instruction in issue (R15, R38), and how the last attempt ended. -/
  succ : Word
  raw : Word
  last : Last
deriving DecidableEq, Repr

/-- A region a handler may access (R155, R396). -/
structure Region where
  base : Nat
  len : Nat
  rw : Bool
deriving DecidableEq, Repr

/-- An entry of a core's handler table (R155). -/
structure HEntry where
  addr : Word
  /-- 0 stands for HBUDGET.LIMIT (R396). -/
  budget : Nat
  owner : Option (BitVec 16)
  regions : List Region
deriving DecidableEq, Repr

/-- The activation in progress in the handler context (R156, R159, R166). -/
structure Activation where
  hdr : Word
  entry : HEntry
  /-- ck at which LEFT reaches zero. -/
  endCk : Nat
  /-- The activation may still send a reply to the core of its header (R166). -/
  mayReply : Bool
  /-- The core that sent the message (R166). -/
  src : CoreId
deriving DecidableEq, Repr

/-- States of a ready-queue slot (R152). -/
inductive RqState where
  | free | ready | running | asleep
deriving DecidableEq, Repr

/-- A ready-queue slot (R183). -/
structure Slot where
  st : RqState
  prio : BitVec 2
  fresh : Bool
  entry : Word
  id : Word
  desc : Word
  parent : BitVec 16
  arg : Word
  /-- CYCLE at which the slot last entered READY. -/
  readyCk : Word
  /-- Order of entry into READY (R152). -/
  order : Nat
  /-- The slot is kept from reuse until the purge of its dead task ends (R345 step 3). -/
  purging : Bool
  /-- The registration of the user queue that launched a root task (R403). -/
  rootQ : Option Nat
  /-- CYCLE of acceptance and of the first RQTAKE, ck counted as run and the ck it runs from (R418). -/
  accCk : Word
  takeCk : Word
  runCk : Nat
  runFrom : Nat
deriving DecidableEq, Repr

/-- The fields a launch message carries (R154, R179, R403). -/
structure LaunchMsg where
  entry : Word
  id : Word
  desc : Word
  prio : BitVec 2
  parent : BitVec 16
  arg : Word
  ctx : CtxNum
  rootQ : Option Nat
deriving DecidableEq, Repr

/-- An entry of the stream table with its buffer (R148, R160 to R164). -/
structure StreamEnt where
  word : Word
  /-- Accepted words, oldest first: header and 512 bits. -/
  buf : List (Word × Vec)
  /-- Header of an end-of-stream word whose activation waits for a request place (R164). -/
  eos : Option Word
deriving DecidableEq, Repr

/-- A line of the credit table (R178). -/
structure CreditLine where
  target : CoreId
  entry : BitVec 4
  credits : Nat
  /-- The credit of an end-of-stream word has returned. -/
  eosBack : Bool
deriving DecidableEq, Repr

/-- An entry of the journal of posted remote stores (R209): target, formed address, issuing context,
tag of its RUNNING task. The data travel in the packet of the store. -/
structure JEntry where
  target : CoreId
  addr : Word
  kind : CtxKind
  tag : BitVec 16
  /-- The pieces of the store: offsets and bytes. -/
  data : List (Nat × List Byte)
  /-- Number of the request of its core (R242), and whether its task has not died (R345). -/
  n : Nat
  live : Bool
deriving DecidableEq, Repr

/-- An entry of the completion queue (R283). -/
structure Completion where
  tag : BitVec 16
  handler : Word
  err : BitVec 8
  eng : BitVec 8
  tid : BitVec 16
deriving DecidableEq, Repr

/-- A queued asynchronous event (R336, R337). -/
structure Event where
  code : BitVec 8
  eval : Word
deriving DecidableEq, Repr

/-- A memory window (R206). -/
structure Window where
  base : Word
  lim : Word
  perm : Word
  rect : Word
deriving DecidableEq, Repr

/-- A view register: MVW, MVB and MVX (R319). -/
structure View where
  w : Word
  b : Word
  x : Word
deriving DecidableEq, Repr

/-- A leaf installed in an instruction cache (R32, R215). -/
structure Leaf where
  ctx : CtxNum
  va : Word
  pa : Nat
  image : BitVec 512
deriving DecidableEq, Repr

/-- A cached translation: 2^lg pages of 4 KiB (R347). -/
structure Xlat where
  ctx : CtxNum
  va : Nat
  pa : Nat
  lg : Nat
  r : Bool
  w : Bool
  x : Bool
deriving DecidableEq, Repr

/-- One receiving end of a link (R137, R138): readable words, words still in flight toward it, and
slots whose return the writer has not yet seen. -/
structure LinkEnd where
  words : List Word
  flight : List Word
  returning : Nat
deriving DecidableEq, Repr

/-- A standing gang as one member sees it (R145). -/
structure Gang where
  leader : CoreId
  size : Nat
  me : Nat
deriving DecidableEq, Repr

/-- An atomic to be applied at another place (R245, R246). -/
inductive AtomicReq where
  | amo (op : AmoOp) (c : Word)
  | cas (n : Nat) (expect c : Word)
  | addF (c : BitVec 32)
deriving DecidableEq, Repr

/-- A failure of an engine command: code of R285, address, reason of R207. -/
structure CmdFail where
  code : BitVec 8
  addr : Word
  reason : BitVec 4
deriving DecidableEq, Repr

/-- What a command has overwritten: the bytes of array space and of memory as the command found them, whether each
chunk of memory was poisoned (R279), and by virtual address those of its source whose page the host has moved since. -/
structure Before where
  arr : SMap Byte
  mem : SMap Byte
  bad : SMap Bool
  va : SMap (Byte × Bool)
deriving DecidableEq, Repr

/-- A command held by an MVE or a CVE (R275, R310 step 7). -/
structure Cmd where
  kind : CmdKind
  /-- The parameter block, eight dwords (R312). -/
  blk : List Word
  tid : BitVec 16
  owner : BitVec 16
  /-- The owning task has not ended, and its parent, kept for orphan notices (R287). -/
  live : Bool
  parent : BitVec 16
  issuer : CoreId
  ctx : CtxNum
  /-- The context that issued, and the number of its core's next request at the issue: stores numbered below it come before
  every access of the command (R239, R242). -/
  by_ : CtxKind
  after : Nat
  /-- Chunks landed (MVE) and elements converted (CVE). -/
  landed : List Nat
  next : Nat
  /-- Bytes landed so far. -/
  bytes : Nat
  fail : Option CmdFail
  /-- For overlapping operands (R279). -/
  old : Before
  /-- Page request the command waits for (R351). -/
  ptag : Option (BitVec 16)
  /-- The stream word has been sent (R281). -/
  streamed : Bool
deriving DecidableEq, Repr

/-- Kinds of an MTE command (R295 to R300). -/
inductive MKind where
  | mma | mmax | mmas | mmar | mzero
deriving DecidableEq, Repr

/-- A command accepted by an MTE, with the copied views and control operand (R291, R322). -/
structure MCmd where
  kind : MKind
  cv : BitVec 3
  av : BitVec 3
  bv : BitVec 3
  c : View
  a : View
  b : View
  ctl : Word
  issuer : CoreId
  ctx : CtxNum
  tag : BitVec 16
  /-- As in `Cmd`. -/
  by_ : CtxKind
  after : Nat
  acceptCk : Nat
  /-- A resumed command of a switch needs no grant (R353 step 6). -/
  noGrant : Bool
deriving DecidableEq, Repr

/-- The command an MTE is computing: its blocks, one per tile of the rectangle, and the next slice. -/
structure MRun where
  cmd : MCmd
  acc : List (TileId × List (BitVec 32))
  k : Nat
  /-- The ck of the boundary before the first slice (R301, R306). -/
  first : Nat
  /-- The bytes of slice `k` of an MMAS stream that have arrived: B rows, then scale bytes (R299). -/
  stream : Option (List Byte)
deriving DecidableEq, Repr

/-- A write-back not yet visible (R296): the C blocks it brings, what `record_stop` will record (cause, error,
slices applied), the address of a failing byte, and a stop request still standing for the command (R301, R302). -/
structure MWb where
  cmd : MCmd
  tiles : List TileId
  stop : Option (Nat × BitVec 8 × Nat)
  addr : Word
  req : Bool
deriving DecidableEq, Repr

/-- A matrix engine (R295 to R308). -/
structure Mte where
  /-- Accepted commands not yet computing, oldest first. -/
  queue : List MCmd
  run : Option MRun
  wb : List MWb
  /-- The ck at which a stop was requested of the running command (R301 cause 2). -/
  stopReq : Option Nat
  /-- The C view that the engine still holds (R306). -/
  held : Option View
  /-- The ck at which the ramp-down ends and the engine is idle (R308); it has ended at a ck not below. -/
  filler : Nat
  /-- Corner of the MMAR this tile works or is held for (R300, R307). -/
  rect : Option TileId
  /-- A granted tile waits for its rectangle's last grant, or for the end of an MZERO (R307). -/
  granted : Bool
deriving DecidableEq, Repr

/-- States of a keeper (R368). -/
inductive KState where
  | lit | dark | appeal | admitting | fenced
deriving DecidableEq, Repr

/-- A vote of a keeper (R361): `born` is the ck less the age. -/
structure Vote where
  voter : TileId
  suspect : TileId
  reason : BitVec 2
  born : Nat
deriving DecidableEq, Repr

/-- A keeper (R358 to R370). -/
structure Keeper where
  state : KState
  fails : Nat
  /-- Tiles whose dark bit is set in this keeper's view, rising. -/
  dark : List Nat
  votes : List Vote
  /-- ck of the last good beacon at each port, and the beacon. -/
  good : Quad Nat
  beacon : Quad (BitVec 32)
  /-- Good beacons in a row, and malformed flits of the current period, at each port. -/
  row : Quad Nat
  bad : Quad Nat
  closed : Quad Bool
  /-- Ports that close or open, and in which ck (R363, R369). -/
  due : Quad (Option (Nat × Bool))
  /-- The ck of the last beacon sent, plus 1 (R359). -/
  beat : Nat
  /-- ck from which the keeper's timer counts (the tile's last reset). -/
  base : Nat
  /-- Beacons sent in APPEAL, the ck of the appeal, and the neighbours that accepted. -/
  sent : Nat
  appealCk : Option Nat
  accepted : List Nat
deriving DecidableEq, Repr

/-- The keeper shadow of a tile on the base die (R358, R363): its closed ports on the group butterfly and the supergroup router,
and when they close or open. -/
structure Shadow where
  bfly : Bool
  router : Bool
  due : Option (Nat × Bool)
deriving DecidableEq, Repr

/-- A rectangle of tiles (R434). -/
structure Rect where
  tx0 : Nat
  ty0 : Nat
  w : Nat
  h : Nat
deriving DecidableEq, Repr

/-- The state of a tile (R132, R133, R135, R200, R217, R358). -/
structure Tile where
  qmap : Word
  queues : Vector (List Word) 8
  /-- The rectangle the LDS last placed; none: the tile alone (R434). -/
  part : Option Rect
  /-- The partition (an index into the LDS's list) whose state the tile holds (R405). -/
  holder : Option Nat
  /-- Step 1 of a partition switch holds the tile (R353). -/
  held : Bool
  /-- The tile holds what a context whose registration has ended left there (R8, R394). -/
  stale : Bool
  /-- The ck at which step 2 of a switch stopped the tile's engines (R301 cause 3, R353). -/
  engStop : Option Nat
  mve : List Cmd
  cve : List Cmd
  mte : Mte
  /-- Slots of the MVE reserved for accepted COPYX requests (R156). -/
  reserved : Nat
  tlb : List Xlat
  /-- Entries of the indirection-table copy that differ from the reset map: slice and generation (R217). -/
  map : SMap (Nat × Nat)
  keeper : Keeper
  /-- The tile has been declared dark somewhere (R363). -/
  dark : Bool
  shadow : Shadow
  /-- The shadow's mirror of the non-FREE slots: tag and parent tag (R367). -/
  mirror : SMap (BitVec 16)
deriving DecidableEq, Repr

/-- What the active queue of an inbox holds (R156). -/
inductive ActiveMsg where
  /-- A software message: sender, handler index, header, payload words s2 to s9, and whether a reply is due. -/
  | soft (src : CoreId) (idx : Nat) (hdr : Word) (pay : List Word) (mayReply : Bool)
  | arrival (src : CoreId) (b : BitVec 6) (tag : BitVec 16)
  | atomic (src : CoreId) (h : CtxKind) (off : Nat) (req : AtomicReq) (ctx : CtxNum) (tag : BitVec 16) (seq : BitVec 16) (addr : Word)
  | copyx (cmd : Cmd)
deriving DecidableEq, Repr

/-- A pending access of the bank array (R204). -/
structure BankReq where
  write : Bool
  prio : Nat
  off : Nat
deriving DecidableEq, Repr

/-- The state of one core outside memory. -/
structure Core where
  task : Ctx
  hand : Ctx
  released : Bool
  /-- Stopped by a double fault until a tile reset (R24). -/
  dead : Bool
  /-- Stopped by a halt or a divergence (R422). -/
  stopped : Bool
  ckBase : Nat
  tvec : Word
  tvecKept : Word
  ctxnum : CtxNum
  timecmp : Word
  hlimit : BitVec 16
  act : Option Activation
  handlers : Vector (Option HEntry) 16
  launchQ : List LaunchMsg
  /-- A launch is to be accepted at the end of this ck (R187). -/
  launchDue : Bool
  activeQ : List ActiveMsg
  /-- Reply slots reserved, 0 to 4 (R166). -/
  resv : Nat
  streams : Vector StreamEnt 8
  credits : List CreditLine
  slotCnt : Vector (BitVec 4) 64
  bars : Vector Word 64
  /-- The events of this ck at named barriers: arrivals and pending bytes (R169). -/
  barIn : SMap (Nat × Int)
  slots : Vector Slot 64
  readyCount : Nat
  wins : Vector Window 4
  journal : Vector (Option JEntry) 32
  vsave : Word
  copyid : Word
  copyepc : Word
  compQ : List Completion
  eventQ : List Event
  mprog : Word
  mprogc : Word
  views : Vector View 8
  trctl : Word
  /-- ck counted with no slot RUNNING, and the ck from which counting runs (R417). -/
  srch : Nat
  srchFrom : Nat
  stealf : Word
  gang : Option Gang
  icache : List Leaf
  utlb : List Xlat
  links : Quad LinkEnd
  atag : BitVec 16
  /-- Number of the core's next store to another core, RED or BIND; no reset starts it again. -/
  txn : Nat
  /-- Results of the last atomics, newest first: requester, tag, value (R246). -/
  done : List (Nat × BitVec 16 × Word)
  banks : List BankReq
  /-- Notice word of a death whose trap entry is due (R345 step 1). -/
  death : Option Word
deriving DecidableEq, Repr

/-- An entry of a reduction log (R250). -/
structure RedEntry where
  pa : Nat
  va : Word
  k : RedK
  value : Word
  requester : CoreId
  ctx : CtxKind
  seq : Nat
  spilled : Bool
deriving DecidableEq, Repr

/-- What a packet of the core-to-core networks carries (R165, R209, R246, R250). -/
inductive Body where
  | launch (l : LaunchMsg)
  | active (hdr : Word) (pay : List Word)
  | arrival (b : BitVec 6)
  | atomic (h : CtxKind) (off : Nat) (req : AtomicReq) (seq : BitVec 16) (addr : Word)
  | copyx (cmd : Cmd)
  | stream (hdr : Word) (data : Vec)
  | load (h : CtxKind) (ps : List Piece) (addr : Word)
  /-- A posted store; `rel` marks a release, visible only behind its context's earlier stores (R242, R259). -/
  | store (j : Nat) (h : CtxKind) (data : List (Nat × List Byte)) (addr : Word) (rel : Bool)
  | loadReply (h : CtxKind) (data : List Byte)
  | loadRefused (h : CtxKind) (reason : BitVec 4) (addr : Word)
  /-- The result of the atomic with a tag on local memory (R246). -/
  | atomicReply (h : CtxKind) (seq : BitVec 16) (data : List Byte)
  /-- An atomic of n bytes sent again under its tag, its result lost: `far` to a home slice, else to the target (R246, R357). -/
  | again (h : CtxKind) (seq : BitVec 16) (n : Nat) (far : Bool)
  | storeAck (j : Nat)
  | storeRefused (j : Nat) (reason : BitVec 4) (addr : Word)
  | credit (target : CoreId) (entry : BitVec 4) (eos : Bool)
  | slotReturn
  | resvRelease
  /-- A refusal on its way to the sender: the EVAL of event 0x13, whether a reply reservation is
  freed, and the credit that returns (R155, R161, R178). -/
  | refused (eval : Word) (resv : Bool) (credit : Option (CoreId × BitVec 4 × Bool))
  /-- A far atomic on its way to slice `sl` (R224, R245). -/
  | far (h : CtxKind) (pa : Nat) (req : AtomicReq) (seq : BitVec 16) (sl : Nat)
  | farReply (h : CtxKind) (seq : BitVec 16) (data : List Byte)
  /-- A far atomic whose byte `i` is poisoned (R230). -/
  | farBad (h : CtxKind) (seq : BitVec 16) (i : Nat)
  | red (e : RedEntry) (t : Nat) (sl : Nat)
  | bindInv (h : CtxKind) (t : Nat) (pages : List (Nat × Nat))
  | notice (w : Word)
deriving DecidableEq, Repr

/-- A packet in flight: source and destination core, sender's task tag and context (R149). -/
structure Packet where
  src : CoreId
  dst : CoreId
  tag : BitVec 16
  ctx : CtxNum
  body : Body
deriving DecidableEq, Repr

/-- A message of the keepers' side band (R358, R361, R363, R369). -/
inductive SideMsg where
  /-- A beacon and the tile that sent it (R359). -/
  | beacon (from_ : TileId) (w : BitVec 32)
  /-- Votes, declarations and relight declarations, with the hops still to make (R361, R363). -/
  | vote (path : List TileId) (v : Vote)
  | declare (path : List TileId) (s : TileId)
  | appeal (s : TileId)
  | accept (by_ : TileId)
  | relight (path : List TileId) (s : TileId)
deriving DecidableEq, Repr

/-- CXL state of a half (R227, R228). -/
inductive HalfSt where
  | m | o | e | s | i
deriving DecidableEq, Repr

/-- A directory entry (R222). -/
inductive DirEnt where
  | exact (ps : List Nat)
  | coarse (v : BitVec 64)
deriving DecidableEq, Repr

/-- Tokens in flight for one line (R218), and the halves whose data the message carries (R220). -/
structure TokenMsg where
  dest : Nat
  plain : Nat
  owner : Bool
  dirty : Bool
  data : Bool × Bool
deriving DecidableEq, Repr

/-- The coherence record of a line (R218 to R222, R226). The home slice holds what the record does
not give to a cache or to a message. -/
structure LineSt where
  /-- Plain tokens of each cache that holds some, by requester number, rising. -/
  hold : List (Nat × Nat)
  /-- Cache that holds the owner token; none: home, or in flight. -/
  owner : Option Nat
  dirty : Bool
  /-- Valid halves of each cache that holds tokens (R213, R214). -/
  valid : SMap (Bool × Bool)
  /-- Way of the home slice that holds the line's data (R213, R225). -/
  way : Option Nat
  dir : DirEnt
  h0 : HalfSt
  h1 : HalfSt
  flight : List TokenMsg
  /-- Requests of each requester that have not yet got what it needs; all but the first are retries (R221). -/
  retries : List (Nat × Nat)
  active : Option (Nat × Bool)
  waiting : List (Nat × Bool)
  /-- Number of the persistent request that last completed. -/
  lastReq : Nat
  /-- Requests to the host for the halves of the line that are not yet answered: half, and whether for a write (R226 to R229). -/
  asked : List (Bool × Bool)
deriving DecidableEq, Repr

/-- The coherence fabric and the shared cache (R213 to R230). -/
structure Coh where
  lines : SMap LineSt
  /-- Entries of the master indirection table that differ from the reset map (R217). -/
  map : SMap (Nat × Nat)
  gen : Nat
  /-- Requests counted in the rebalancer's window, per bucket, and the ck at which the window began (R223). -/
  counts : SMap Nat
  winFrom : Nat
  /-- A move of a bucket to a slice that waits for a persistent request (R223 step 1). -/
  move : Option (Nat × Nat)
  /-- Way mask of a slice and colour, key 16 slice + colour (R225). -/
  ways : SMap (BitVec 16)
  /-- Results of the last far atomics: slice, requester, tag, value (R246). -/
  done : List (Nat × Nat × BitVec 16 × Word)
deriving DecidableEq, Repr

/-- A page request sent to the host (R349, R351). -/
structure PageReq where
  ptag : BitVec 16
  core : CoreId
  tag : BitVec 16
  ctx : CtxNum
  va : Word
  /-- The engine command waits, rather than a task. -/
  engine : Bool
  /-- The access lacked permission rather than a mapping. -/
  perm : Bool
  /-- The partition whose state the core's tile held. -/
  part : Option Nat
deriving DecidableEq, Repr

/-- The translation service unit (R347 to R352). -/
structure Tsu where
  cache : List Xlat
  /-- What the host answers to ATS requests (the host's own tables). -/
  host : List HostPage
  reqs : List PageReq
  nextPtag : BitVec 16
  /-- Results of page-hash checks: context, page, matched (R352). -/
  hashed : List (CtxNum × Nat × Bool)
  /-- Invalidations whose completion is due: the physical ranges of the entries that each removed (R350). -/
  inval : List (List (Nat × Nat))
deriving DecidableEq, Repr

/-- A registered context (R394, R397). -/
structure CtxDesc where
  pasid : BitVec 20
  walk : BitVec 2
  root : Nat
  switch : Word
  spill : Word
  spsize : Nat
  vbase : Word
  colour : Option Nat
deriving DecidableEq, Repr

/-- A registered folio (R395, R396). -/
structure Folio where
  ctx : CtxNum
  handle : BitVec 16
  gbase : Word
  hashes : List (BitVec 512)
  entries : List Word
  handlers : List HEntry
deriving DecidableEq, Repr

/-- A user queue (R398 to R402). -/
structure UQueue where
  /-- The number of its registration, which no other has. -/
  id : Nat
  ctx : CtxNum
  page : Word
  ctl : Word
  /-- Records taken (HEAD), the TAIL last read, QERR and NCOUNT as the LDS has written them. -/
  head : Nat
  tail : Nat
  qerr : Word
  ncount : Nat
  /-- A bad TAIL has stopped the queue (R402). -/
  stopped : Bool
  /-- The line of TAIL, of which the LDS took a token when it last read TAIL (R401). -/
  tailLine : Option Nat
  /-- A record taken and waiting to be placed (R402). -/
  pending : Option (List Word)
  /-- Reads of TAIL, each with its ck, that lie past records not yet taken; the ck of the record that waits (R404). -/
  arrivals : List (Nat × Nat)
  arrived : Nat
deriving DecidableEq, Repr

/-- The saved state of a partition's tiles (R353 step 4). -/
structure Saved where
  cores : SMap Core
  tiles : SMap Tile
  arr : Mem
deriving DecidableEq, Repr

/-- A partition the LDS has placed (R403 to R406); `saved` holds its cores, tiles, local memory and
tile stores while it is switched out (R353). -/
structure Part where
  ctx : CtxNum
  rect : Rect
  cls : BitVec 2
  /-- ck of switch-in, slice length, and whether the slice has run out. -/
  since : Nat
  slice : Nat
  expired : Bool
  /-- The pre-emption point of a Bulk slice has passed (R404). -/
  preempt : Bool
  ended : Bool
  /-- Discardable regions of local memory, and of the tile stores (R400). -/
  lmdisc : BitVec 12
  tsdisc : Bool
  /-- Step of a running switch, 0 for none (R353). -/
  step : Nat
  saved : Option Saved
  /-- Packets parked for the partition's colour (R354). -/
  parked : List Packet
deriving DecidableEq, Repr

/-- A real-time reservation (R398). -/
structure Reservation where
  ctx : CtxNum
  rect : Rect
  rows : List Nat
  ways : Nat
deriving DecidableEq, Repr

/-- The launch dispatcher and the mailbox (R394 to R406). -/
structure Lds where
  enabled : Bool
  ctxs : SMap CtxDesc
  folios : List Folio
  queues : SMap UQueue
  parts : SMap Part
  resvs : List Reservation
  /-- The number of the next registration of a queue. -/
  nextQ : Nat
  /-- Notices of root tasks on their way to a user queue, by its registration (R403). -/
  notices : List (Nat × Word)
  /-- Mailbox: OP, BUSY, RES and A0 to A5 (R394). -/
  mbOp : BitVec 8
  mbBusy : Bool
  mbRes : BitVec 8
  mbA : Vector Word 6
deriving DecidableEq, Repr

/-- A record of the EVA: its dwords 0 to 2 (R356). -/
structure Rec where
  d0 : Word
  d1 : Word
  d2 : Word
deriving DecidableEq, Repr

/-- A context whose chunk record the arbiter has accepted under a SEQ, until the instruction that ends the chunk has completed: acknowledged
or not yet (R420). -/
structure ChunkGrant where
  core : CoreId
  ctx : CtxKind
  seq : Word
  acked : Bool
deriving DecidableEq, Repr

/-- The event arbiter (R356, R416, R420, R421). -/
structure Eva where
  /-- Records sent and not yet received, oldest first. -/
  inbox : List Rec
  /-- SEQ of the next record. -/
  seq : Word
  base : Nat
  size : Nat
  /-- The SEQ that system software names for a replay, the SEQ that replay has reached, and those matched beyond it (R421). -/
  named : Word
  replay : Word
  matched : List Nat
  /-- The contexts whose records of causes 2 and 3 are in `inbox`, oldest first, and those whose records are accepted (R420). -/
  asked : List (CoreId × CtxKind)
  grants : List ChunkGrant
deriving DecidableEq, Repr

/-- Stage of the boot chain (R423, R430). -/
inductive BootState where
  | off | recovery | running
deriving DecidableEq, Repr

/-- What the device has sent toward the host. -/
inductive HostMsg where
  | pageReq (r : PageReq)
  | invalDone
  /-- A dirty half, and whether it is sent poisoned (R227, R230). -/
  | writeBack (line : Line) (half bad : Bool)
  /-- A half of device memory that the host has read, and whether it is sent poisoned (R229, R230). -/
  | data (line : Line) (half bad : Bool)
  /-- Requests of the DSC for one half: RdShared, RdOwn, BISnpData, BISnpInv (R227, R229). -/
  | rdShared (line : Line) (half : Bool)
  | rdOwn (line : Line) (half : Bool)
  | biSnpData (line : Line) (half : Bool)
  | biSnpInv (line : Line) (half : Bool)
  /-- The old value of a host atomic (R245). -/
  | atomic (old : Word)
  | spdm (kind : Nat) (data : List Byte) (sig : BitVec 4096)
  /-- What a read of BAR 0 returns (R394, R416, R428). -/
  | bar (v : Word)
  | doe
deriving DecidableEq, Repr

/-- The management core, power and the host link (R390, R392, R423 to R430). -/
structure Mgmt where
  boot : BootState
  mr : Vector (BitVec 512) 8
  /-- Extensions of MR4 to MR7 (R424). -/
  exts : Vector Nat 4
  cap : BitVec 8
  freq : BitVec 4
  tj : BitVec 8
  powered : Bool
  /-- Data rate code and GiB of device memory once trained (R392). -/
  memRate : BitVec 2
  memGib : Nat
  /-- First physical address of the HDM range (R391). -/
  hdmBase : Nat
  mod0 : Bool
  mod1 : Bool
  linkUp : Bool
  /-- ck of the last step of 1 ms (R427). -/
  thermAt : Nat
  /-- Steps 5 and 6 of bring-up (R430): tiles reset, tiles tested, cores whose TVEC is written; rising. -/
  resets : List Nat
  tested : List Nat
  tvecs : List Nat
  /-- Tiles whose reset waits until they are switched out (R431), rising. -/
  wanted : List Nat
  /-- The highest ck that holds the power cap (R426; log 13). -/
  capCk : BitVec 4
deriving DecidableEq, Repr

/-- Which agent moves next: an event of the part, another core or context, ck that pass, or an access of the host or of the
management core that the opcode table has no row for (log 4). -/
inductive Turn where
  | event (i : Instr)
  | focus (k : CoreId) (h : CtxKind)
  | elapse (n : Nat)
  /-- Firmware chooses the ring (R416), system software the SEQ that a replay starts from (R421), and the host reads BAR 0. -/
  | ring (base size : Nat)
  | replayFrom (seq : Word)
  | barRead (off : BitVec 16)
  /-- GET_MEASUREMENTS of one index (R425). -/
  | measure (index : BitVec 8) (nonce : BitVec 256)
deriving DecidableEq, Repr

/-- The machine. -/
structure State where
  /-- The core and the context that step. -/
  cur : CoreId
  kind : CtxKind
  core : Core
  /-- Every other core; an unlisted one is as `Core.reset`. -/
  others : SMap Core
  tiles : SMap Tile
  /-- Local memories and tile stores, keyed by canonical array address (R198). -/
  arr : Mem
  /-- Owner stamps by region, key array address / 4096; unlisted 0. Fills in progress, with the ck at which each ends (R212). -/
  stamps : SMap Nat
  fills : SMap Nat
  /-- Physical memory (R216). -/
  pmem : Mem
  /-- Poisoned 32-byte chunks of physical memory (pa / 32), rising (R230). -/
  poison : List Nat
  ck : Nat
  agenda : List Turn
  /-- Counter that free values are applied to. -/
  fresh : Nat
  /-- The members' v0 to v31 as they stood at issue (R146). -/
  gangView : List (Vector Vec 32)
  net : List Packet
  side : List (TileId × SideMsg)
  coh : Coh
  /-- Reduction logs, key 1024 slice + context (R250). -/
  logs : SMap (List RedEntry)
  /-- Entries a MERGE has taken and not yet applied, key 2 core + context (R267). -/
  taken : SMap (List RedEntry)
  tsu : Tsu
  lds : Lds
  eva : Eva
  /-- RAMP of a supergroup and its lock (R307). -/
  ramp : SMap (Word × Bool)
  /-- The ck of a supergroup's last step boundary, plus 1 (R307). -/
  sgvAt : SMap Nat
  mgmt : Mgmt
  hostOut : List HostMsg
  /-- Owner of a device-memory frame, unlisted 0 (R393). -/
  frames : SMap Nat
deriving DecidableEq, Repr

/-- Why the machine stops: it never does, since the manual gives every instruction and every event an effect. -/
inductive Fault where
deriving DecidableEq, Repr

/-- Why an instruction has no meaning here. -/
inductive Refusal where
  /-- Raised by an arm of `exec` whose instruction has no meaning yet: safe, nothing is claimed of it. -/
  | notModelled (mnemonic : String)
deriving DecidableEq, Repr

/-- A context after a tile reset (R26); pc is the model's choice (log 2). -/
def Ctx.reset : Ctx where
  s := Vector.replicate 32 0
  v := Vector.replicate 32 0
  m := Vector.replicate 8 0
  pc := 0
  status := 0x430
  cause := 0
  epc := 0
  eval := 0
  sealerr := 0
  kscr := 0
  faultx := 0
  halted := false
  wait := .none
  takes := []
  pauseEnd := 0
  chunkN := 0
  chunkHeld := false
  succ := 0
  raw := 0
  last := .none

def StreamEnt.reset : StreamEnt := ⟨0, [], none⟩

def Slot.reset : Slot :=
  ⟨.free, 0, false, 0, 0, 0, 0, 0, 0, 0, false, none, 0, 0, 0, 0⟩

def Window.reset : Window := ⟨0, 0, 0, 0⟩

def View.reset : View := ⟨0, 0, 0⟩

def LinkEnd.reset : LinkEnd := ⟨[], [], 0⟩

/-- A core after a tile reset, not yet released (R26, R431). -/
def Core.reset : Core where
  task := Ctx.reset
  hand := Ctx.reset
  released := false
  dead := false
  stopped := false
  ckBase := 0
  tvec := 0
  tvecKept := 0
  ctxnum := 0
  timecmp := 0xffffffffffffffff
  hlimit := 0x07d0
  act := none
  handlers := Vector.replicate 16 none
  launchQ := []
  launchDue := false
  activeQ := []
  resv := 0
  streams := Vector.replicate 8 StreamEnt.reset
  credits := []
  slotCnt := Vector.replicate 64 4
  bars := Vector.replicate 64 0
  barIn := []
  slots := Vector.replicate 64 Slot.reset
  readyCount := 0
  wins := Vector.replicate 4 Window.reset
  journal := Vector.replicate 32 none
  vsave := 0
  copyid := 0
  copyepc := 0
  compQ := []
  eventQ := []
  mprog := 0
  mprogc := 0
  views := Vector.replicate 8 View.reset
  trctl := 0x0000ffff00000000
  srch := 0
  srchFrom := 0
  stealf := 0
  gang := none
  icache := []
  utlb := []
  links := ⟨LinkEnd.reset, LinkEnd.reset, LinkEnd.reset, LinkEnd.reset⟩
  atag := 0
  txn := 0
  done := []
  banks := []
  death := none

def Mte.reset : Mte := ⟨[], none, [], none, none, 0, none, false⟩

def Keeper.reset : Keeper where
  state := .lit
  fails := 0
  dark := []
  votes := []
  good := ⟨0, 0, 0, 0⟩
  beacon := ⟨0, 0, 0, 0⟩
  row := ⟨0, 0, 0, 0⟩
  bad := ⟨0, 0, 0, 0⟩
  closed := ⟨false, false, false, false⟩
  due := ⟨none, none, none, none⟩
  beat := 0
  base := 0
  sent := 0
  appealCk := none
  accepted := []

/-- A tile after a tile reset (R133, R431). -/
def Tile.reset : Tile where
  qmap := 0x000000e4dcb74321
  queues := Vector.replicate 8 []
  part := none
  holder := none
  held := false
  stale := false
  engStop := none
  mve := []
  cve := []
  mte := Mte.reset
  reserved := 0
  tlb := []
  map := []
  keeper := Keeper.reset
  dark := false
  shadow := ⟨false, false, none⟩
  mirror := []

/-- The machine after power-on reset: the array is in reset and nothing has booted (R26, R423, R430).
Every value that the manual leaves open here is named in the log (2, 3). -/
def State.reset : State where
  cur := 0
  kind := .task
  core := Core.reset
  others := []
  tiles := []
  arr := []
  stamps := []
  fills := []
  pmem := []
  poison := []
  ck := 0
  agenda := []
  fresh := 0
  gangView := []
  net := []
  side := []
  coh := ⟨[], [], 0, [], 0, none, [], []⟩
  logs := []
  taken := []
  tsu := ⟨[], [], [], 0, [], []⟩
  lds := ⟨false, [], [], [], [], [], 0, [], 0, false, 0, Vector.replicate 6 0⟩
  eva := ⟨[], 0, 0x8000000000, 4096, 0, 0, [], [], []⟩
  ramp := []
  sgvAt := []
  mgmt := {
    boot := .off
    mr := Vector.replicate 8 0
    exts := Vector.replicate 4 0
    cap := 240
    freq := 8
    tj := 0
    powered := true
    memRate := 0
    memGib := 0
    hdmBase := 0x8000000000
    mod0 := true
    mod1 := true
    linkUp := false
    thermAt := 0
    resets := []
    tested := []
    tvecs := []
    wanted := []
    capCk := 8 }
  hostOut := []
  frames := []

end Sys2Proof.Machine
end

