-- ==== Sys2Proof/Machine/SMap.lean ====
section
/-!
DEFINITION. Sparse maps with rising keys, and memory as such a map (R2, R233).
-/
namespace Sys2Proof.Machine

/-- What a key holds. -/
def SMap.get? {β : Type} : SMap β → Nat → Option β
  | [], _ => none
  | (k, v) :: r, a => if a = k then some v else SMap.get? r a

/-- The map with one key set, keys kept rising. -/
def SMap.put {β : Type} : SMap β → Nat → β → SMap β
  | [], a, x => [(a, x)]
  | (k, v) :: r, a, x =>
    if a < k then (a, x) :: (k, v) :: r
    else if a = k then (a, x) :: r
    else (k, v) :: SMap.put r a x

/-- The map without a key. -/
def SMap.del {β : Type} : SMap β → Nat → SMap β
  | [], _ => []
  | (k, v) :: r, a => if a = k then SMap.del r a else (k, v) :: SMap.del r a

/-- Keys strictly rising. -/
def SMap.rising {β : Type} : SMap β → Bool
  | [] => true
  | [_] => true
  | (k, _) :: (k', v') :: r => decide (k < k') && SMap.rising ((k', v') :: r)

/-- The byte at an address; an unlisted address reads as zero (R212; log 3 for physical memory). -/
def Mem.get (m : Mem) (a : Nat) : Byte := (SMap.get? m a).getD 0

/-- Memory with one byte written, in canonical form. -/
def Mem.set (m : Mem) (a : Nat) (b : Byte) : Mem :=
  if b = 0 then SMap.del m a else SMap.put m a b

/-- The canonical form: addresses strictly rising and no zero byte listed. -/
def Mem.wf (m : Mem) : Bool := SMap.rising m && m.all (fun c => c.2 != 0)

/-- n bytes from an address, lowest first. -/
def Mem.read (m : Mem) (a : Nat) : Nat → List Byte
  | 0 => []
  | n + 1 => Mem.get m a :: Mem.read m (a + 1) n

/-- Bytes written at rising addresses from `a`. -/
def Mem.write (m : Mem) (a : Nat) : List Byte → Mem
  | [] => m
  | b :: r => Mem.write (Mem.set m a b) (a + 1) r

/-- A set of numbers kept as a rising list. -/
def insertNat (a : Nat) : List Nat → List Nat
  | [] => [a]
  | k :: r => if a < k then a :: k :: r else if a = k then k :: r else k :: insertNat a r

end Sys2Proof.Machine
end

