-- ==== Sys2Proof/Machine/Cores.lean ====
section
/-!
DEFINITION. Cores and tiles by index, the registers of a context, STATUS and time, and the two ways in which a part of an instruction
fails to complete (R5, R11, R17 to R20, R141, R150).
-/
namespace Sys2Proof.Machine

/-! Coordinates (R5, R150, R221). -/

def coreX (k : CoreId) : Nat := k.toNat % 32
def coreY (k : CoreId) : Nat := k.toNat / 32
/-- The core at (x, y). -/
def coreAt (x y : Nat) : CoreId := BitVec.ofNat 10 (y * 32 + x)
/-- The tile of a core. -/
def tileOfCore (k : CoreId) : TileId := BitVec.ofNat 8 (coreY k / 2 * 16 + coreX k / 2)
def tileX (t : TileId) : Nat := t.toNat % 16
def tileY (t : TileId) : Nat := t.toNat / 16
def tileAt (x y : Nat) : TileId := BitVec.ofNat 8 (y * 16 + x)
/-- A core's index in its tile. -/
def tcore (k : CoreId) : Nat := coreX k % 2 + 2 * (coreY k % 2)
/-- Core i of a tile. -/
def coreOfTile (t : TileId) (i : Nat) : CoreId := coreAt (2 * tileX t + i % 2) (2 * tileY t + i / 2)
/-- The four cores of a tile. -/
def coresOfTile (t : TileId) : List CoreId := (upto 4).map (coreOfTile t)
/-- The group and the supergroup of a core, as numbers. -/
def groupOf (k : CoreId) : Nat := coreY k / 4 * 8 + coreX k / 4
def sgOf (k : CoreId) : Nat := coreY k / 8 * 4 + coreX k / 8
/-- The core a task tag names, and its slot (R150). -/
def tagCore (t : BitVec 16) : CoreId := BitVec.ofNat 10 (fld t 6 10)
def tagSlot (t : BitVec 16) : Nat := fld t 0 6
def tagOf (k : CoreId) (j : Nat) : BitVec 16 := BitVec.ofNat 16 (k.toNat * 64 + j)

/-! Directions and neighbours (R137, R358). -/

def dirOpp : Dir → Dir
  | .north => .south
  | .south => .north
  | .east => .west
  | .west => .east

def Quad.get {α : Type} (q : Quad α) : Dir → α
  | .north => q.n
  | .east => q.e
  | .south => q.s
  | .west => q.w

def Quad.set {α : Type} (q : Quad α) (d : Dir) (x : α) : Quad α :=
  match d with
  | .north => { q with n := x }
  | .east => { q with e := x }
  | .south => { q with s := x }
  | .west => { q with w := x }

/-- The tile beside another (R358). -/
def tileBeside (t : TileId) : Dir → Option TileId
  | .north => if tileY t = 0 then none else some (tileAt (tileX t) (tileY t - 1))
  | .south => if tileY t = 15 then none else some (tileAt (tileX t) (tileY t + 1))
  | .east => if tileX t = 15 then none else some (tileAt (tileX t + 1) (tileY t))
  | .west => if tileX t = 0 then none else some (tileAt (tileX t - 1) (tileY t))

def allDirs : List Dir := [.north, .east, .south, .west]

/-- The neighbours of a tile. -/
def tilesBeside (t : TileId) : List TileId := allDirs.filterMap (tileBeside t)

/-- The direction of a neighbour. -/
def dirTo (t x : TileId) : Option Dir := allDirs.find? fun d => tileBeside t d == some x

/-- Do two tiles share a group, which is two tiles wide and high? -/
def sameGroup (t x : TileId) : Bool := tileX t / 2 == tileX x / 2 && tileY t / 2 == tileY x / 2

/-- COREID of a core (R19). -/
def coreid (k : CoreId) : Word := BitVec.ofNat 64 (tcore k * 2048 + coreY k / 16 * 1024 + k.toNat)

/-! Cores and tiles. -/

def coreOf (s : State) (k : CoreId) : Core :=
  if k = s.cur then s.core else (SMap.get? s.others k.toNat).getD Core.reset

def setCore (s : State) (k : CoreId) (c : Core) : State :=
  if k = s.cur then { s with core := c } else { s with others := SMap.put s.others k.toNat c }

def modCore (s : State) (k : CoreId) (f : Core → Core) : State := setCore s k (f (coreOf s k))

def tileOf (s : State) (t : TileId) : Tile := (SMap.get? s.tiles t.toNat).getD Tile.reset

def setTile (s : State) (t : TileId) (x : Tile) : State := { s with tiles := SMap.put s.tiles t.toNat x }

def modTile (s : State) (t : TileId) (f : Tile → Tile) : State := setTile s t (f (tileOf s t))

/-- The tile of the core that steps. -/
def myTile (s : State) : TileId := tileOfCore s.cur

/-- Another core and context step next. -/
def focus (s : State) (k : CoreId) (h : CtxKind) : State :=
  if k = s.cur then { s with kind := h }
  else { s with cur := k, kind := h, core := coreOf s k, others := SMap.put (SMap.del s.others k.toNat) s.cur.toNat s.core }

/-! Contexts and their registers (R11). -/

def Core.ctx (c : Core) : CtxKind → Ctx
  | .task => c.task
  | .handler => c.hand

def Core.setCtx (c : Core) (h : CtxKind) (x : Ctx) : Core :=
  match h with
  | .task => { c with task := x }
  | .handler => { c with hand := x }

def Core.modCtx (c : Core) (h : CtxKind) (f : Ctx → Ctx) : Core := c.setCtx h (f (c.ctx h))

/-- The context that steps. -/
def cx (s : State) : Ctx := s.core.ctx s.kind

def setCx (s : State) (x : Ctx) : State := { s with core := s.core.setCtx s.kind x }

/-- A scalar register: s0 reads zero (R11, R39). -/
def Ctx.getS (c : Ctx) (i : Nat) : Word := if i = 0 then 0 else vget c.s i 0

/-- A scalar register written: a write to s0 is discarded (R11, R39). -/
def Ctx.putS (c : Ctx) (i : Nat) (x : Word) : Ctx := if i = 0 then c else { c with s := vset c.s i x }

def getS (s : State) (i : Nat) : Word := (cx s).getS i
def putS (s : State) (i : Nat) (x : Word) : State := setCx s ((cx s).putS i x)
def getV (s : State) (i : Nat) : Vec := vget (cx s).v i 0
def putV (s : State) (i : Nat) (x : Vec) : State := setCx s { cx s with v := vset (cx s).v i x }
def getM (s : State) (i : Nat) : Word := vget (cx s).m i 0
def putM (s : State) (i : Nat) (x : Word) : State := setCx s { cx s with m := vset (cx s).m i x }

/-! STATUS (R17) and time (R20). -/

def Ctx.prv (c : Ctx) : Bool := bit c.status 4
def Ctx.pprv (c : Ctx) : Bool := bit c.status 5
def Ctx.ie (c : Ctx) : Bool := bit c.status 8
def Ctx.pie (c : Ctx) : Bool := bit c.status 9
def Ctx.nest (c : Ctx) : Bool := bit c.status 10

/-- The five stored fields of STATUS. -/
def mkStatus (nest pie ie pprv prv : Bool) : Word :=
  BitVec.ofNat 64 (nest.toNat * 1024 + pie.toNat * 512 + ie.toNat * 256 + pprv.toNat * 32 + prv.toNat * 16)

/-- CYCLE of a core: ck since it left reset (R19, R20). -/
def cycleOf (s : State) (c : Core) : Word := BitVec.ofNat 64 (s.ck - c.ckBase)

/-- STATUS.TP (R17). -/
def timerPending (s : State) (c : Core) : Bool := decide (c.timecmp ≤ cycleOf s c)

/-- The number of the RUNNING slot (R152). -/
def Core.running (c : Core) : Option Nat := (upto 64).find? (fun j => (vget c.slots j Slot.reset).st = .running)

/-- The tag of the RUNNING slot, 0xffff for none. -/
def Core.runTag (c : Core) (k : CoreId) : BitVec 16 :=
  match c.running with
  | some j => tagOf k j
  | none => 0xffff

/-- The tag under which a context acts: its RUNNING task, or the owner of the activation (R276). -/
def actTag (s : State) : BitVec 16 :=
  match s.kind with
  | .task => s.core.runTag s.cur
  | .handler =>
    match s.core.act with
    | some a => a.entry.owner.getD 0xffff
    | none => 0xffff

/-! Exceptions of an instruction, and the two ways it can fail to complete. -/

/-- A synchronous cause (R21, R335) with its EVAL; `acc` is FAULTX.KIND of a translation fault, and
`sealv` what an unbound leaf writes to SEALERR (R33). -/
structure Exc where
  code : BitVec 8
  eval : Word
  acc : Nat := 0
  sealv : Word := 0
deriving DecidableEq, Repr

/-- Why an instruction does not complete: it blocks without having issued (R141), it has issued and waits for the fill of a
region (R212, R260), or it faults. -/
inductive Stop where
  | block
  | hold
  | exc (e : Exc)
deriving DecidableEq, Repr

/-- The result of a part of an instruction. -/
abbrev Res (α : Type) := Except Stop α

/-- The part ends in a fault. -/
def exc {α : Type} (code : BitVec 8) (eval : Word) : Res α := .error (.exc { code := code, eval := eval })

/-- Fault unless a condition holds. -/
def need (p : Bool) (code : BitVec 8) (eval : Word) : Res Unit := if p then .ok () else exc code eval

/-- Block unless a condition holds (R141). -/
def waitFor (p : Bool) : Res Unit := if p then .ok () else .error .block

/-- Wait as an issued instruction unless a condition holds (R260). -/
def holdFor (p : Bool) : Res Unit := if p then .ok () else .error .hold

end Sys2Proof.Machine
end

