-- ==== Sys2Proof/Machine/Leaf.lean ====
section
/-!
DEFINITION. What a core finds at a code address: translation (R347 to R349), page integrity (R352), the image a fetch executes
(R32, R215, R230, R247) and its checks (R28 to R31), and the validity of a target (R14, R24, R44).
-/
namespace Sys2Proof.Machine

/-! Targets (R14). -/

/-- The slot a code address names (R14). -/
def slotOf (a : Word) : Nat := fld a 1 5
/-- The leaf a code address names. -/
def leafOf (a : Word) : Word := a &&& 0xffffffffffffffc0
/-- Step 1 of R44: even, and a slot other than 0 and 31. -/
def targetOk (a : Word) : Bool := !bit a 0 && slotOf a != 0 && slotOf a != 31

/-- Is an address canonical for the context's table format (R349)? -/
def canonical (walk : BitVec 2) (va : Word) : Bool :=
  match walk.toNat with
  | 1 => ((va.setWidth 48).signExtend 64 : Word) == va
  | 2 => ((va.setWidth 57).signExtend 64 : Word) == va
  | _ => true

def walkOf (s : State) (ctx : CtxNum) : BitVec 2 :=
  match SMap.get? s.lds.ctxs ctx.toNat with
  | some d => d.walk
  | none => 0

/-! Translation. -/

/-- Kinds of access, in the order of FAULTX.KIND (R343). -/
inductive Acc where
  | r | w | x | rw
deriving DecidableEq, Repr

def Acc.kind : Acc → Nat
  | .r => 0 | .w => 1 | .x => 2 | .rw => 3

def Xlat.covers (x : Xlat) (ctx : CtxNum) (va : Nat) : Bool :=
  x.ctx == ctx && decide (x.va ≤ va) && decide (va < x.va + 4096 * 2 ^ x.lg)

/-- A page both writable and executable is not executable (R249). -/
def Xlat.allows (x : Xlat) : Acc → Bool
  | .r => x.r
  | .w => x.w
  | .x => x.x && !x.w
  | .rw => x.r && x.w

/-- A walk of RISC-V tables (R348): the leaf entry and its level, `n` levels left (log 11). -/
def walkGo (m : Mem) (va : Nat) : Nat → Nat → Option (Nat × Nat)
  | 0, _ => none
  | n + 1, base =>
    let pte := ofLe (Mem.read m (base + 8 * ((va >>> (12 + 9 * n)) % 512)) 8)
    let ppn := (pte >>> 10) % 2 ^ 44
    if !pte.testBit 0 || (pte.testBit 2 && !pte.testBit 1) then none
    else if pte.testBit 1 || pte.testBit 3 then
      if ppn % 2 ^ (9 * n) = 0 then some (pte, n) else none
    else walkGo m va n (ppn * 4096)

/-- The entry a direct walk gives; A = 0, or D = 0 for a write, is a missing translation, and the entry grants writes only
with D = 1 (R348). A page mapped writable is not executable, whatever D is (R249). A leaf larger than 1 GiB is kept as 1 GiB
(R347). -/
def walk (s : State) (d : CtxDesc) (ctx : CtxNum) (va : Nat) (acc : Acc) : Option Xlat :=
  let levels := if d.walk = 1 then 4 else 5
  if !canonical d.walk (BitVec.ofNat 64 va) then none
  else
    match walkGo s.pmem va levels (d.root * 4096) with
    | none => none
    | some (pte, lv) =>
      let wr := acc == .w || acc == .rw
      if !pte.testBit 4 || !pte.testBit 6 || (wr && !pte.testBit 7) then none
      else
        let lg := min (9 * lv) 18
        let base := ((pte >>> 10) % 2 ^ 44) * 4096
        let size := 4096 * 2 ^ lg
        let off := va % (4096 * 2 ^ (9 * lv)) / size * size
        some ⟨ctx, va / size * size, base + off, lg, pte.testBit 1, pte.testBit 2 && pte.testBit 7, pte.testBit 3 && !pte.testBit 2⟩

/-- The size in which a host page is cached: the largest that R347 allows for its length and alignment. -/
def entryLg (va pa lg : Nat) : Nat :=
  ([18, 9, 7, 6, 5, 4, 3, 2, 1].find? fun l => decide (l ≤ lg) && va % (4096 * 2 ^ l) == 0 && pa % (4096 * 2 ^ l) == 0).getD 0

/-- What the host answers to an ATS request (R348): the host's own tables stand in `tsu.host`. Context 0
has no PASID and stands as PASID 0 (log 11). -/
def ats (s : State) (ctx : CtxNum) (va : Nat) : Option Xlat :=
  let pasid := ((SMap.get? s.lds.ctxs ctx.toNat).map (·.pasid)).getD 0
  match s.tsu.host.find? (fun h => h.pasid == pasid && decide (h.va.toNat ≤ va) && decide (va < h.va.toNat + 4096 * 2 ^ h.lg.toNat)) with
  | some h =>
    let lg := entryLg h.va.toNat h.pa.toNat h.lg.toNat
    let d := (va - h.va.toNat) / (4096 * 2 ^ lg) * (4096 * 2 ^ lg)
    some ⟨ctx, h.va.toNat + d, h.pa.toNat + d, lg, h.r, h.w, h.x⟩
  | none => none

/-- The translation that the TSU obtains (R348). -/
def tsuXlat (s : State) (ctx : CtxNum) (va : Nat) (acc : Acc) : Option Xlat :=
  match SMap.get? s.lds.ctxs ctx.toNat with
  | some d => if d.walk = 0 then ats s ctx va else walk s d ctx va acc
  | none => ats s ctx va

/-- The outcome of a translation: a physical address, or why there is none (R349). -/
inductive Trans where
  | ok (pa : Nat)
  | missing
  | denied
deriving DecidableEq, Repr

/-- Translation through cached entries, nearest first, then through the TSU. -/
def translate (s : State) (near : List Xlat) (ctx : CtxNum) (va : Nat) (acc : Acc) : Trans :=
  let cached := near ++ s.tsu.cache
  match cached.find? (fun x => x.covers ctx va && x.allows acc) with
  | some x => .ok (x.pa + (va - x.va))
  | none =>
    match tsuXlat s ctx va acc with
    | some x => if x.allows acc then .ok (x.pa + (va - x.va)) else .denied
    | none => if walkOf s ctx = 0 && cached.any (fun x => x.covers ctx va) then .denied else .missing

/-- The cached entries of a core and of its tile (R347). -/
def nearOf (s : State) (k : CoreId) : List Xlat := (coreOf s k).utlb ++ (tileOf s (tileOfCore k)).tlb

def xfault {α : Type} (code : BitVec 8) (va : Nat) (acc : Acc) : Res α :=
  .error (.exc { code := code, eval := BitVec.ofNat 64 va, acc := acc.kind })

/-! Lines, as far as a read can see them (R226 to R230). -/

/-- Bytes of the HDM range: the populated capacity less the owner table (R391, R393). -/
def hdmSize (s : State) : Nat := s.mgmt.memGib * 2 ^ 30 - s.mgmt.memGib * 2 ^ 30 / 2048

/-- Is a physical address device memory? Every other address is host-homed (R226 to R228). -/
def isDevMem (s : State) (pa : Nat) : Bool :=
  decide (s.mgmt.hdmBase ≤ pa) && decide (pa < s.mgmt.hdmBase + hdmSize s)

/-- A line wholly at home: every token at the slice; halves of device memory E, of host memory I. -/
def lineHome (dev : Bool) : LineSt where
  hold := []
  owner := none
  dirty := false
  dir := .exact []
  h0 := if dev then .e else .i
  h1 := if dev then .e else .i
  valid := []
  way := none
  flight := []
  retries := []
  active := none
  waiting := []
  lastReq := 0
  asked := []

def lineOf (s : State) (l : Nat) : LineSt := (SMap.get? s.coh.lines l).getD (lineHome (isDevMem s (l * 128)))

/-- The state of a half of a line. -/
def LineSt.half (x : LineSt) (hi : Bool) : HalfSt := if hi then x.h1 else x.h0

/-- Is the link to the host up: before step 7 of bring-up, and in recovery, no access of the host reaches the machine (R423, R430)? -/
def hostUp (s : State) : Bool := s.mgmt.boot == .running && s.mgmt.linkUp

/-- Is either chunk of a half poisoned (R230)? -/
def halfPoisoned (s : State) (l : Nat) (hi : Bool) : Bool :=
  s.poison.contains (4 * l + 2 * hi.toNat) || s.poison.contains (4 * l + 2 * hi.toNat + 1)

/-- Is chunk c poisoned as an access of the device finds it: by itself, or by the other chunk of a half that has yet to come from the
host, which sends it poisoned (R230)? -/
def chunkBad (s : State) (c : Nat) : Bool :=
  s.poison.contains c || (s.poison.contains (c + 1 - 2 * (c % 2)) && (lineOf s (c / 4)).half (c / 2 % 2 == 1) == .i)

/-- The first poisoned byte of [pa, pa + n), as its distance from pa. -/
def poisonIn (s : State) (pa n : Nat) : Option Nat := (upto n).find? (fun i => chunkBad s ((pa + i) / 32))

/-! Leaves (R28 to R31). -/

/-- Halfword n of a leaf image. -/
def leafSlot (im : Vec) (n : Nat) : Half := im.extractLsb' (16 * n) 16

/-- h and t of the header (R28). -/
def leafH (im : Vec) : Nat := fld (leafSlot im 0) 0 5
def leafT (im : Vec) : Nat := fld (leafSlot im 0) 5 5

/-- The sum of the L fields of heads 1 to n. -/
def sumL (im : Vec) : Nat → Nat
  | 0 => 0
  | n + 1 => sumL im n + (headL (leafSlot im (n + 1))).toNat

/-- The CRC of bytes 0 to 61 (R29). -/
def leafCrc (im : Vec) : Nat := crc16 (leBytes 62 im.toNat)

/-- The first check of R30 that an image fails, 0 for a bound image (R33). -/
def leafReason (im : Vec) : Nat :=
  let h := leafH im
  let t := leafT im
  if (leafSlot im 31).toNat ≠ leafCrc im then 1
  else if h = 0 ∨ 29 < h then 2
  else if 30 < h + t then 3
  else if t ≠ sumL im h then 4
  else 0

/-- The tails of the head in slot n, first consumed first (R31). -/
def tailsOf (im : Vec) (n : Nat) : List Half :=
  let p := sumL im (n - 1)
  (upto (headL (leafSlot im n)).toNat).map (fun j => leafSlot im (30 - p - j))

/-- SEALERR for an unbound image (R33). -/
def sealErr (im : Vec) : Word :=
  BitVec.ofNat 64 (leafReason im * 2 ^ 32 + leafCrc im * 2 ^ 16 + (leafSlot im 31).toNat)

/-- 64 bytes as a leaf image. -/
def imageOf (bs : List Byte) : Vec := BitVec.ofNat 512 (ofLe bs)

/-! Page integrity (R352). -/

/-- The manifest hash of a page of a context's gathering. -/
def pageHash (s : State) (ctx : CtxNum) (page : Nat) : Option (BitVec 512) :=
  s.lds.folios.findSome? (fun f =>
    if f.ctx = ctx ∧ f.gbase.toNat ≤ page ∧ page < f.gbase.toNat + 4096 * f.hashes.length
    then f.hashes[(page - f.gbase.toNat) / 4096]? else none)

/-- The recorded result of a page's check. -/
def hashResult (s : State) (ctx : CtxNum) (page : Nat) : Option Bool :=
  (s.tsu.hashed.find? (fun x => x.1 == ctx && x.2.1 == page)).map (·.2.2)

/-- May a page be executed: it lies outside every gathering, or it has matched (R352)? -/
def pageOk (s : State) (ctx : CtxNum) (page pa : Nat) : Bool :=
  match hashResult s ctx page with
  | some b => b
  | none =>
    match pageHash s ctx page with
    | none => true
    | some h => Config.sha512 (Mem.read s.pmem (pa / 4096 * 4096) 4096) == h

/-! Fills (R32, R215, R247). -/

/-- An installed leaf of a core. -/
def installed (c : Core) (ctx : CtxNum) (leaf : Word) (pa : Nat) : Option Leaf :=
  c.icache.find? (fun l => l.ctx == ctx && l.va == leaf && l.pa == pa)

/-- The image a fetch of a leaf executes, with whether memory supplied it. An unordered fetch of a leaf
that memory has changed since may observe memory instead (R247; log 7). -/
def imageAt (s : State) (k : CoreId) (ctx : CtxNum) (leaf : Word) (pa : Nat) : Vec × Bool :=
  let mem := imageOf (Mem.read s.pmem pa 64)
  match installed (coreOf s k) ctx leaf pa with
  | some l => if l.image = mem then (mem, false) else if Config.refill s.fresh then (mem, true) else (l.image, false)
  | none => (mem, true)

/-- A leaf ready for issue: its image, where it lies and whether it must be installed. -/
structure Fetched where
  image : Vec
  pa : Nat
  fill : Bool
deriving DecidableEq, Repr

/-- Fetch by core k of the leaf that holds address `a`: translation, integrity, poison, seal (R22, R32). -/
def leafAt (s : State) (k : CoreId) (a : Word) : Res Fetched :=
  let ctx := (coreOf s k).ctxnum
  let leaf := leafOf a
  match translate s (nearOf s k) ctx leaf.toNat .x with
  | .missing | .denied => xfault 0x06 a.toNat .x
  | .ok pa =>
    let page := leaf.toNat / 4096 * 4096
    if !pageOk s ctx page pa then exc 0x05 (BitVec.ofNat 64 page)
    else
      let (im, fill) := imageAt s k ctx leaf pa
      match if fill then poisonIn s pa 64 else none with
      | some j => exc 0x1b (leaf + BitVec.ofNat 64 j)
      | none =>
        if leafReason im = 0 then .ok ⟨im, pa, fill⟩
        else .error (.exc { code := 0x04, eval := leaf, sealv := sealErr im })

/-- Is TVEC a valid target under R14, so far as its leaf can be fetched (R24)? -/
def tvecOk (s : State) (k : CoreId) : Bool :=
  let v := (coreOf s k).tvec
  targetOk v && (match leafAt s k v with
    | .ok f => decide (slotOf v ≤ leafH f.image)
    | .error _ => true)

/-- Does a trap of core k enter, or end as a double fault (R23, R24)? -/
def trapEnters (s : State) (k : CoreId) (async : Bool) : Bool := !((coreOf s k).task.nest && !async) && tvecOk s k

end Sys2Proof.Machine
end

