-- ==== Sys2Proof/Machine/Ops.lean ====
section
/-!
DEFINITION. The named operations on the machine: records and events, task death, taking an exception and returning from one
(R22 to R25, R335 to R346, R356).
-/
namespace Sys2Proof.Machine

/-! Records (R356), events (R336, R337) and notices (R346). -/

def mkRec (kind : Nat) (code : BitVec 8) (ctx : CtxNum) (tag : BitVec 16) (agent : Nat) (d1 d2 : Word) : Rec :=
  ⟨BitVec.ofNat 64 (kind * 2 ^ 56 + code.toNat * 2 ^ 48 + ctx.toNat * 2 ^ 38 + tag.toNat * 2 ^ 16 + agent), d1, d2⟩

/-- A record sent to the EVA. -/
def sendRec (s : State) (r : Rec) : State := { s with eva := { s.eva with inbox := s.eva.inbox ++ [r] } }

/-- A record of a core's own agent, on behalf of a task. -/
def coreRec (s : State) (k : CoreId) (kind : Nat) (code : BitVec 8) (tag : BitVec 16) (d1 d2 : Word) : State :=
  sendRec s (mkRec kind code (coreOf s k).ctxnum tag k.toNat d1 d2)

/-- An event queued at a core, or its KIND 8 record when the queue is full (R337). -/
def pushEvent (s : State) (k : CoreId) (code : BitVec 8) (eval : Word) : State :=
  let c := coreOf s k
  if c.eventQ.length < 32 then setCore s k { c with eventQ := c.eventQ ++ [⟨code, eval⟩] }
  else coreRec s k 8 code (c.runTag k) eval 0

/-- A packet into the network. -/
def sendPkt (s : State) (p : Packet) : State := { s with net := s.net ++ [p] }

/-- A packet from the core that steps. -/
def sendFrom (s : State) (dst : CoreId) (b : Body) : State :=
  sendPkt s { src := s.cur, dst := dst, tag := actTag s, ctx := s.core.ctxnum, body := b }

/-- A packet of the device on behalf of a core. -/
def sendAs (s : State) (src dst : CoreId) (tag : BitVec 16) (b : Body) : State :=
  sendPkt s { src := src, dst := dst, tag := tag, ctx := (coreOf s src).ctxnum, body := b }

/-- The notice word (R346). -/
def noticeWord (tag : BitVec 16) (kind : Nat) (code : BitVec 8) (tid : BitVec 16) (parent : BitVec 16) : Word :=
  BitVec.ofNat 64 (tag.toNat * 2 ^ 48 + kind * 2 ^ 40 + code.toNat * 2 ^ 32 + tid.toNat * 2 ^ 16 + parent.toNat)

/-- The partition of a tile (R434). -/
def partOf (s : State) (t : TileId) : Rect :=
  (tileOf s t).part.getD ⟨tileX t, tileY t, 1, 1⟩

def Rect.has (r : Rect) (t : TileId) : Bool :=
  decide (r.tx0 ≤ tileX t) && decide (tileX t < r.tx0 + r.w) && decide (r.ty0 ≤ tileY t) && decide (tileY t < r.ty0 + r.h)

/-- The tiles of a rectangle, row by row. -/
def Rect.tiles (r : Rect) : List TileId :=
  ((upto r.h).map (fun j => (upto r.w).map (fun i => tileAt (r.tx0 + i) (r.ty0 + j)))).flatten

/-- Does a core lie in the partition of another (R434)? -/
def inPart (s : State) (me k : CoreId) : Bool := (partOf s (tileOfCore me)).has (tileOfCore k)

/-- Is a tile dark: declared so anywhere, or its keeper has left LIT and ADMIT (R363, R368)? -/
def isDark (s : State) (t : TileId) : Bool :=
  (tileOf s t).dark || (match (tileOf s t).keeper.state with
  | .lit | .admitting => false
  | _ => true)

/-- A tile that works and takes launches (R368). -/
def isLit (s : State) (t : TileId) : Bool := !(tileOf s t).dark && (tileOf s t).keeper.state == .lit

/-- Is the path between two tiles shut: by the port of either on the neighbour link that joins them, else by the port of either
on the group butterfly or on the supergroup router (R363, R365, R366)? -/
def portShut (s : State) (t x : TileId) : Bool :=
  let a := tileOf s t
  let b := tileOf s x
  if t = x then false
  else match dirTo t x with
    | some d => a.keeper.closed.get d || b.keeper.closed.get (dirOpp d)
    | none => if sameGroup t x then a.shadow.bfly || b.shadow.bfly else a.shadow.router || b.shadow.router

/-- The path between the tiles of two cores. -/
def coreShut (s : State) (a b : CoreId) : Bool := portShut s (tileOfCore a) (tileOfCore b)

/-- The shadow's mirror follows a slot: `none` when it is FREE (R367). -/
def mirrorSlot (s : State) (k : CoreId) (j : Nat) (parent : Option (BitVec 16)) : State :=
  modTile s (tileOfCore k) fun t => { t with mirror := match parent with
    | some p => SMap.put t.mirror (tagOf k j).toNat p
    | none => SMap.del t.mirror (tagOf k j).toNat }

/-- The parent of a task: of one on a dark tile, as the mirror has it (R367). -/
def parentIn (s : State) (k : CoreId) (j : Nat) (sl : Slot) : BitVec 16 :=
  if isDark s (tileOfCore k) then (SMap.get? (tileOf s (tileOfCore k)).mirror (tagOf k j).toNat).getD sl.parent else sl.parent

/-- A notice sent: its record, then its delivery to the parent's core, or to the LDS when the parent
is 0xffff and the task is the root task of user queue `q` (R346, R403). -/
def sendNotice (s : State) (k : CoreId) (w : Word) (q : Option Nat) : State :=
  let nk := fld w 40 8
  let kind := if nk = 1 then 3 else 2
  let s := coreRec s k kind (BitVec.ofNat 8 (fld w 32 8)) (BitVec.ofNat 16 (fld w 48 16)) w
    (if nk = 1 then BitVec.ofNat 64 (fld w 16 16) else 0)
  let parent := BitVec.ofNat 16 (fld w 0 16)
  if parent = 0xffff then
    match q with
    | some i => { s with lds := { s.lds with notices := s.lds.notices ++ [(i, w)] } }
    | none => s
  else if inPart s k (tagCore parent) && !isDark s (tileOfCore (tagCore parent)) then
    sendAs s k (tagCore parent) 0xffff (.notice w)
  else s

/-! Task death (R345). -/

/-- The header a packet shows, for purges by tag (R149). -/
def Packet.purgeable (p : Packet) : Bool :=
  match p.body with
  | .launch _ | .active .. | .arrival _ | .stream .. => true
  | _ => false

/-- A stream entry freed with its buffer discarded: the credits that return to its sender (R181). An
end-of-stream activation that already waits stays due (R164). -/
def freeStream (s : State) (k : CoreId) (e : Nat) : State :=
  let c := coreOf s k
  let ent := vget c.streams e StreamEnt.reset
  let src := coreAt (fld ent.word 18 5) (fld ent.word 23 5)
  let s := setCore s k { c with streams := vset c.streams e ⟨setBit ent.word 0 false, [], ent.eos⟩ }
  ent.buf.foldl (fun s w => sendAs s k src 0xffff (.credit k (BitVec.ofNat 4 e) (bit w.1 26))) s

/-- Stream entries of a task freed (R188, R345). -/
def freeStreams (s : State) (k : CoreId) (tag : BitVec 16) : State :=
  (upto 8).foldl (fun s e =>
    let ent := vget (coreOf s k).streams e StreamEnt.reset
    if bit ent.word 0 && decide (fld ent.word 48 16 = tag.toNat) then freeStream s k e else s) s

/-- Completion entries of a task removed; failures among them go to the parent as orphans (R188, R345). -/
def dropCompletions (s : State) (k : CoreId) (tag : BitVec 16) (parent : BitVec 16) : State :=
  let c := coreOf s k
  let mine := c.compQ.filter (fun e => e.tag == tag)
  let s := setCore s k { c with compQ := c.compQ.filter (fun e => e.tag != tag) }
  mine.foldl (fun s e => if e.err = 0 then s else sendNotice s k (noticeWord tag 1 e.err e.tid parent) none) s

/-- The engine commands of a task that has ended have no live owner (R276, R287). -/
def orphan (tag : BitVec 16) (c : Cmd) : Cmd := if c.owner = tag then { c with live := false } else c

def orphanTile (tag : BitVec 16) (t : Tile) : Tile := { t with mve := t.mve.map (orphan tag), cve := t.cve.map (orphan tag) }

def orphanCore (tag : BitVec 16) (c : Core) : Core :=
  { c with activeQ := c.activeQ.map fun a => match a with
      | .copyx x => .copyx (orphan tag x)
      | a => a }

def orphanPkt (tag : BitVec 16) (p : Packet) : Packet :=
  { p with body := match p.body with
      | .copyx x => .copyx (orphan tag x)
      | b => b }

def orphanCmds (s : State) (tag : BitVec 16) : State :=
  { s with
    tiles := s.tiles.map fun x => (x.1, orphanTile tag x.2)
    core := orphanCore tag s.core
    others := s.others.map fun x => (x.1, orphanCore tag x.2)
    net := s.net.map (orphanPkt tag) }

/-- The posted stores of a task that has died, or of a handler whose owner has ended: a refusal of one goes to the EVA only (R345
step 2). -/
def deadStores (tag : BitVec 16) (c : Core) : Core :=
  { c with journal := c.journal.map fun e => e.map fun e => if e.tag = tag then { e with live := false } else e }

/-- The slot of a core at a state, run time counted (R418). -/
def Core.setSlot (c : Core) (j : Nat) (x : Slot) : Core := { c with slots := vset c.slots j x }

/-- Dword 1 of an accounting record: ck waited for the first RQTAKE, and ck run, `more` of them not yet counted (R418). -/
def acctWord (sl : Slot) (more : Nat) : Word :=
  BitVec.ofNat 64 (min (sl.takeCk - sl.accCk).toNat (2 ^ 32 - 1) * 2 ^ 32 + min (sl.runCk + more) (2 ^ 32 - 1))

/-- The accounting record of a task's end (R418). -/
def acctRec (s : State) (k : CoreId) (j : Nat) (cause : BitVec 8) : State :=
  let c := coreOf s k
  let sl := vget c.slots j Slot.reset
  if bit c.trctl 2 then
    coreRec s k 10 cause (tagOf k j) (acctWord sl (if sl.st = .running && !c.task.nest then s.ck - sl.runFrom else 0)) sl.entry
  else s

/-- The task in slot j of core k dies of `code` (R345 steps 1 and 4; steps 2 and 3 end with the purge). -/
def killTask (s : State) (k : CoreId) (j : Nat) (code : BitVec 8) (nkind : Nat) : State :=
  let c := coreOf s k
  let sl := vget c.slots j Slot.reset
  if sl.st = .free then s
  else
    let tag := tagOf k j
    let parent := parentIn s k j sl
    let w := noticeWord tag nkind code 0 parent
    let s := mirrorSlot (acctRec s k j 1) k j none
    let entering := decide (sl.st = .running) && !c.task.prv
    let s := setCore s k { (coreOf s k).setSlot j { vget (coreOf s k).slots j Slot.reset with st := .free, purging := true } with
      death := if entering then some w else (coreOf s k).death
      srchFrom := if sl.st = .running then s.ck else (coreOf s k).srchFrom }
    let s := freeStreams s k tag
    let s := orphanCmds (dropCompletions (modCore s k (deadStores tag)) k tag parent) tag
    sendNotice s k w sl.rootQ

/-! Taking an exception and returning from one (R23 to R25). -/

/-- A double fault (R24): the core stops for both contexts, and a record goes to the EVA. -/
def doubleFault (s : State) (k : CoreId) (code : BitVec 8) (v : Word) : State :=
  let c := coreOf s k
  let s := coreRec s k 4 code (c.runTag k) v c.task.epc
  modCore s k (fun c => { c with dead := true, task := { c.task with last := .trapped code } })

/-- The run time of the RUNNING slot is counted up to now, when the kernel is entered (R418). -/
def Core.runStop (c : Core) (ck : Nat) : Core :=
  match c.running with
  | some j =>
    let sl := vget c.slots j Slot.reset
    if c.task.nest then c else c.setSlot j { sl with runCk := sl.runCk + (ck - sl.runFrom), runFrom := ck }
  | none => c

/-- The run time of the RUNNING slot is counted from now, when the kernel is left (R418). -/
def Core.runStart (c : Core) (ck : Nat) : Core :=
  match c.running with
  | some j => c.setSlot j { vget c.slots j Slot.reset with runFrom := ck }
  | none => c

/-- trap_entry of R23 on the task context of core k. -/
def trapEntry (s : State) (k : CoreId) (code : BitVec 8) (async : Bool) (epc eval faultx : Word) : State :=
  let c := coreOf s k
  let t := c.task
  if t.nest && !async then doubleFault s k code eval
  else if !tvecOk s k then doubleFault s k 0x03 c.tvec
  else
    setCore s k { c.runStop s.ck with task := { t with
      epc := epc
      eval := eval
      cause := BitVec.ofNat 64 (async.toNat * 2 ^ 63 + code.toNat)
      status := mkStatus true t.ie false t.prv true
      faultx := faultx
      pc := c.tvec
      wait := .none
      takes := []
      pauseEnd := if async then 0 else t.pauseEnd
      last := .trapped code } }

/-- The activation of a core ends (R158, R191): the watchdog stops and the context becomes idle. -/
def endActivation (s : State) (k : CoreId) : State :=
  let c := coreOf s k
  match c.act with
  | none => s
  | some a =>
    let s := setCore s k { c with act := none, hand := { c.hand with wait := .none, takes := [], pauseEnd := 0 } }
    if a.mayReply then sendAs s k a.src 0xffff .resvRelease else s

/-- A synchronous cause, or an expired budget, in the handler context (R158, R335): the activation
ends and its owner dies. -/
def handlerFault (s : State) (k : CoreId) (code : BitVec 8) (eval : Word) : State :=
  let c := coreOf s k
  match c.act with
  | none => s
  | some a =>
    let tag := a.entry.owner.getD 0xffff
    let s := coreRec s k 1 code tag eval c.hand.pc
    let s := endActivation s k
    let s := modCore s k (fun c => c.modCtx .handler (fun x => { x with last := .trapped code }))
    match a.entry.owner with
    | none => s
    | some t => killTask s (tagCore t) (tagSlot t) code 0

/-- Causes with outcome Kill (R335). -/
def isKill (code : BitVec 8) : Bool := code == 0x05

/-- The page request of a translation fault (R349). -/
def sendPageReq (s : State) (k : CoreId) (va : Word) (engine perm : Bool) (tag : BitVec 16) (ctx : CtxNum) : State × BitVec 16 :=
  let r : PageReq := ⟨s.tsu.nextPtag, k, tag, ctx, va, engine, perm, (tileOf s (tileOfCore k)).holder⟩
  ({ s with tsu := { s.tsu with reqs := s.tsu.reqs ++ [r], nextPtag := s.tsu.nextPtag + 1 },
            hostOut := s.hostOut ++ [.pageReq r] }, r.ptag)

/-- A synchronous cause of the context that steps, its EPC given (R22, R158, R335). Consumed poison and the refusal
of a closed port leave their records here (R356, R365). -/
def raiseAt (s : State) (e : Exc) (epc : Word) : State :=
  let k := s.cur
  let tag := actTag s
  let s := if e.code = 0x1b then coreRec s k 5 0x1b tag e.eval epc else s
  let s := if e.code = 0x1a && fld e.eval 36 4 == 3 then coreRec s k 1 0x1a tag e.eval 0 else s
  let s := if e.code = 0x04 ∧ s.kind = .task ∧ trapEnters s k false = true then setCx s { cx s with sealerr := e.sealv } else s
  let isX := e.code == 0x06 || e.code == 0x07 || e.code == 0x0d
  let canon := canonical (walkOf s s.core.ctxnum) e.eval
  let (s, fx) :=
    if isX then
      if canon then
        let (s, p) := sendPageReq s k e.eval false (e.code == 0x0d) tag s.core.ctxnum
        (s, (BitVec.ofNat 64 (2 ^ 31 + e.acc * 2 ^ 29 + p.toNat) : Word))
      else (s, BitVec.ofNat 64 (e.acc * 2 ^ 29))
    else (s, 0)
  match s.kind with
  | .handler => handlerFault s k e.code e.eval
  | .task =>
    match isKill e.code && !s.core.task.prv, s.core.running with
    | true, some j =>
      let s := coreRec s k 1 e.code tag e.eval epc
      killTask (setCx s { cx s with last := .trapped e.code, wait := .none }) k j e.code 0
    | _, _ => trapEntry s k e.code false epc e.eval fx

/-- A synchronous cause with EPC at the instruction itself. -/
def raise (s : State) (e : Exc) : State := raiseAt s e (cx s).pc

/-- return_sequence of R25 on the context that steps. -/
def returnSeq (s : State) : State :=
  let c := cx s
  let s := { s with core := (s.core.runStop s.ck).runStart s.ck }
  setCx s { c with status := mkStatus false c.pie c.pie c.pprv c.pprv, pc := c.epc, last := .retired }

/-! How an instruction ends. -/

/-- The instruction completes and its sequential successor follows (R15). -/
def retire (s : State) : State := setCx s { cx s with pc := (cx s).succ, last := .retired, wait := .none }

/-- The instruction completes and `t` follows. -/
def retireTo (s : State) (t : Word) : State := setCx s { cx s with pc := t, last := .retired, wait := .none }

/-- The instruction has not issued (R141). -/
def blocked (s : State) : State := setCx s { cx s with last := .blocked }

/-- The instruction waits (R141, R260). -/
def waiting (s : State) (w : Wait) : State := setCx s { cx s with wait := w, last := .blocked }

/-- The instruction waits, and takes its sources when it completes (R42): a fault that ends the wait takes nothing. -/
def waitingFor (s : State) (w : Wait) (ts : List Take) : State :=
  setCx s { cx s with wait := w, takes := ts, last := .blocked }

/-- The wait ends without its instruction. -/
def endWait (s : State) : State := setCx s { cx s with wait := .none, takes := [] }

/-- The outcome of an access whose parts have given `r` in state `s`; one that has issued and waits for a fill takes the
sources `ts` when it completes (R42, R212). -/
def finishAt (s : State) (ts : List Take) (r : Res State) : Host.Outcome State Fault Refusal :=
  match r with
  | .ok s' => .next s'
  | .error .block => .next (blocked s)
  | .error .hold => .next (waitingFor s .fill ts)
  | .error (.exc e) => .next (raise s e)

/-- The outcome of an instruction that its sequential successor follows. -/
def finish (s : State) (r : Res State) : Host.Outcome State Fault Refusal :=
  match r with
  | .ok s' => .next (retire s')
  | .error .block => .next (blocked s)
  | .error .hold => .next (waiting s .fill)
  | .error (.exc e) => .next (raise s e)

/-- As `finish`, for an instruction that sets its own continuation. -/
def finishTo (s : State) (r : Res State) : Host.Outcome State Fault Refusal :=
  match r with
  | .ok s' => .next s'
  | .error .block => .next (blocked s)
  | .error .hold => .next (waiting s .fill)
  | .error (.exc e) => .next (raise s e)

/-- The illegal-instruction trap of the instruction in issue (R38). -/
def illegal {α : Type} (s : State) : Res α := exc 0x01 (cx s).raw

/-- Is the context in user mode (R13, R156)? -/
def userMode (s : State) : Bool :=
  match s.kind with
  | .task => !s.core.task.prv
  | .handler => true

end Sys2Proof.Machine
end

