-- ==== Sys2Proof/Machine/Operands.lean ====
section
/-!
DEFINITION. Operand specifiers: which values are legal, who may use a queue, a link or a feed, and how each is
read and written (R39 to R42, R52, R78, R135 to R139, R161). A part of an instruction works on the state that
the parts before it left; when one of them blocks or faults, the instruction has done nothing.
-/
namespace Sys2Proof.Machine

/-- The roles a specifier field has in a form (R39, R40, R52, R78, R255). -/
inductive Use where
  | srcS (f : Spec)
  | dstS (f : Spec)
  /-- Field A read, or read and written, where queues and links are excluded. -/
  | regS (f : Spec)
  | srcV (f : Spec)
  | dstV (f : Spec)
  | pred (f : Spec)
  | view (f : Spec)
deriving DecidableEq, Repr

def Use.field : Use → Spec
  | .srcS f | .dstS f | .regS f | .srcV f | .dstV f | .pred f | .view f => f

/-- Is the value one the class holds? -/
def Use.legal : Use → Bool
  | .srcS f | .dstS f => decide (f.toNat < 44)
  | .regS f => decide (f.toNat < 32)
  | .srcV f => decide (f.toNat < 36)
  | .dstV f => decide (f.toNat < 32)
  | .pred f | .view f => decide (f.toNat < 8)

/-- The illegal-operand-specifier trap for the first illegal field (R40). -/
def checkUses : List Use → Res Unit
  | [] => .ok ()
  | u :: r => if u.legal then checkUses r else exc 0x02 (u.field.setWidth 64)

/-! Links (R137 to R139). -/

/-- The direction of a link specifier 40 to 43. -/
def linkDir (f : Nat) : Dir :=
  match f with
  | 40 => .north
  | 41 => .east
  | 42 => .south
  | _ => .west

/-- The core beside another, none at the grid edge (R137). -/
def neighbour (k : CoreId) : Dir → Option CoreId
  | .north => if coreY k = 0 then none else some (coreAt (coreX k) (coreY k - 1))
  | .south => if coreY k = 31 then none else some (coreAt (coreX k) (coreY k + 1))
  | .east => if coreX k = 31 then none else some (coreAt (coreX k + 1) (coreY k))
  | .west => if coreX k = 0 then none else some (coreAt (coreX k - 1) (coreY k))

/-- The reason a link cannot be used (R139); a neighbour outside the partition counts so though it be dark (log 61). -/
def linkReason (s : State) (k : CoreId) (d : Dir) : Option Nat :=
  match neighbour k d with
  | none => some 0
  | some o =>
    if !inPart s k o then some 1
    else if isDark s (tileOfCore o) || coreShut s k o then some 2
    else none

/-! Queues (R133, R135). -/

def qProducer (qmap : Word) (j : Nat) : Nat := fld qmap (4 * j + 2) 2
def qConsumer (qmap : Word) (j : Nat) : Nat := fld qmap (4 * j) 2

/-! Feeds (R161). -/

/-- The stream entry that names a feed register. -/
def feedEntry (c : Core) (f : Nat) : Option Nat :=
  (upto 8).find? (fun e =>
    let w := (vget c.streams e StreamEnt.reset).word
    bit w 0 && !bit w 9 && decide (fld w 7 2 = f))

/-- May the context read feed f: the task context, while the owner runs? -/
def feedOk (s : State) (f : Nat) : Bool :=
  match s.kind, feedEntry s.core f with
  | .task, some e =>
    match s.core.running with
    | some j => decide (fld (vget s.core.streams e StreamEnt.reset).word 48 16 = (tagOf s.cur j).toNat)
    | none => false
  | _, _ => false

/-- The queue-role, link-edge and feed-unbound faults of one field (R135, R139, R161). -/
def roleOf (s : State) (u : Use) : Res Unit :=
  let f := u.field.toNat
  let v : Word := u.field.setWidth 64
  match u with
  | .srcV _ => if 32 ≤ f then need (feedOk s (f - 32)) 0x21 v else .ok ()
  | .srcS _ | .dstS _ =>
    if f < 32 then .ok ()
    else if f < 40 then
      let qm := (tileOf s (myTile s)).qmap
      let who := match u with
        | .srcS _ => qConsumer qm (f - 32)
        | _ => qProducer qm (f - 32)
      need (decide (who = tcore s.cur)) 0x1d v
    else
      match linkReason s s.cur (linkDir f) with
      | some r => exc 0x1e (v ||| BitVec.ofNat 64 (r * 256))
      | none => .ok ()
  | _ => .ok ()

def checkRoles (s : State) : List Use → Res Unit
  | [] => .ok ()
  | u :: r => do
    roleOf s u
    checkRoles s r

/-- A posted store of one core to another's local memory is still on its way (R140). -/
def storeInFlight (s : State) (src dst : CoreId) : Bool :=
  s.net.any (fun p => p.src == src && p.dst == dst && (match p.body with
    | .store .. => true
    | _ => false))

/-- The core of the tile with index i. -/
def tileMate (k : CoreId) (i : Nat) : CoreId := coreOfTile (tileOfCore k) i

/-- Is a queue or link register a source that a waiting instruction of a context takes when it completes (R42, R135)? -/
def Ctx.willTake (x : Ctx) (f : Spec) : Bool := decide (32 ≤ f.toNat) && x.takes.contains (.s f)

/-- Is it the destination to which a waiting instruction of a context appends when it completes (R42, R135)? -/
def Ctx.willPut (x : Ctx) (f : Spec) : Bool :=
  decide (32 ≤ f.toNat) && (match x.wait with
    | .remote d .. | .far d .. | .waita d .. => d == f
    | _ => false)

/-- Does a test hold of the core's other context, if that is active? -/
def ofOther (s : State) (p : Ctx → Bool) : Bool :=
  match s.kind with
  | .task => s.core.act.isSome && p s.core.hand
  | .handler => p s.core.task

/-- The core's other context has issued an instruction that will take the oldest entry of the register, which is then not there
for another (R42, R135, R137; log 47). -/
def otherTakes (s : State) (f : Spec) : Bool := ofOther s (·.willTake f)

/-- The slots that the core's other context has issued an append for (R42, R135, R137; log 47). -/
def otherPuts (s : State) (f : Spec) : Nat := (ofOther s (·.willPut f)).toNat

/-- The oldest entry of a tile queue taken (R135, R140). -/
def takeQueue (s : State) (j : Nat) : Res (Word × State) :=
  let t := tileOf s (myTile s)
  match vget t.queues j [] with
  | [] => .error .block
  | w :: r =>
    if storeInFlight s (tileMate s.cur (qProducer t.qmap j)) s.cur then .error .block
    else .ok (w, setTile s (myTile s) { t with queues := vset t.queues j r })

/-- An entry appended to a tile queue that has room beside `r` slots spoken for (R135). -/
def putQueue (s : State) (j r : Nat) (w : Word) : Res State :=
  let t := tileOf s (myTile s)
  let q := vget t.queues j []
  if q.length + r < 8 then .ok (setTile s (myTile s) { t with queues := vset t.queues j (q ++ [w]) })
  else .error .block

/-- A word taken from a link; its slot is on its way back to the writer (R137, R138). -/
def takeLink (s : State) (d : Dir) : Res (Word × State) :=
  let e := s.core.links.get d
  match e.words with
  | [] => .error .block
  | w :: r => .ok (w, { s with core := { s.core with links := s.core.links.set d { e with words := r, returning := e.returning + 1 } } })

/-- A word sent on a link that has room beside `r` slots spoken for (R137). -/
def putLink (s : State) (d : Dir) (r : Nat) (w : Word) : Res State :=
  match neighbour s.cur d with
  | none => .error .block
  | some o =>
    let c := coreOf s o
    let e := c.links.get (dirOpp d)
    if e.words.length + e.flight.length + e.returning + r < 4 then
      .ok (setCore s o { c with links := c.links.set (dirOpp d) { e with flight := e.flight ++ [w] } })
    else .error .block

/-- The oldest word leaves a stream buffer: its credit returns, and an end-of-stream word leaves its
header for the activation (R162, R164). -/
def leaveBuffer (s : State) (k : CoreId) (e : Nat) : Option ((Word × Vec) × State) :=
  let c := coreOf s k
  let ent := vget c.streams e StreamEnt.reset
  match ent.eos, ent.buf with
  | none, w :: r =>
    let x : StreamEnt := { ent with buf := r, eos := if bit w.1 26 then some w.1 else none }
    let s := setCore s k { c with streams := vset c.streams e x }
    let src := coreAt (fld ent.word 18 5) (fld ent.word 23 5)
    some (w, sendAs s k src 0xffff (.credit k (BitVec.ofNat 4 e) (bit w.1 26)))
  | _, _ => none

/-- The next 512 bits of a feed (R161). -/
def takeFeed (s : State) (f : Nat) : Res (Vec × State) :=
  match feedEntry s.core f with
  | none => .error .block
  | some e =>
    match leaveBuffer s s.cur e with
    | some (w, s') => .ok (w.2, s')
    | none => .error .block

/-- A scalar source (R39). -/
def readS (s : State) (f : Spec) : Res (Word × State) :=
  let n := f.toNat
  if n < 32 then .ok (getS s n, s)
  else if otherTakes s f then .error .block
  else if n < 40 then takeQueue s (n - 32)
  else takeLink s (linkDir n)

/-- A scalar destination (R39). -/
def writeS (s : State) (f : Spec) (x : Word) : Res State :=
  let n := f.toNat
  if n < 32 then .ok (putS s n x)
  else if n < 40 then putQueue s (n - 32) (otherPuts s f) x
  else putLink s (linkDir n) (otherPuts s f) x

/-- A vector source of the context's own core (R40). -/
def readV (s : State) (f : Spec) : Res (Vec × State) :=
  if f.toNat < 32 then .ok (getV s f.toNat, s) else takeFeed s (f.toNat - 32)

/-- The oldest entry of a tile queue leaves it. -/
def popQueue (s : State) (j : Nat) : State :=
  modTile s (myTile s) fun t => { t with queues := vset t.queues j ((vget t.queues j []).drop 1) }

/-- One source of a completing instruction acts: its entry, which the instruction has read, leaves (R42). -/
def takeSource (s : State) : Take → State
  | .s f =>
    if f.toNat < 32 then s
    else if f.toNat < 40 then popQueue s (f.toNat - 32)
    else
      match takeLink s (linkDir f.toNat) with
      | .ok (_, t) => t
      | .error _ => s
  | .v f =>
    match readV s f with
    | .ok (_, t) => t
    | .error _ => s

/-- The entries of a register are gone: no waiting instruction of the context takes one of it (R134, R345). -/
def Ctx.forgets (x : Ctx) (t : Take) : Ctx := { x with takes := x.takes.filter (· != t) }

/-- The sources of the completing instruction act, in their order (R42). -/
def takeAll (s : State) : State :=
  let t := (cx s).takes.foldl takeSource s
  setCx t { cx t with takes := [] }

/-- The sources that an instruction takes at its completion, in their order, where it may wait after its issue (R42). -/
def takesOf : Instr → List Take
  | .ld _ _ m | .ldu _ _ m | .ldacq _ _ _ m => [.s m.a]
  | .st _ d m | .strel _ _ d m => [.s d, .s m.a]
  | .amo _ _ _ m c | .cas _ _ _ m c => [.s m.a, .s c]
  | .amofar _ _ _ m c | .casfar _ _ _ m c | .amof _ _ m c => [.s m.a, .s c]
  | .red _ d m => [.s d, .s m.a]
  | .merge _ m | .bind _ _ m | .waita _ _ _ m => [.s m.a]
  | .cwb m | .cinv m => [.s m.a]
  | .vld _ m _ => [.s m.a]
  | .vst d m _ => [.v d, .s m.a]
  | .vlds _ _ m rx => [.s m.a, .s rx.c]
  | .vsts _ d m rx => [.v d, .s m.a, .s rx.c]
  | .vgath _ _ m rx => [.s m.a, .v rx.c]
  | .vscat _ d m rx => [.v d, .s m.a, .v rx.c]
  | .copy d m | .copy2 d m | .copyx d m | .copym d m | .conv d m => [.s d, .s m.a]
  | _ => []

/-- The destination to which such an instruction writes at its completion. -/
def putsOf : Instr → Option Spec
  | .ld _ d _ | .ldu _ d _ | .ldacq _ _ d _ | .amo _ _ d _ _ | .cas _ _ d _ _ | .amofar _ _ d _ _ | .casfar _ _ d _ _ | .amof _ d _ _
  | .waita _ _ d _ => some d
  | _ => none

/-- Is a source a queue, a link or a feed? -/
def Take.isFifo : Take → Bool
  | .s f | .v f => decide (32 ≤ f.toNat)

/-- Does an instruction that may wait after its issue name a queue, a link or a feed (R42)? -/
def namesFifo (i : Instr) : Bool := (takesOf i).any (·.isFifo) || (putsOf i).any fun d => decide (32 ≤ d.toNat)

/-! Gang-relative operands (R41, R145, R146). -/

/-- The standing gang of the context: a handler is never in one. -/
def gangOf (s : State) : Option Gang :=
  match s.kind with
  | .task => s.core.gang
  | .handler => none

/-- goff as a signed number. -/
def rxOffset (r : RX) : Int := r.goff.toInt

/-- The member a gang-relative operand names. -/
def memberOf (s : State) (r : RX) : Option Nat :=
  match gangOf s with
  | none => none
  | some g =>
    let m : Int := g.me + rxOffset r
    if 0 ≤ m ∧ m < g.size then some m.toNat else none

/-- The RX rules of R41; `va`, `vb`, `vc` are the vector sources of the form. -/
def rxOk (s : State) (r : RX) (va vb vc : Option Spec) : Bool :=
  let sel := match r.gsel.toNat with
    | 1 => va
    | 2 => vb
    | _ => vc
  r.goff != 8 &&
  (r.gsel == 0 ||
    match sel with
    | none => false
    | some f => decide (f.toNat < 32) && (r.goff == 0 || (memberOf s r).isSome))

def checkRX (s : State) (r : RX) (va vb vc : Option Spec) : Res Unit :=
  need (rxOk s r va vb vc) 0x02 ((mkRX r).setWidth 64)

/-- A vector source that RX may make gang-relative; `n` is its gsel code. -/
def readVG (s : State) (r : RX) (n : Nat) (f : Spec) : Res (Vec × State) :=
  if r.gsel.toNat = n ∧ r.goff ≠ 0 then
    match memberOf s r with
    | some m => .ok (vget (s.gangView[m]?.getD (cx s).v) f.toNat 0, s)
    | none => readV s f
  else readV s f

/-- The governing predicate of an RX tail (R41, R110). -/
def govern (s : State) (r : RX) : Word := if r.p then getM s r.m.toNat else BitVec.allOnes 64

/-- The privilege fault of a supervisor-only form (R56). -/
def needS (s : State) : Res Unit := need (!userMode s) 0x08 0

/-! Shapes shared by the scalar instructions: every source is read before the destination is written (R78). -/

/-- d := f(a, b). -/
def opR (s : State) (d a b : Spec) (f : Word → Word → Word) : Host.Outcome State Fault Refusal :=
  finish s do
    checkUses [.dstS d, .srcS a, .srcS b]
    checkRoles s [.srcS a, .srcS b, .dstS d]
    let (x, s1) ← readS s a
    let (y, s2) ← readS s1 b
    writeS s2 d (f x y)

/-- d := f(a). -/
def opR1 (s : State) (d a : Spec) (f : Word → Word) : Host.Outcome State Fault Refusal :=
  finish s do
    checkUses [.dstS d, .srcS a]
    checkRoles s [.srcS a, .dstS d]
    let (x, s1) ← readS s a
    writeS s1 d (f x)

/-- d := f(a, b, c), the three sources scalar (R52). -/
def opR3 (s : State) (d a b c : Spec) (f : Word → Word → Word → Word) : Host.Outcome State Fault Refusal :=
  finish s do
    checkUses [.dstS d, .srcS a, .srcS b, .srcS c]
    checkRoles s [.srcS a, .srcS b, .srcS c, .dstS d]
    let (x, s1) ← readS s a
    let (y, s2) ← readS s1 b
    let (z, s3) ← readS s2 c
    writeS s3 d (f x y z)

/-- d := x, no source. -/
def opD (s : State) (d : Spec) (x : Word) : Host.Outcome State Fault Refusal :=
  finish s do
    checkUses [.dstS d]
    checkRoles s [.dstS d]
    writeS s d x

end Sys2Proof.Machine
end

