-- ==== Sys2Proof/Machine/Coherence.lean ====
section
/-!
DEFINITION. Tokens, directory, caches and half-line states of a line (R213 to R229). An access collects the tokens it
needs in the step that performs it (log 10); the values of bytes are those of the one coherent memory (R233).
-/
namespace Sys2Proof.Machine

def setLine (s : State) (l : Nat) (x : LineSt) : State :=
  { s with coh := { s.coh with lines := SMap.put s.coh.lines l x } }

/-- Plain tokens of a cache. -/
def LineSt.plain (x : LineSt) (r : Nat) : Nat := (SMap.get? x.hold r).getD 0

/-- Plain tokens held by caches and messages. -/
def LineSt.out (x : LineSt) : Nat := (x.hold.map (·.2)).sum + (x.flight.map (·.plain)).sum

/-- Plain tokens at the home slice (R218). -/
def LineSt.atHome (x : LineSt) : Nat := 2048 - x.out

def LineSt.setPlain (x : LineSt) (r n : Nat) : LineSt :=
  { x with hold := if n = 0 then SMap.del x.hold r else SMap.put x.hold r n }

/-- The bit of the coarse vector for a requester (R221, R222). -/
def groupBit (r : Nat) : Nat :=
  let t := r / 5 % 256
  8 * (t / 16 / 2) + t % 16 / 2

/-- Does the entry name a requester, so that a request is forwarded to it (R222)? -/
def DirEnt.names (d : DirEnt) (r : Nat) : Bool :=
  match d with
  | .exact ps => ps.contains r
  | .coarse v => v.getLsbD (groupBit r)

/-- The directory entry with one more holder (R222). -/
def DirEnt.add (d : DirEnt) (r : Nat) : DirEnt :=
  match d with
  | .exact ps =>
    if ps.contains r then .exact ps
    else if ps.length < 4 then .exact (ps ++ [r])
    else .coarse ((ps ++ [r]).foldl (fun v p => v ||| ((1 : BitVec 64) <<< groupBit p)) 0)
  | .coarse v => .coarse (v ||| ((1 : BitVec 64) <<< groupBit r))

/-- The home slice holds all tokens again: its entry ends (R222). -/
def LineSt.settle (x : LineSt) : LineSt := if x.out = 0 then { x with dir := .exact [] } else x

/-- Requester numbers (R221). -/
def tileReq (t : TileId) : Nat := 5 * t.toNat
def icacheReq (k : CoreId) : Nat := 5 * (tileOfCore k).toNat + 1 + tcore k
/-- The number under which the LDS holds its token of the TAIL of a queue, beyond those of R221 (R401; log 53). -/
def ldsReq (q : Nat) : Nat := 1281 + 5 * q

/-- The tile of a requester. -/
def tileOfReq (r : Nat) : TileId := BitVec.ofNat 8 (r / 5)

/-- A half as the device needs it for a read, with the request that the DSC sends to the host for it: I is fetched (R227,
R229). -/
def halfForRead (dev : Bool) (line : Line) (hi : Bool) (h : HalfSt) : HalfSt × List HostMsg :=
  match h with
  | .i => (.s, [if dev then .biSnpData line hi else .rdShared line hi])
  | h => (h, [])

/-- A half for which all tokens may be given out (the W column of R227 and R228), with the requests to the host. A half of
device memory that the host holds alone is first fetched, and then its host copy is removed: what R228 calls a half without host copy is
E when clean and M when dirty, and the half that is written enters M with the write (log 10). -/
def halfForWrite (dev : Bool) (line : Line) (hi : Bool) (h : HalfSt) : HalfSt × List HostMsg :=
  match dev, h with
  | _, .m => (.m, [])
  | _, .e => (.e, [])
  | true, .i => (.e, [.biSnpData line hi, .biSnpInv line hi])
  | true, .o => (.m, [.biSnpInv line hi])
  | true, .s => (.e, [.biSnpInv line hi])
  | false, _ => (.e, [.rdOwn line hi])

/-- bucket_of (R216). -/
def bucketOf (pa : Nat) : Nat :=
  let p := pa / 128
  let f := fun lo n => (p >>> lo) % 2 ^ n
  ((f 5 7) ^^^ (f 12 7) ^^^ (f 19 7) ^^^ (f 26 7) ^^^ (f 33 7) ^^^ (f 40 5)) * 32 + f 0 5

/-- The slice that owns a bucket (R217). -/
def sliceOf (s : State) (b : Nat) : Nat := ((SMap.get? s.coh.map b).map (·.1)).getD (b % 64)

/-- A request counted for the rebalancer (R223). -/
def countReq (s : State) (l : Nat) : State :=
  let b := bucketOf (l * 128)
  { s with coh := { s.coh with counts := SMap.put s.coh.counts b ((SMap.get? s.coh.counts b).getD 0 + 1) } }

/-! Tokens and valid halves of one line. -/

def LineSt.setHalf (x : LineSt) (hi : Bool) (h : HalfSt) : LineSt := if hi then { x with h1 := h } else { x with h0 := h }

/-- Is a half of the line valid in a cache (R213)? -/
def LineSt.has (x : LineSt) (r : Nat) (hi : Bool) : Bool :=
  match SMap.get? x.valid r with
  | some (a, b) => if hi then b else a
  | none => false

/-- A half becomes valid in a cache. -/
def LineSt.fill (x : LineSt) (r : Nat) (hi : Bool) : LineSt :=
  { x with valid := SMap.put x.valid r (x.has r false || !hi, x.has r true || hi) }

/-- A cache without tokens holds nothing of the line. -/
def LineSt.trim (x : LineSt) : LineSt := { x with valid := x.valid.filter fun v => x.plain v.1 != 0 }

/-- The owner token is at the home slice. -/
def LineSt.ownerHome (x : LineSt) : Bool := x.owner.isNone && !x.flight.any (·.owner)

/-- Dirty data of the owner token, wherever it is. -/
def LineSt.anyDirty (x : LineSt) : Bool := x.dirty || x.flight.any (·.dirty)

/-- May all the tokens of a line be given out (R226 to R228)? -/
def grantsAll (x : LineSt) : Bool :=
  let ok := fun (h : HalfSt) => h == .m || h == .e
  ok x.h0 && ok x.h1

/-- Is some half present at the DSC? -/
def someHalf (x : LineSt) : Bool := x.h0 != .i || x.h1 != .i

/-- The halves that the device holds: the data that go with the owner token (R218, R226). -/
def LineSt.dataOf (x : LineSt) : Bool × Bool := (x.h0 != .i, x.h1 != .i)

/-- Data of a line reach a cache (R220). -/
def LineSt.give (x : LineSt) (r : Nat) (d : Bool × Bool) : LineSt :=
  { x with valid := SMap.put x.valid r (x.has r false || d.1, x.has r true || d.2) }

/-- Every token for one requester, the owner token with the data (R218 to R220). -/
def LineSt.takeAll (x : LineSt) (r : Nat) : LineSt :=
  { x with
    hold := [(r, 2048)], owner := some r, dirty := x.anyDirty, flight := [], valid := [(r, x.dataOf)]
    dir := match x.dir with
      | .exact _ => .exact [r]
      | d => d.add r }

/-- What a persistent request collects: every token, but for the owner token and one plain token that the home slice keeps
while the host may hold a copy (R221, R226). -/
def LineSt.collect (x : LineSt) (r : Nat) : LineSt :=
  if grantsAll x then x.takeAll r
  else { x.takeAll r with hold := [(r, 2047)], owner := none, dirty := false }

/-- What is collected reaches a tile cache; to an instruction cache it is on its way, and finds a place there when it arrives (R213, R221). -/
def LineSt.collectFor (x : LineSt) (r : Nat) : LineSt :=
  let y := x.collect r
  if r % 5 = 0 then y
  else { y with hold := [], owner := none, dirty := false, valid := [], flight := [⟨r, y.plain r, y.owner.isSome, y.dirty, x.dataOf⟩] }

/-- The access for which a persistent request was sent: the readable halves are valid in its cache, and a write makes the line dirty there; the
request names no half, and a write counts for both (R221 step 3, R227, R229; log 10). -/
def LineSt.perform (x : LineSt) (r : Nat) (w : Bool) : LineSt :=
  if x.plain r = 0 then x
  else if w then { x.give r x.dataOf with dirty := true, h0 := .m, h1 := .m }
  else x.give r x.dataOf

/-- A persistent request is done (R221 step 3). -/
def LineSt.doneReq (x : LineSt) (r : Nat) : LineSt :=
  { x with active := none, lastReq := r, retries := SMap.del x.retries r }

/-- One token for a reader that holds none: the holder of the owner token, the home slice among the holders, sends one
and keeps its last; else the reader collects them by a persistent request (R218 to R222). -/
def LineSt.takeOne (x : LineSt) (r : Nat) : LineSt :=
  if x.plain r ≠ 0 then x
  else
    let y := { x with dir := x.dir.add r }
    match x.owner with
    | some o =>
      if 2 ≤ x.plain o ∧ x.dir.names o = true then (y.setPlain o (x.plain o - 1)).setPlain r 1
      else (x.collect r).doneReq r
    | none => if x.ownerHome && decide (2 ≤ x.atHome) then y.setPlain r 1 else (x.collect r).doneReq r

/-- A holder's tokens go home, with its data if it holds the owner token (R218). -/
def LineSt.surrender (x : LineSt) (r : Nat) : LineSt :=
  let y := { x.setPlain r 0 with
    owner := if x.owner = some r then none else x.owner
    dirty := if x.owner = some r then false else x.dirty }
  y.trim.settle

/-- Every token of a line back at its home slice, the data with them (R218, R272). -/
def LineSt.recall (x : LineSt) : LineSt :=
  { x with hold := [], owner := none, dirty := false, flight := [], valid := [], dir := .exact [] }

/-- The waiting request that is next after number n (R221 step 1). -/
def nextWaiting (ws : List (Nat × Bool)) (n : Nat) : Option (Nat × Bool) :=
  let low := fun (l : List (Nat × Bool)) => l.foldl (fun (b : Option (Nat × Bool)) x => match b with
    | some y => if x.1 < y.1 then some x else some y
    | none => some x) none
  match low (ws.filter fun x => n < x.1) with
  | some x => some x
  | none => low ws

/-! The bridge toward the host (R226 to R229). -/

def toHostOut (s : State) (ms : List HostMsg) : State := { s with hostOut := s.hostOut ++ ms }

/-- A half that comes from the host with a poisoned chunk poisons both of its chunks (R230). -/
def arrive (s : State) (l : Nat) (hi : Bool) : State :=
  if (lineOf s l).half hi = .i ∧ halfPoisoned s l hi = true then
    { s with poison := insertNat (4 * l + 2 * hi.toNat + 1) (insertNat (4 * l + 2 * hi.toNat) s.poison) }
  else s

/-- A half made readable. -/
def hostRead (s : State) (l : Nat) (hi : Bool) : State :=
  let s := arrive s l hi
  let x := lineOf s l
  let (h, ms) := halfForRead (isDevMem s (l * 128)) (BitVec.ofNat 45 l) hi (x.half hi)
  toHostOut (setLine s l (x.setHalf hi h)) ms

/-- Both halves made such that all tokens may be given out. -/
def hostOwn (s : State) (l : Nat) : State :=
  let s := arrive (arrive s l false) l true
  let x := lineOf s l
  let dev := isDevMem s (l * 128)
  let (a, ms) := halfForWrite dev (BitVec.ofNat 45 l) false x.h0
  let (b, ns) := halfForWrite dev (BitVec.ofNat 45 l) true x.h1
  toHostOut (setLine s l { x with h0 := a, h1 := b }) (ms ++ ns)

/-- The dirty halves of a host-homed line go to the host, poisoned where a chunk is (R227, R230). -/
def backHalf (s : State) (l : Nat) (hi : Bool) : State :=
  if (lineOf s l).half hi = .m && !isDevMem s (l * 128) then toHostOut s [.writeBack (BitVec.ofNat 45 l) hi (halfPoisoned s l hi)] else s

/-- Clean states of a half (R271). -/
def cleanHalf : HalfSt → HalfSt
  | .m => .e
  | .o => .s
  | h => h

/-- Does any device cache hold the line dirty? -/
def lineDirty (s : State) (l : Nat) : Bool :=
  let x := lineOf s l
  x.anyDirty || x.h0 == .m || x.h0 == .o || x.h1 == .m || x.h1 == .o

/-- The dirty data of a line go to its home memory; the line stays where it is, clean (R271). -/
def cleanLine (s : State) (l : Nat) : State :=
  if lineDirty s l then
    let s := backHalf (backHalf s l false) l true
    let x := lineOf s l
    setLine s l { x with dirty := false, h0 := cleanHalf x.h0, h1 := cleanHalf x.h1, flight := x.flight.map fun m => { m with dirty := false } }
  else s

/-! Buckets and slices (R216, R217, R223, R224). -/

/-! Persistent requests and capacity (R213, R221, R225). -/

/-- What an operation of the fabric can change: lines, requests to the host, the tiles' table copies, poison, free choices. -/
def onFabric (s t : State) : State := { s with coh := t.coh, hostOut := t.hostOut, tiles := t.tiles, poison := t.poison, fresh := t.fresh }

/-- Lines of which a cache holds tokens. -/
def linesOf (s : State) (r : Nat) : List Nat := (s.coh.lines.filter fun x => x.2.plain r != 0).map (·.1)

/-- The line that a full set loses, chosen freely (log 22). -/
def victimOf (s : State) (ls : List Nat) : Nat := (ls[Config.victim s.fresh % ls.length]?).getD 0

/-- A tile cache makes room for a line: a full set of eight ways evicts one, whose tokens go home (R213, R218). -/
def tileRoom (s : State) (r l : Nat) : State :=
  let ls := linesOf s r
  if r % 5 ≠ 0 ∨ ls.length < 8 ∨ ls.contains l = true then s
  else
    let same := ls.filter fun x => Config.tileSet x % 128 == Config.tileSet l % 128
    if same.length < 8 then s
    else
      let v := victimOf s same
      { setLine s v ((lineOf s v).surrender r) with fresh := s.fresh + 1 }

/-- An active request has what it needs: its access is performed, and it ends; first, what has gone elsewhere since it was activated is
collected, with the halves a write needs (R221 steps 2 and 3, R226). A line that the device holds no part of is first fetched. -/
def collectNow (s : State) (l r : Nat) (w : Bool) : State :=
  let s := if w then hostOwn s l else if someHalf (lineOf s l) then s else hostRead (hostRead s l false) l true
  let s := tileRoom s r l
  setLine s l ((lineOf s l).collectFor r)

/-- Is a move of the bucket of a line under way (R223 step 1)? -/
def moving (s : State) (l : Nat) : Bool := (s.coh.move.map (·.1)) == some (bucketOf (l * 128))

/-- The arbiter of a line activates the next waiting request, which collects the tokens (R221 steps 1 and 2, R226); not while its bucket is
about to move: the request then rejoins at the new slice (R224). -/
def arbitrate (s : State) (l : Nat) : State :=
  let x := lineOf s l
  match x.active, nextWaiting x.waiting x.lastReq with
  | none, some (r, w) =>
    if moving s l then s
    else
      let s := collectNow s l r w
      let x := lineOf s l
      setLine s l { x with active := some (r, w), waiting := x.waiting.filter fun y => y.1 != r }
  | _, _ => s

/-- Does a requester hold what it needs (R219)? -/
def satisfied (x : LineSt) (r : Nat) (w : Bool) : Bool := if w then x.plain r == 2048 && x.owner == some r else x.plain r != 0

/-- The active request of a line completes (R221 step 3): one that lacks tokens collects them first; those of an instruction cache may
still be on their way. -/
def endActive (s : State) (l r : Nat) (w : Bool) : State :=
  let s := if satisfied (lineOf s l) r w then s else collectNow s l r w
  setLine s l (((lineOf s l).perform r w).doneReq r)

/-- Active and waiting persistent requests complete in their turns, before another access gets a token (R221). -/
def drainGo (l : Nat) : Nat → State → State
  | 0, s => s
  | n + 1, s =>
    match (lineOf s l).active with
    | some (r, w) => drainGo l n (arbitrate (endActive s l r w) l)
    | none => s

def drainLine (s : State) (l : Nat) : State := drainGo l ((lineOf s l).waiting.length + 1) s

/-- Every token of a line recalled to its home slice. -/
def recallLine (s : State) (l : Nat) : State :=
  let s := drainLine s l
  setLine s l (lineOf s l).recall

/-- The DSC drops its copy of a line: dirty halves go to their memory, and a host-homed line leaves (R218, R227, R229). A
half that a tile holds dirty stays dirty. -/
def dscDrop (s : State) (l : Nat) : State :=
  if isDevMem s (l * 128) then
    let x := lineOf s l
    if x.anyDirty then setLine s l { x with way := none }
    else setLine s l { x with h0 := cleanHalf x.h0, h1 := cleanHalf x.h1, way := none }
  else
    let s := recallLine s l
    let s := backHalf (backHalf s l false) l true
    setLine s l { lineOf s l with h0 := .i, h1 := .i, way := none }

/-- The way mask of a slice and colour: a colour without one of its own, and a requester without a colour, have the ways that no colour has for
itself (R225; log 22). -/
def wayMask (s : State) (sl : Nat) (c : Option Nat) : BitVec 16 :=
  match c.bind fun c => SMap.get? s.coh.ways (16 * sl + c) with
  | some m => m
  | none => (upto 16).foldl (fun m k => m &&& ~~~((SMap.get? s.coh.ways (16 * sl + k)).getD 0)) (BitVec.allOnes 16)

/-- Colour of a context, if it holds one (R400). -/
def colourHeld (s : State) (c : CtxNum) : Option Nat := (SMap.get? s.lds.ctxs c.toNat).bind (·.colour)

/-- Colour of a context as its packets carry it (R149); that of a context without one is 0, and picks no ways (log 22). -/
def colourOf (s : State) (c : CtxNum) : Nat := (colourHeld s c).getD 0

/-- The colour for which a requester fetches: that of the context on its tile. -/
def colourOfReq (s : State) (r : Nat) : Option Nat := colourHeld s (coreOf s (coreOfTile (tileOfReq r) 0)).ctxnum

/-- The colour for which a line is at its slice: that of the requester whose request stands, or of one that holds tokens. -/
def colourOfLine (s : State) (l : Nat) : Option Nat :=
  let x := lineOf s l
  (((x.active.map (·.1)).orElse fun _ => (x.retries.head?.map (·.1)).orElse fun _ => x.hold.head?.map (·.1)).bind (colourOfReq s))

/-- A line fetched for a colour takes a way of its mask in its slice, and a full set evicts (R213, R225). -/
def dscRoom (s : State) (c : Option Nat) (l : Nat) : State :=
  if (lineOf s l).way.isSome then s
  else
    let sl := sliceOf s (bucketOf (l * 128))
    let here := s.coh.lines.filter fun x =>
      x.2.way.isSome && sliceOf s (bucketOf (x.1 * 128)) == sl && Config.dscSet x.1 % 1024 == Config.dscSet l % 1024
    let mine := (upto 16).filter fun w => (wayMask s sl c).getLsbD w
    match mine.find? fun w => !here.any fun x => x.2.way == some w with
    | some w => setLine s l { lineOf s l with way := some w }
    | none =>
      let out := here.filter fun x => mine.any fun w => x.2.way == some w
      match out[Config.victim s.fresh % out.length]? with
      | none => s
      | some v =>
        let s := dscDrop { s with fresh := s.fresh + 1 } v.1
        setLine s l { lineOf s l with way := v.2.way }

/-- A host-homed line whose data the slice holds has a way there; where no way can be had it leaves the DSC (R213, R226). -/
def placeLine (s : State) (c : Option Nat) (l : Nat) : State :=
  let s := dscRoom s c l
  if (lineOf s l).way.isSome then s else dscDrop s l

/-- An entry of a tile's copy of the table (R217). -/
def mapOf (t : Tile) (b : Nat) : Nat × Nat := (SMap.get? t.map b).getD (b % 64, 0)

/-- A new entry or a redirect applied by a tile unless it is stale (R223). -/
def Tile.redirect (t : Tile) (b : Nat) (e : Nat × Nat) : Tile :=
  let d := (e.2 + 65536 - (mapOf t b).2) % 65536
  if d = 0 ∨ 32767 < d then t else { t with map := SMap.put t.map b e }

/-- A bucket moved: dirty data that the old slice holds go to memory, and the entry changes (R223 steps 2 and 3). The new slice holds the
data of the host-homed lines that are present, as their home (R218). Waiting persistent requests are redirected and rejoin there (R224). -/
def moveBucket (s : State) (b c : Nat) : State :=
  let mine := (s.coh.lines.filter fun x => bucketOf (x.1 * 128) == b).map (·.1)
  let s := mine.foldl (fun s l => if (lineOf s l).ownerHome then cleanLine s l else s) s
  let there := mine.filter fun l => (lineOf s l).way.isSome && !isDevMem s (l * 128) && someHalf (lineOf s l)
  let s := mine.foldl (fun s l => setLine s l { lineOf s l with way := none }) s
  let g := (s.coh.gen + 1) % 65536
  let s := { s with coh := { s.coh with gen := g, map := SMap.put s.coh.map b (c, g), move := none } }
  let s := there.foldl (fun s l => placeLine s (colourOfLine s l) l) s
  let s := (mine.flatMap fun l => (lineOf s l).waiting).foldl (fun s w => modTile s (tileOfReq w.1) fun x => x.redirect b (c, g)) s
  mine.foldl arbitrate s

/-- Is a persistent request active on a line of a bucket? -/
def bucketBusy (s : State) (b : Nat) : Bool := s.coh.lines.any fun x => bucketOf (x.1 * 128) == b && x.2.active.isSome

/-- The waiting move is made once no persistent request of its bucket is active (R223 step 1). -/
def finishMove (s : State) : State :=
  match s.coh.move with
  | some (b, c) => if bucketBusy s b then s else moveBucket s b c
  | none => s

/-- The move of a bucket is completed, its persistent requests first: a request held by the old slice goes on (R223). -/
def settleBucket (s : State) (b : Nat) : State :=
  match s.coh.move with
  | some (b', _) =>
    if b' = b then finishMove ((s.coh.lines.filter fun x => bucketOf (x.1 * 128) == b).foldl (fun s x => drainLine s x.1) s) else s
  | none => s

/-- A bucket pinned to a slice: a move in progress and the persistent requests of the bucket come first (R223, R225). -/
def pinBucket (s : State) (b c : Nat) : State :=
  if sliceOf s b = c ∧ s.coh.move = none then s
  else
    let s := match s.coh.move with
      | some (b', _) => settleBucket s b'
      | none => s
    let s := (s.coh.lines.filter fun x => bucketOf (x.1 * 128) == b).foldl (fun s x => drainLine s x.1) s
    moveBucket s b c

/-- A request of a tile for a bucket reaches its owner: a slice that owns it no longer answers with a redirect that carries
its slice and G, and the tile sends the request again (R223, R224). -/
def askHome (s : State) (t : TileId) (b : Nat) : State :=
  let s := settleBucket s b
  if (mapOf (tileOf s t) b).1 = sliceOf s b then s
  else modTile s t fun x => x.redirect b ((SMap.get? s.coh.map b).getD (b % 64, 0))

/-! Accesses of a cache. -/

/-- A request of a cache for a line reaches the line's home, which finds it a place (R217, R221, R223 to R225). -/
def request (s : State) (r l : Nat) : State :=
  let s := askHome (countReq s l) (tileOfReq r) (bucketOf (l * 128))
  drainLine (tileRoom (dscRoom s (colourOfReq s r) l) r l) l

/-- A cache reads a half of a line: a valid half needs one token, which the cache else asks for (R214, R220). -/
def touchRead (s : State) (r l : Nat) (hi : Bool) : State :=
  if (lineOf s l).plain r ≠ 0 ∧ (lineOf s l).has r hi = true then s
  else
    let t := hostRead (request s r l) l hi
    let x := (lineOf t l).takeOne r
    onFabric s (setLine t l (x.give r x.dataOf).trim)

/-- A cache collects every token of a line: a write, an atomic, or PREF.EX (R219, R220, R226, R245, R270). -/
def touchOwn (s : State) (r l : Nat) : State :=
  if (lineOf s l).plain r = 2048 ∧ (lineOf s l).owner = some r then s
  else
    let t := hostOwn (request s r l) l
    onFabric s (setLine t l ((lineOf t l).takeAll r))

/-- A cache writes a half of a line. -/
def touchWrite (s : State) (r l : Nat) (hi : Bool) : State :=
  let t := touchOwn s r l
  setLine t l (({ lineOf t l with dirty := true }.fill r hi).setHalf hi .m)

/-- The halves that bytes [pa, pa + n) touch, as numbers pa / 64, lowest first. -/
def halvesIn (pa n : Nat) : List Nat := (upto ((pa + n - 1) / 64 - pa / 64 + 1)).map (· + pa / 64)

def touchR (s : State) (r pa n : Nat) : State :=
  (halvesIn pa n).foldl (fun s h => touchRead s r (h / 2) (h % 2 == 1)) s

def touchW (s : State) (r pa n : Nat) : State :=
  (halvesIn pa n).foldl (fun s h => touchWrite s r (h / 2) (h % 2 == 1)) s

def touchAll (s : State) (r pa n : Nat) : State := (halvesIn pa n).foldl (fun s h => touchOwn s r (h / 2)) s

/-- The home slice itself writes a half for an agent of a colour: it first holds every token, the line has its way there, and the host no
copy (R213, R218, R224). -/
def homeWrite (s : State) (c : Option Nat) (l : Nat) (hi : Bool) : State :=
  let t := hostOwn (dscRoom (recallLine s l) c l) l
  setLine t l ((lineOf t l).setHalf hi .m)

/-- The home slice itself reads a half: it first holds every token, and the half (R218, R227). -/
def homeRead (s : State) (c : Option Nat) (l : Nat) (hi : Bool) : State := hostRead (dscRoom (recallLine s l) c l) l hi

/-! Physical memory and its poison (R230). -/

/-- Bytes written by one agent at physical addresses; a chunk written whole loses its poison. -/
def writePa (s : State) (pa : Nat) (bs : List Byte) : State :=
  let n := bs.length
  { s with
    pmem := Mem.write s.pmem pa bs
    poison := s.poison.filter (fun c => !(decide (pa ≤ 32 * c) && decide (32 * c + 32 ≤ pa + n))) }

/-- Bytes written by the home slice of their line for an agent of a colour; it first holds every token (R218, R224). -/
def writeHome (s : State) (c : Option Nat) (pa : Nat) (bs : List Byte) : State :=
  writePa (onFabric s (homeWrite s c (pa / 128) (pa / 64 % 2 == 1))) pa bs

end Sys2Proof.Machine
end

