-- ==== Sys2Proof/Machine/Access.lean ====
section
/-!
DEFINITION. The accesses of a core to virtual and array space: the checks of R256 in their order, array space and owner stamps (R198, R199, R212), the handler's regions
(R157), and the journal of posted remote stores (R209).
-/
namespace Sys2Proof.Machine

/-- The physical pieces (address, length) of [va, va + n), page by page upward; the first page without a usable
translation gives 0x07 or 0x0d at its first byte (R256, R335). -/
def xlatGo (s : State) (near : List Xlat) (ctx : CtxNum) (acc : Acc) : Nat → Nat → Nat → Res (List (Nat × Nat))
  | 0, _, _ => .ok []
  | f + 1, va, n =>
    if n = 0 then .ok []
    else
      match translate s near ctx va acc with
      | .missing => xfault 0x07 va acc
      | .denied => xfault 0x0d va acc
      | .ok pa => do
        let m := min n (4096 - va % 4096)
        let r ← xlatGo s near ctx acc f ((va + m) % 2 ^ 64) (n - m)
        pure ((pa, m) :: r)

/-- The pieces of an access of the core that steps. -/
def xlat (s : State) (va : Word) (n : Nat) (acc : Acc) : Res (List (Nat × Nat)) :=
  xlatGo s (nearOf s s.cur) s.core.ctxnum acc (n / 4096 + 2) va.toNat n

/-- The bytes of physical pieces. -/
def readSegs (m : Mem) : List (Nat × Nat) → List Byte
  | [] => []
  | (pa, n) :: r => Mem.read m pa n ++ readSegs m r

/-- Bytes written to physical pieces by a cache with requester number r. -/
def writeSegs (s : State) (r : Nat) : List (Nat × Nat) → List Byte → State
  | [], _ => s
  | (pa, n) :: t, bs => writeSegs (writePa (touchW s r pa n) pa (bs.take n)) r t (bs.drop n)

def touchSegs (s : State) (r : Nat) (segs : List (Nat × Nat)) : State :=
  segs.foldl (fun s p => touchR s r p.1 p.2) s

/-- The first poisoned byte of the pieces, as its distance from the first byte. -/
def poisonSegs (s : State) : Nat → List (Nat × Nat) → Option Nat
  | _, [] => none
  | i, (pa, n) :: r =>
    match poisonIn s pa n with
    | some j => some (i + j)
    | none => poisonSegs s (i + n) r

/-- Poisoned bytes consumed raise 0x1b (R230, R256). -/
def checkPoison (s : State) (va : Word) (segs : List (Nat × Nat)) : Res Unit :=
  match poisonSegs s 0 segs with
  | some j => exc 0x1b (va + BitVec.ofNat 64 j)
  | none => .ok ()

/-! Array space (R198, R199, R212). -/

/-- The array address of a core's local memory at an offset, and of a tile store. -/
def lmKey (k : CoreId) (off : Nat) : Nat := (arrAddr (coreY k) (coreX k) 0).toNat + off
def tsKey (t : TileId) (off : Nat) : Nat := (arrAddr (2 * tileY t) (2 * tileX t) (2 ^ 21)).toNat + off

def lmSize : Nat := 0xc000
def tsSize : Nat := 0x80000

def stampOf (s : State) (region : Nat) : Nat := (SMap.get? s.stamps region).getD 0

/-- Bytes read on behalf of a context: a region of another owner reads zero (R212). -/
def arrRead (s : State) (ctx : CtxNum) (key n : Nat) : List Byte :=
  (upto n).map (fun i => if stampOf s ((key + i) / 4096) = ctx.toNat then Mem.get s.arr (key + i) else 0)

/-- Memory with [lo, lo + n) zero. -/
def Mem.clear (m : Mem) (lo n : Nat) : Mem := m.filter (fun c => !(decide (lo ≤ c.1) && decide (c.1 < lo + n)))

/-- ck that the fill of a region takes: of local memory 16, of a tile store 32 (R212). -/
def fillTime (region : Nat) : Nat := if region / 512 % 2 = 1 then 32 else 16

/-- Is no fill of a region that holds one of n bytes in progress (R212)? -/
def filled (s : State) (key n : Nat) : Bool :=
  s.fills.all fun f => decide (f.2 ≤ s.ck) || !(decide (key / 4096 ≤ f.1) && decide (f.1 ≤ (key + n - 1) / 4096))

/-- The ck at which the last fill of a region that holds one of n bytes ends, 0 where none was (R212). -/
def fillEnd (s : State) (key n : Nat) : Nat :=
  (s.fills.filter fun f => decide (key / 4096 ≤ f.1) && decide (f.1 ≤ (key + n - 1) / 4096)).foldl (fun m f => max m f.2) 0

/-- Regions of n bytes that a context does not own (R212). -/
def foreignRegions (s : State) (ctx : CtxNum) (key n : Nat) : List Nat :=
  ((upto ((key + n - 1) / 4096 - key / 4096 + 1)).map (key / 4096 + ·)).filter fun r => stampOf s r != ctx.toNat

/-- A region taken by a context: filled with zeros when it had another owner (R212). The write that takes it is applied with
its fill; every later access waits for the fill's end (log 52). -/
def claim (s : State) (ctx : CtxNum) (region : Nat) : State :=
  if stampOf s region = ctx.toNat then s
  else { s with
    arr := Mem.clear s.arr (region * 4096) 4096
    stamps := if ctx = 0 then SMap.del s.stamps region else SMap.put s.stamps region ctx.toNat
    fills := SMap.put s.fills region (s.ck + fillTime region) }

/-- Bytes written on behalf of a context. -/
def arrWrite (s : State) (ctx : CtxNum) (key : Nat) (bs : List Byte) : State :=
  let n := bs.length
  if n = 0 then s
  else
    let s := (upto ((key + n - 1) / 4096 - key / 4096 + 1)).foldl (fun s i => claim s ctx (key / 4096 + i)) s
    { s with arr := Mem.write s.arr key bs }

/-- The core an array address names. -/
def arrCore (a : Word) : CoreId := coreAt (fld a 22 5) (fld a 27 5)

/-- The checks of R199 on n bytes. -/
def arrCheck (s : State) (a : Word) (n : Nat) : Res Unit := do
  need (!bit a 21) 0x0f a
  need (decide (fld a 0 21 + n ≤ lmSize)) 0x18 a
  need (inPart s s.cur (arrCore a)) 0x19 a

/-- The pieces of a range whose pages need only be mapped (R256, R268): a page with no right at all counts as
unmapped. -/
def xlatMapped (s : State) : Nat → Nat → Nat → Res (List (Nat × Nat))
  | 0, _, _ => .ok []
  | f + 1, va, n =>
    if n = 0 then .ok []
    else
      let near := nearOf s s.cur
      let ctx := s.core.ctxnum
      let t := match translate s near ctx va .r with
        | .ok pa => some pa
        | _ => match translate s near ctx va .w with
          | .ok pa => some pa
          | _ => match translate s near ctx va .x with
            | .ok pa => some pa
            | _ => none
      match t with
      | none => xfault 0x07 va .r
      | some pa => do
        let m := min n (4096 - va % 4096)
        let r ← xlatMapped s f ((va + m) % 2 ^ 64) (n - m)
        pure ((pa, m) :: r)

/-- The handler's regions (R157, R396): one region holds every byte and grants the right. -/
def regionOk (s : State) (off n : Nat) (wr : Bool) : Bool :=
  match s.kind with
  | .task => true
  | .handler =>
    match s.core.act with
    | none => false
    | some a => a.entry.regions.any (fun r => decide (r.len ≠ 0) && decide (r.base ≤ off) && decide (off + n ≤ r.base + r.len) && (r.rw || !wr))

/-- Where n bytes of a core's access lie. -/
inductive Place where
  | virt (segs : List (Nat × Nat))
  | own (off : Nat)
  | remote (k : CoreId) (off : Nat)
deriving DecidableEq, Repr

/-- Steps 1 to 3 of R256. `al` is the alignment required (1 for a plain form), `back` says that a remote
access of this form returns a value, which R167 forbids a handler. A vector access goes through all three with each element (log 57). -/
def placeOf (s : State) (sp : Space) (ea : Word) (n al : Nat) (acc : Acc) (back : Bool) : Res Place := do
  need (decide (ea.toNat % al = 0)) 0x0e ea
  match sp with
  | .virt =>
    let segs ← xlat s ea n acc
    pure (.virt segs)
  | .arr =>
    arrCheck s ea n
    let off := fld ea 0 21
    if arrCore ea = s.cur then
      need (regionOk s off n (acc != .r)) 0x23 ea
      holdFor (filled s (lmKey s.cur off) n)
      pure (.own off)
    else
      need (!(back && s.kind == .handler)) 0x24 0
      pure (.remote (arrCore ea) off)

/-! Windows (R206, R207). -/

/-- Rights of a window, as bits of WINPERM. -/
inductive Right where
  | rd | wr | at
deriving DecidableEq, Repr

def Right.bit : Right → Nat
  | .rd => 0 | .wr => 1 | .at => 2

/-- Does a window hold n bytes at an offset for a requester with a right? -/
def Window.admits (w : Window) (req : CoreId) (off n : Nat) (r : Right) : Bool :=
  decide (fld w.base 6 10 * 64 ≤ off) && decide (off + n ≤ fld w.lim 6 10 * 64) && bit w.perm r.bit &&
  decide (fld w.rect 0 5 ≤ coreX req) && decide (coreX req ≤ fld w.rect 10 5) &&
  decide (fld w.rect 5 5 ≤ coreY req) && decide (coreY req ≤ fld w.rect 15 5)

/-- The reason for which an owner refuses an access (R207); a dark owner refuses with reason 3 (R365). -/
def refusal (s : State) (owner req : CoreId) (ctx : CtxNum) (off n : Nat) (r : Right) : Option (BitVec 4) :=
  let c := coreOf s owner
  if isDark s (tileOfCore owner) then some 3
  else if c.ctxnum ≠ ctx then some 2
  else if c.wins.toList.any (fun w => w.admits req off n r) then none
  else some 1

/-! The journal (R209, R210). -/

/-- Entries of a context that await an answer (R210). -/
def rscount (c : Core) (h : CtxKind) : Nat :=
  (c.journal.toList.filter (fun e => match e with
    | some x => x.kind == h
    | none => false)).length

/-- R242: the context's earlier remote stores have been answered. -/
def storesDone (s : State) : Bool := rscount s.core s.kind == 0

/-- The stores of a context of core k numbered below n have been answered (R239, R242). -/
def answered (s : State) (k : CoreId) (h : CtxKind) (n : Nat) : Bool :=
  (coreOf s k).journal.toList.all fun e => match e with
    | some x => x.kind != h || decide (n ≤ x.n)
    | none => true

/-- A number for a request of the core that steps. -/
def nextTxn (s : State) : Nat × State := (s.core.txn, { s with core := { s.core with txn := s.core.txn + 1 } })

/-- The lowest free journal entry. -/
def freeEntry (c : Core) : Option Nat := (upto 32).find? (fun j => (vget c.journal j none).isNone)

/-- EVAL of event 0x12 (R211). -/
def storeEval (tag : BitVec 16) (j : Nat) (reason : BitVec 4) (addr : Word) : Word :=
  BitVec.ofNat 64 (tag.toNat * 2 ^ 48 + j * 2 ^ 40 + reason.toNat * 2 ^ 36 + fld addr 0 32)

/-- A store posted to another core (R209): blocks while the journal is full. A closed port toward the
owner refuses it with reason 3 (R365). -/
def postStore (s : State) (dst : CoreId) (addr : Word) (data : List (Nat × List Byte)) (rel : Bool) : Res State :=
  match freeEntry s.core with
  | none => .error .block
  | some j =>
    let (i, s) := nextTxn s
    let e : JEntry := ⟨dst, addr, s.kind, actTag s, data, i, true⟩
    let s := { s with core := { s.core with journal := vset s.core.journal j (some e) } }
    if coreShut s s.cur dst then
      let s := coreRec s s.cur 1 0x12 (actTag s) (storeEval (actTag s) j 3 addr) 0
      .ok (sendAs s dst s.cur 0xffff (.storeRefused j 3 addr))
    else .ok (sendFrom s dst (.store j s.kind data addr rel))

/-! The bank array (R202 to R205): which accesses wait for a bank. It alters no value. -/

/-- Data bank, row and byte of an offset; banks 0 to 3 are half 0 (R202). -/
def bankOf (off : Nat) : Nat := off / 64 % 8
def bankRow (off : Nat) : Nat := off / 512
def bankByte (off : Nat) : Nat := off % 64
def bankHalf (off : Nat) : Nat := bankOf off / 4

/-- The offset of a byte of a data bank. -/
def bankOff (bank row byte : Nat) : Nat := row * 512 + bank * 64 + byte

/-- A byte of a data bank, as local memory holds it. -/
def bankData (s : State) (k : CoreId) (bank row byte : Nat) : Byte := Mem.get s.arr (lmKey k (bankOff bank row byte))

/-- A byte of the parity bank of a half: the exclusive-or of its four data banks, row by row (R202). -/
def parityByte (s : State) (k : CoreId) (half row byte : Nat) : Byte :=
  bankData s k (4 * half) row byte ^^^ bankData s k (4 * half + 1) row byte ^^^
    bankData s k (4 * half + 2) row byte ^^^ bankData s k (4 * half + 3) row byte

/-- A byte rebuilt from the other three data banks of its half and the parity bank (R204 step 3). -/
def rebuiltByte (s : State) (k : CoreId) (off : Nat) : Byte :=
  (((upto 4).map (4 * bankHalf off + ·)).filter (· != bankOf off)).foldl
    (fun x b => x ^^^ bankData s k b (bankRow off) (bankByte off)) (parityByte s k (bankHalf off) (bankRow off) (bankByte off))

/-- Read priority of a context (R204). -/
def bankPrio : CtxKind → Nat
  | .handler => 0
  | .task => 1

/-- An access of n bytes enters the bank order of core k, one request per 64-byte block (R203). -/
def bankAdd (s : State) (k : CoreId) (write : Bool) (prio off n : Nat) : State :=
  let rs := (upto ((off + n - 1) / 64 - off / 64 + 1)).map (fun i => (⟨write, prio, (off / 64 + i) * 64⟩ : BankReq))
  modCore s k (fun c => { c with banks := c.banks ++ rs })

/-- The 64-byte blocks that pieces (offset, length) touch, each once, in order (R203). -/
def blocksTouched (ps : List (Nat × Nat)) : List Nat :=
  ps.foldl (fun acc p => (upto ((p.1 + p.2 - 1) / 64 - p.1 / 64 + 1)).foldl (fun a i =>
    if a.contains (p.1 / 64 + i) then a else a ++ [p.1 / 64 + i]) acc) []

/-- One access of several pieces enters the bank order: one request for each distinct block (R203). -/
def bankPieces (s : State) (k : CoreId) (write : Bool) (prio : Nat) (ps : List (Nat × Nat)) : State :=
  (blocksTouched ps).foldl (fun s b => bankAdd s k write prio (64 * b) 1) s

/-- The waiting reads in priority order, arrival order within one priority. -/
def bankReads (rs : List BankReq) : List BankReq :=
  ((upto 4).map (fun p => rs.filter (fun r => !r.write && r.prio == p))).flatten

/-- One ck of the bank array (R204): the requests that still wait. -/
def bankCycle (rs : List BankReq) : List BankReq :=
  let bank := fun (r : BankReq) => bankOf r.off
  let w := rs.find? (fun r => r.write)
  let isW := fun (b : Nat) => (w.map (fun x => bank x == b)).getD false
  let halfW := fun (b : Nat) => (w.map (fun x => bank x / 4 == b / 4)).getD false
  let after := match w with
    | some x => rs.erase x
    | none => rs
  match bankReads rs with
  | [] => after
  | r1 :: rest =>
    let after := if isW (bank r1) then after else after.erase r1
    match rest with
    | [] => after
    | r2 :: _ =>
      let ok := !isW (bank r2) && (bank r2 != bank r1 || !halfW (bank r2))
      if ok then after.erase r2 else after

/-- n ck of a core's bank array. -/
def bankRun : Nat → List BankReq → List BankReq
  | 0, rs => rs
  | n + 1, rs => match rs with
    | [] => []
    | _ => bankRun n (bankCycle rs)

/-- The tile cache's requester number of the core that steps. -/
def myReq (s : State) : Nat := tileReq (myTile s)

/-- Bytes read at a place that answers at once. -/
def readPlace (s : State) (ea : Word) (n : Nat) : Place → Res (List Byte × State)
  | .virt segs => do
    checkPoison s ea segs
    pure (readSegs s.pmem segs, touchSegs s (myReq s) segs)
  | .own off => .ok (arrRead s s.core.ctxnum (lmKey s.cur off) n, bankAdd s s.cur false (bankPrio s.kind) off n)
  | .remote .. => .ok ([], s)

/-- Bytes stored at a place (R259). -/
def storePlace (s : State) (ea : Word) (bs : List Byte) : Place → Res State
  | .virt segs => .ok (writeSegs s (myReq s) segs bs)
  | .own off => .ok (bankAdd (arrWrite s s.core.ctxnum (lmKey s.cur off) bs) s.cur true (bankPrio s.kind) off bs.length)
  | .remote k off => postStore s k ea [(off, bs)] false

/-- The value n loaded bytes give d (R258). -/
def loaded (n : Nat) (sx : Bool) (bs : List Byte) : Word :=
  let v := BitVec.ofNat 64 (ofLe bs)
  if sx then sextTo (8 * n) v else v

end Sys2Proof.Machine
end

