-- ==== Sys2Proof/Machine/Fetch.lean ====
section
/-!
DEFINITION. Instruction fetch by the core that steps: the fill of a leaf into its instruction cache (R32, R215, R352),
the sequential successor (R15), and the checks of a new pc (R44).
-/
namespace Sys2Proof.Machine

/-- The result of a page's first check is kept (R352). -/
def noteHash (s : State) (ctx : CtxNum) (page pa : Nat) : State :=
  match hashResult s ctx page, pageHash s ctx page with
  | none, some _ =>
    { s with tsu := { s.tsu with hashed := s.tsu.hashed ++ [(ctx, page, pageOk s ctx page pa)] } }
  | _, _ => s

/-- The result of the check of the page that the pc names, also of one that fails. -/
def noteFetch (s : State) : State :=
  let ctx := s.core.ctxnum
  let leaf := leafOf (cx s).pc
  if targetOk (cx s).pc then
    match translate s (nearOf s s.cur) ctx leaf.toNat .x with
    | .ok pa => noteHash s ctx (leaf.toNat / 4096 * 4096) pa
    | _ => s
  else s

/-- Is the installed leaf older than memory? -/
def staleAt (s : State) (k : CoreId) (ctx : CtxNum) (leaf : Word) (pa : Nat) : Bool :=
  match installed (coreOf s k) ctx leaf pa with
  | some l => l.image != imageOf (Mem.read s.pmem pa 64)
  | none => false

/-- Fetch of the leaf that holds address `a` by the core that steps. -/
def fetchLeaf (s : State) (a : Word) : Res Fetched := leafAt s s.cur a

/-- Lines of a core's instruction cache: those of its leaves, detached ones among them, and those of which it holds tokens (R213, R215). -/
def icacheLines (s : State) (k : CoreId) : List Nat :=
  ((coreOf s k).icache.map (fun (l : Leaf) => l.pa / 128) ++ linesOf s (icacheReq k)).eraseDups

/-- The line that an instruction cache replaces to hold another: of a full set of four ways, a free choice (R213; log 22). -/
def icacheVictim (s : State) (k : CoreId) (l : Nat) : Option Nat :=
  let ls := icacheLines s k
  if ls.length < 4 ∨ ls.contains l = true then none
  else
    let same := ls.filter fun x => Config.icacheSet x % 32 == Config.icacheSet l % 32
    if same.length < 4 then none else some (victimOf s same)

/-- A line leaves an instruction cache with its leaves, and its tokens go home (R215, R218). -/
def icacheDrop (s : State) (k : CoreId) (v : Nat) : State :=
  let s := { setLine s v ((lineOf s v).surrender (icacheReq k)) with fresh := s.fresh + 1 }
  modCore s k fun c => { c with icache := c.icache.filter fun l => l.pa / 128 != v }

/-- A leaf installed in a core's instruction cache, which takes a token of its line (R215). -/
def install (s : State) (k : CoreId) (ctx : CtxNum) (leaf : Word) (pa : Nat) (im : Vec) : State :=
  let s := match icacheVictim s k (pa / 128) with
    | some v => icacheDrop s k v
    | none => s
  let s := touchR s (icacheReq k) pa 64
  let c := coreOf s k
  setCore s k { c with icache := c.icache.filter (fun l => !(l.ctx == ctx && l.va == leaf && l.pa == pa)) ++ [⟨ctx, leaf, pa, im⟩] }

/-- Address of slot 1 of a leaf's successor, or of the next slot (R15). -/
def succOf (a : Word) (h : Nat) : Word := if slotOf a < h then a + 2 else leafOf a + 66

/-- The bits EVAL shows of an instruction: head, then tails upward (R38). -/
def rawOf (hs : List Half) : Word := BitVec.ofNat 64 (digits 16 (fun i => hs[i]?.getD 0) hs.length)

/-- Fetch at the pc of the context that steps: the halfwords of the instruction and the state with its leaf
installed and succ and raw recorded. A slot outside [1, h], or an odd pc, is a bad target (R14, R25). -/
def fetch (s : State) : Res (List Half × State) := do
  let pc := (cx s).pc
  need (targetOk pc) 0x03 pc
  let f ← fetchLeaf s pc
  need (decide (slotOf pc ≤ leafH f.image)) 0x03 pc
  let ctx := s.core.ctxnum
  let hs := leafSlot f.image (slotOf pc) :: tailsOf f.image (slotOf pc)
  let s := noteHash s ctx ((leafOf pc).toNat / 4096 * 4096) f.pa
  let s := if staleAt s s.cur ctx (leafOf pc) f.pa then { s with fresh := s.fresh + 1 } else s
  let s := if f.fill then install s s.cur ctx (leafOf pc) f.pa f.image else s
  pure (hs, setCx s { cx s with succ := succOf pc (leafH f.image), raw := rawOf hs })

/-- R44 on a new pc: step 1, and step 3 when the target leaf can be fetched and is bound; a target leaf that
cannot be fetched faults at the target, after this instruction. -/
def checkTarget (s : State) (t : Word) : Res Unit :=
  if !targetOk t then exc 0x03 t
  else
    match fetchLeaf s t with
    | .ok f => need (decide (slotOf t ≤ leafH f.image)) 0x03 t
    | .error _ => .ok ()

/-- branch_target of R44 for the context that steps. -/
def branchTarget (s : State) (t : Target) : Word :=
  leafOf (cx s).pc + (t.lo.signExtend 64) * 64 + BitVec.ofNat 64 (2 * t.slot.toNat)

end Sys2Proof.Machine
end

