-- ==== Sys2Proof/Machine/Csr.lean ====
section
/-!
DEFINITION. Control registers: number, rights, value read and the effect of a write (R16 to R20, R33, R102, R103,
R133, R134, R159, R206, R210, R282, R302, R307, R319, R343, R364, R417).
-/
namespace Sys2Proof.Machine

/-- Do something as another core and context, then come back. -/
def asCore (s : State) (k : CoreId) (h : CtxKind) (f : State → State) : State :=
  focus (f (focus s k h)) s.cur s.kind

/-- Rights of a control register: read needs S; write is absent, or needs S (R16). -/
structure Rights where
  readS : Bool
  write : Option Bool
deriving DecidableEq, Repr

/-- Every implemented register number with its rights. -/
def csrRights (n : Nat) : Option Rights :=
  if n ≤ 0x004 then some ⟨true, some true⟩
  else if n = 0x010 ∨ n = 0x011 ∨ n = 0x012 then some ⟨false, none⟩
  else if n = 0x013 ∨ n = 0x014 then some ⟨true, some true⟩
  else if n = 0x020 ∨ n = 0x021 then some ⟨false, some true⟩
  else if n = 0x022 then some ⟨false, none⟩
  else if 0x030 ≤ n ∧ n ≤ 0x03f then some ⟨false, some true⟩
  else if n = 0x040 ∨ n = 0x041 then some ⟨false, none⟩
  else if n = 0x042 ∨ n = 0x044 ∨ n = 0x045 then some ⟨true, some true⟩
  else if n = 0x043 then some ⟨true, none⟩
  else if n = 0x050 ∨ n = 0x051 then some ⟨false, some false⟩
  else if n = 0x052 ∨ n = 0x053 then some ⟨false, some true⟩
  else if n = 0x054 then some ⟨false, none⟩
  else if 0x058 ≤ n ∧ n ≤ 0x06f then some ⟨false, none⟩
  else if 0x070 ≤ n ∧ n ≤ 0x072 then some ⟨true, some true⟩
  else none

/-- The reset value of RAMP (R307). -/
def rampReset : Word := 0x1111111111112222

def rampOf (s : State) (sg : Nat) : Word × Bool := (SMap.get? s.ramp sg).getD (rampReset, false)

/-! KSTAT (R364). -/

def KState.code : KState → Nat
  | .lit => 0 | .dark => 1 | .appeal => 2 | .admitting => 3 | .fenced => 4

/-- A vote counts until its age reaches 8,192 ck (R361). -/
def Vote.live (v : Vote) (ck : Nat) : Bool := decide (ck < v.born + 8192)

/-- Bits 0 to 3 for north, east, south, west. -/
def dirBits (f : Dir → Bool) : Nat :=
  (f .north).toNat + (f .east).toNat * 2 + (f .south).toNat * 4 + (f .west).toNat * 8

def kstat (s : State) (t : TileId) : Word :=
  let kp := (tileOf s t).keeper
  let votes := dirBits (fun d => match tileBeside t d with
    | none => false
    | some x => kp.votes.any (fun v => v.voter == t && v.suspect == x && v.live s.ck))
  let dark := dirBits (fun d => match tileBeside t d with
    | none => false
    | some x => kp.dark.contains x.toNat)
  let edge := dirBits (fun d => (tileBeside t d).isNone)
  BitVec.ofNat 64 (kp.fails % 4 * 2 ^ 22 + kp.state.code * 2 ^ 19 + votes * 2 ^ 12 + dark * 2 ^ 8 + edge * 2 ^ 4)

/-! Derived registers. -/

/-- STATUS as read (R17): CTX and TP are derived, and a handler is in user mode (R156). -/
def statusOf (s : State) : Word :=
  let c := cx s
  let tp := (timerPending s s.core).toNat
  match s.kind with
  | .task => c.status ||| BitVec.ofNat 64 (tp * 2048)
  | .handler => c.status ||| BitVec.ofNat 64 (4096 + tp * 2048)

/-- HBUDGET (R159). -/
def hbudget (s : State) : Word :=
  match s.core.act with
  | none => s.core.hlimit.setWidth 64
  | some a => BitVec.ofNat 64 (2 ^ 32 + (a.endCk - s.ck) % 2 ^ 16 * 2 ^ 16 + s.core.hlimit.toNat)

/-- JHEAD (R210). -/
def jhead (c : Core) : Word := BitVec.ofNat 64 (wordOfBits (fun j => (vget c.journal j none).isSome) 32)

/-- SRCH: ck with no slot RUNNING (R417). -/
def srchOf (s : State) : Word :=
  BitVec.ofNat 64 (s.core.srch + (if s.core.running.isNone then s.ck - s.core.srchFrom else 0))

/-- MPROG with STOP derived from the engine's standing request (R302). -/
def mprogOf (s : State) : Word :=
  let m := (tileOf s (myTile s)).mte
  let mine := match m.run with
    | some r => r.cmd.issuer == s.cur
    | none => false
  setBit s.core.mprog 62 ((m.stopReq.isSome && mine) || m.wb.any (fun w => w.req && w.cmd.issuer == s.cur))

/-- The value a read returns. -/
def csrGet (s : State) (n : Nat) : Word :=
  let c := cx s
  let k := s.core
  let win := fun i => vget k.wins i Window.reset
  let view := fun i => vget k.views i View.reset
  if n = 0x000 then statusOf s
  else if n = 0x001 then c.cause
  else if n = 0x002 then c.epc
  else if n = 0x003 then c.eval
  else if n = 0x004 then k.tvec
  else if n = 0x010 then coreid s.cur
  else if n = 0x011 then k.ctxnum.setWidth 64
  else if n = 0x012 then cycleOf s k
  else if n = 0x013 then k.timecmp
  else if n = 0x014 then c.sealerr
  else if n = 0x020 then (tileOf s (myTile s)).qmap
  else if n = 0x021 then hbudget s
  else if n = 0x022 then kstat s (myTile s)
  else if n < 0x034 then (win (n - 0x030)).base
  else if n < 0x038 then (win (n - 0x034)).lim
  else if n < 0x03c then (win (n - 0x038)).perm
  else if n < 0x040 then (win (n - 0x03c)).rect
  else if n = 0x040 then jhead k
  else if n = 0x041 then BitVec.ofNat 64 (rscount k s.kind)
  else if n = 0x042 then k.vsave
  else if n = 0x043 then c.faultx
  else if n = 0x044 then 0
  else if n = 0x045 then c.kscr
  else if n = 0x050 then k.copyid
  else if n = 0x051 then k.copyepc
  else if n = 0x052 then mprogOf s
  else if n = 0x053 then k.mprogc
  else if n = 0x054 then (rampOf s (sgOf s.cur)).1
  else if n < 0x060 then (view (n - 0x058)).w
  else if n < 0x068 then (view (n - 0x060)).b
  else if n < 0x070 then (view (n - 0x068)).x
  else if n = 0x070 then k.trctl
  else if n = 0x071 then srchOf s
  else k.stealf

/-- `old` with the bits of `mask` taken from `v` (R103). -/
def maskedW (mask old v : Word) : Word := (old &&& ~~~mask) ||| (v &&& mask)

/-- A write of QMAP: queues whose producer or consumer changes lose their entries (R134). -/
def putQmap (s : State) (t : TileId) (v : Word) : State :=
  let x := tileOf s t
  let q := maskedW 0x000000fcffffffff x.qmap v
  let qs := (upto 8).foldl (fun (qs : Vector (List Word) 8) j =>
    if fld q (4 * j) 4 = fld x.qmap (4 * j) 4 then qs else vset qs j []) x.queues
  let lost := (upto 8).filter fun j => fld q (4 * j) 4 != fld x.qmap (4 * j) 4
  let s := setTile s t { x with qmap := q, queues := qs }
  lost.foldl (fun s j => modCore s (coreOfTile t (qConsumer x.qmap j)) fun c =>
    { c with task := c.task.forgets (.s (BitVec.ofNat 6 (32 + j))), hand := c.hand.forgets (.s (BitVec.ofNat 6 (32 + j))) }) s

/-- TRCTL as stored: CHMAX 0 stores 1, MODE 3 stores 0 (R417). -/
def trctlStore (old v : Word) : Word :=
  let w := maskedW 0x0000fffffffff00f old v
  let w := if fld w 32 16 = 0 then setFld w 32 16 1 else w
  if fld w 0 2 = 3 then setFld w 0 2 0 else w

/-- A RAMP entry of 0 stores 1 (R307). -/
def rampStore (v : Word) : Word :=
  BitVec.ofNat 64 (digits 4 (fun i => let e : BitVec 4 := v.extractLsb' (4 * i) 4; if e = 0 then 1 else e) 16)

/-- A write of MPROG: 0 clears V, STOP requests a stop of the command this core issued (R301, R302). -/
def putMprog (s : State) (v : Word) : State :=
  let t := myTile s
  let x := tileOf s t
  let mine := match x.mte.run with
    | some r => r.cmd.issuer == s.cur
    | none => false
  let s := { s with core := { s.core with mprog := if bit v 63 then s.core.mprog else setBit s.core.mprog 63 false } }
  if bit v 62 && mine then setTile s t { x with mte := { x.mte with stopReq := some (x.mte.stopReq.getD s.ck) } } else s

def modWin (s : State) (i : Nat) (f : Window → Window) : State :=
  { s with core := { s.core with wins := vset s.core.wins i (f (vget s.core.wins i Window.reset)) } }

/-- A write of STATUS: the run time of the RUNNING slot is counted while the task context's NEST is 0 (R418). -/
def putStatus (s : State) (v : Word) : State :=
  let c := cx s
  let k := s.core.runStop s.ck
  let s := match s.kind with
    | .task => { s with core := if c.nest then k.runStart s.ck else k }
    | .handler => s
  setCx s { cx s with status := maskedW 0x720 c.status v }

/-- A write of TRCTL. The first core that enters replay starts it at the SEQ that system software has named (R417, R421). -/
def putTrctl (s : State) (v : Word) : State :=
  let w := trctlStore s.core.trctl v
  let starts := fld w 0 2 == 2 && !(fld s.core.trctl 0 2 == 2 || s.others.any fun x => fld x.2.trctl 0 2 == 2)
  let s := { s with core := { s.core with trctl := w } }
  if starts then { s with eva := { s.eva with replay := s.eva.named, matched := [] } } else s

/-- The effect of a write of `v`, RO fields kept (R103). -/
def csrPut (s : State) (n : Nat) (v : Word) : State :=
  let c := cx s
  let k := s.core
  if n = 0x000 then putStatus s v
  else if n = 0x001 then setCx s { c with cause := maskedW 0x80000000000000ff c.cause v }
  else if n = 0x002 then setCx s { c with epc := maskedW 0xfffffffffffffffe c.epc v }
  else if n = 0x003 then setCx s { c with eval := v }
  else if n = 0x004 then { s with core := { k with tvec := maskedW 0xfffffffffffffffe k.tvec v } }
  else if n = 0x013 then { s with core := { k with timecmp := v } }
  else if n = 0x014 then setCx s { c with sealerr := maskedW 0x0000000fffffffff c.sealerr v }
  else if n = 0x020 then putQmap s (myTile s) v
  else if n = 0x021 then
    { s with core := { k with hlimit := if fld v 0 16 < 64 then 64 else BitVec.ofNat 16 (fld v 0 16) } }
  else if n < 0x030 then s
  else if n < 0x034 then modWin s (n - 0x030) (fun w => { w with base := maskedW 0xffc0 w.base v })
  else if n < 0x038 then
    modWin s (n - 0x034) (fun w => { w with lim := if 0x300 < fld v 6 10 then 0xc000 else maskedW 0xffc0 w.lim v })
  else if n < 0x03c then modWin s (n - 0x038) (fun w => { w with perm := maskedW 0x7 w.perm v })
  else if n < 0x040 then modWin s (n - 0x03c) (fun w => { w with rect := maskedW 0xfffff w.rect v })
  else if n = 0x042 then { s with core := { k with vsave := maskedW 0xfffffffffffff000 k.vsave v } }
  else if n = 0x044 then killTask s s.cur (fld v 0 6) (BitVec.ofNat 8 (fld v 8 8)) 0
  else if n = 0x045 then setCx s { c with kscr := v }
  else if n = 0x050 then { s with core := { k with copyid := maskedW 0x0000000100000000 k.copyid v } }
  else if n = 0x051 then { s with core := { k with copyepc := maskedW 0xfffffffffffffffe k.copyepc v } }
  else if n = 0x052 then putMprog s v
  else if n = 0x070 then putTrctl s v
  else s

/-- The shared shape of CSRD, CSWR, CSSET and CSCLR (R102): what is written is a function of the old value
and the source, `none` for CSRD, whose source field has no role. -/
def csrOp (s : State) (d : Spec) (n : BitVec 10) (a : Spec) (f : Option (Word → Word → Word)) : Host.Outcome State Fault Refusal :=
  finish s do
    let r := csrRights n.toNat
    match r, f with
    | some ⟨_, none⟩, some _ => illegal s
    | _, _ => pure ()
    checkUses [.dstS d]
    match r with
    | none => exc 0x02 (n.setWidth 64)
    | some r =>
      match f with
      | none =>
        need (!(r.readS && userMode s)) 0x08 0
        checkRoles s [.dstS d]
        writeS s d (csrGet s n.toNat)
      | some g =>
        checkUses [.srcS a]
        need (!((r.readS || r.write == some true) && userMode s)) 0x08 0
        checkRoles s [.srcS a, .dstS d]
        let (x, s1) ← readS s a
        let old := csrGet s1 n.toNat
        writeS (csrPut s1 n.toNat (g old x)) d old

end Sys2Proof.Machine
end

