-- ==== Sys2Proof/Machine/Sched.lean ====
section
/-!
DEFINITION. What a core's contexts wait for and when they go on: pending events (R336 to R341), completion entries
(R283), the ready queue (R152, R183), gangs (R145, R147), named barriers (R168 to R170), and the completion of an
issued or blocked instruction (R105, R194, R260, R265 to R269, R325).
-/
namespace Sys2Proof.Machine

/-! The ready queue. -/

def slotAt (c : Core) (j : Nat) : Slot := vget c.slots j Slot.reset

def RqState.code : RqState → Nat
  | .free => 0 | .ready => 1 | .running => 2 | .asleep => 3

/-- The state word of a slot (R183). -/
def slotWord (k : CoreId) (j : Nat) (sl : Slot) : Word :=
  BitVec.ofNat 64 ((tagOf k j).toNat * 2 ^ 16 + sl.fresh.toNat * 256 + sl.prio.toNat * 4 + sl.st.code)

/-- The better of two slots: lower priority number, then earlier entry into READY (R152). -/
def better (c : Core) (a b : Nat) : Nat :=
  let x := slotAt c a
  let y := slotAt c b
  if y.prio < x.prio ∨ (y.prio = x.prio ∧ y.order < x.order) then b else a

def bestOf (c : Core) : List Nat → Option Nat
  | [] => none
  | j :: r => some (r.foldl (better c) j)

/-- The slot RQTAKE would choose (R152). -/
def bestReady (c : Core) : Option Nat := bestOf c ((upto 64).filter (fun j => (slotAt c j).st = .ready))

/-- The lowest FREE slot that no purge holds (R153, R345). -/
def freeSlot (c : Core) : Option Nat := (upto 64).find? (fun j => (slotAt c j).st = .free && !(slotAt c j).purging)

/-- The slot whose READY state raises the priority event (R341). -/
def outranking (c : Core) : Option Nat :=
  match c.running, bestReady c with
  | none, some j => some j
  | some r, some j => if (slotAt c j).prio < (slotAt c r).prio then some j else none
  | _, none => none

/-! Events. -/

/-- The completion entry that R283 would deliver. -/
def deliverable (s : State) (k : CoreId) : Option Completion :=
  let c := coreOf s k
  if c.task.ie && !c.task.prv && bit c.copyid 32 then
    match c.running with
    | some j => c.compQ.find? (fun e => e.tag == tagOf k j)
    | none => none
  else none

/-- An asynchronous event is pending for the task context of a core (R336, R337). -/
def eventPending (s : State) (k : CoreId) : Bool :=
  let c := coreOf s k
  timerPending s c || !c.eventQ.isEmpty || (outranking c).isSome

/-- The order of R338 among queued codes. -/
def eventOrder : List (BitVec 8) := [0x15, 0x12, 0x13, 0x14, 0x17, 0x16]

/-- The first pending event under R338: its code, its EVAL and the queue without it. -/
def nextEvent (s : State) (k : CoreId) : Option (BitVec 8 × Word × List Event) :=
  let c := coreOf s k
  match eventOrder.findSome? (fun code => c.eventQ.find? (fun e => e.code == code)) with
  | some e => some (e.code, e.eval, c.eventQ.erase e)
  | none =>
    match outranking c with
    | some j => some (0x11, (tagOf k j).setWidth 64, c.eventQ)
    | none => if timerPending s c then some (0x10, cycleOf s c, c.eventQ) else none

/-! Gangs. -/

/-- Member i of a gang of a size with its leader (R145). -/
def gangMember (leader : CoreId) (size i : Nat) : CoreId :=
  let w := if size = 8 then 4 else 2
  coreAt (coreX leader + i % w) (coreY leader + i / w)

/-- The leader of the aligned block that holds a core. -/
def gangLeader (k : CoreId) (size : Nat) : CoreId :=
  let w := if size = 8 then 4 else 2
  let h := if size = 2 then 1 else 2
  coreAt (coreX k / w * w) (coreY k / h * h)

def gangIndex (k : CoreId) (size : Nat) : Nat :=
  let l := gangLeader k size
  let w := if size = 8 then 4 else 2
  (coreX k - coreX l) + w * (coreY k - coreY l)

def gangMembers (g : Gang) : List CoreId := (upto g.size).map (gangMember g.leader g.size)

/-- A member leaves its gang; an instruction that it has yet to complete with the others it issues alone (R147). -/
def Core.leaveGang (c : Core) : Core :=
  { c with gang := none, task := if c.task.wait = .joined then { c.task with wait := .none } else c.task }

/-- The gang of a core ends; every member keeps its pc (R147, R175). -/
def dissolve (s : State) (k : CoreId) : State :=
  match (coreOf s k).gang with
  | none => s
  | some g => (k :: gangMembers g).foldl (fun s m => modCore s m Core.leaveGang) s

/-- Has a context's last attempt ended in a trap? -/
def hasTrapped (x : Ctx) : Bool :=
  match x.last with
  | .trapped _ => true
  | _ => false

/-- A trap in a member dissolves its gang (R147). -/
def dissolveTrapped (s : State) (k : CoreId) : State :=
  if hasTrapped (coreOf s k).task then dissolve s k else s

/-- The gang of the context that steps ends: a handler is in none (R79, R145). -/
def dissolveMine (s : State) : State :=
  match s.kind with
  | .task => dissolve s s.cur
  | .handler => s

/-! Named barriers (R168, R169). -/

def barTarget (w : Word) : Nat := fld w 40 12
def barCount (w : Word) : Nat := fld w 28 12
def barPending (w : Word) : Int := toIntN 28 (fld w 0 28)

/-- Waiters of a barrier are released (R170, R194). -/
def releaseWaiters (c : Core) (b : Nat) : Core :=
  let f := fun (x : Ctx) => match x.wait with
    | .bwait i d a _ => if i.toNat = b then { x with wait := .bwait i d a true } else x
    | _ => x
  { c with task := f c.task, hand := f c.hand }

/-- An event of this ck at barrier b of core k: arrivals and pending bytes, which its other events join (R169). -/
def barAdd (s : State) (k : CoreId) (b arr : Nat) (delta : Int) : State :=
  modCore s k fun c =>
    let x := (SMap.get? c.barIn b).getD (0, 0)
    { c with barIn := SMap.put c.barIn b (x.1 + arr, x.2 + delta) }

/-- The sum of one ck's events applied to barrier b of core k, then completion or overflow (R169). A barrier that is left with what
completes a phase completes it in the next ck. -/
def barApply (s : State) (k : CoreId) (b arr : Nat) (delta : Int) : State :=
  let c := coreOf s k
  let w := vget c.bars b 0
  if bit w 63 then s
  else
    let cnt := barCount w + arr
    let p := barPending w + delta
    if 4095 < cnt ∨ p < -(2 ^ 27) ∨ 2 ^ 27 ≤ p then
      let w' := setBit w 63 true
      let s := setCore s k { c with bars := vset c.bars b w' }
      coreRec s k 1 0xe0 0xffff (BitVec.ofNat 64 (k.toNat * 2 ^ 16 + b)) w'
    else
      let tgt := barTarget w
      if tgt ≠ 0 ∧ tgt ≤ cnt ∧ p = 0 then
        let w' := setBit (setFld (setFld w 28 12 (cnt - tgt)) 0 28 0) 62 (!bit w 62)
        let s := setCore s k (releaseWaiters { c with bars := vset c.bars b w' } b)
        if tgt ≤ cnt - tgt then barAdd s k b 0 0 else s
      else
        setCore s k { c with bars := vset c.bars b (setFld (setFld w 28 12 cnt) 0 28 (p % 2 ^ 28).toNat) }

/-- The end of a ck at the barriers of core k (R169). -/
def barSettle (s : State) (k : CoreId) : State :=
  let c := coreOf s k
  c.barIn.foldl (fun s x => barApply s k x.1 x.2.1 x.2.2) (setCore s k { c with barIn := [] })

/-- Cores whose state is listed. -/
def listedCores (s : State) : List CoreId := s.cur :: s.others.map fun x => BitVec.ofNat 10 x.1

/-- The end of a ck at every barrier of the part. -/
def barSettleAll (s : State) : State :=
  ((listedCores s).filter fun k => !(coreOf s k).barIn.isEmpty).foldl barSettle s

/-- Is some event of this ck at a barrier? -/
def barDue (s : State) : Bool := (listedCores s).any fun k => !(coreOf s k).barIn.isEmpty

/-- The ends of n ck at the barriers: with no further event, each completion is followed by the next (R169). -/
def barRun : Nat → State → State
  | 0, s => s
  | n + 1, s => if barDue s then barRun n (barSettleAll s) else s

/-! Launch acceptance (R153, R155, R187). -/

/-- The tile takes launches and activations (R353 step 1, R368). -/
def tileOpen (s : State) (t : TileId) : Bool :=
  !(tileOf s t).held && isLit s t

/-- A core of an open tile that no double fault has stopped (R24). -/
def coreOpen (s : State) (k : CoreId) : Bool := tileOpen s (tileOfCore k) && !(coreOf s k).dead

/-- The slot of an accepted launch (R153, R183). -/
def launchSlot (l : LaunchMsg) (cyc : Word) (order : Nat) : Slot :=
  { Slot.reset with
    st := .ready, prio := l.prio, fresh := true, entry := l.entry, id := l.id, desc := l.desc, parent := l.parent
    arg := l.arg, readyCk := cyc, order := order, rootQ := l.rootQ, accCk := cyc }

/-- The launch at the head of the queue takes the lowest FREE slot; a root launch of the LDS becomes the owner of
every handler entry (R153, R155). A launch of a context that the core no longer runs is gone (R8). -/
def launchAccept (s : State) (k : CoreId) : State :=
  let c := coreOf s k
  if !coreOpen s k then s
  else
    match c.launchQ, freeSlot c with
    | l :: q, some j =>
      if l.ctx ≠ c.ctxnum then setCore s k { c with launchQ := q }
      else
        let c := { c.setSlot j (launchSlot l (cycleOf s c) c.readyCount) with launchQ := q, readyCount := c.readyCount + 1 }
        let own := fun (e : Option HEntry) => e.map fun e => { e with owner := some (tagOf k j) }
        setCore (mirrorSlot s k j (some l.parent)) k (if l.rootQ.isSome then { c with handlers := c.handlers.map own } else c)
    | _, _ => s

/-- Launches are accepted at the end of a ck, after the core's own operation on its ready queue and every STEAL (R187). -/
def launchesIn (s : State) : State :=
  ((listedCores s).filter fun k => (coreOf s k).launchDue).foldl
    (fun s k => launchAccept (modCore s k fun c => { c with launchDue := false }) k) s

/-! MTE commands that a core still has accepted (R325). -/

def mteHolds (s : State) (k : CoreId) (v : BitVec 3) : Bool :=
  let m := (tileOf s (tileOfCore k)).mte
  let mine := fun (c : MCmd) => c.issuer == k && c.cv == v
  m.queue.any mine || (match m.run with
    | some r => mine r.cmd
    | none => false) || m.wb.any (fun w => mine w.cmd)

/-! Replies to outstanding accesses. -/

/-- The first packet that satisfies a test, and the packets without it. -/
def takeFirst {α : Type} (p : α → Bool) : List α → Option (α × List α)
  | [] => none
  | x :: r =>
    if p x then some (x, r)
    else
      match takeFirst p r with
      | some (y, r') => some (y, x :: r')
      | none => none

def isReply (k : CoreId) (h : CtxKind) (p : Packet) : Bool :=
  p.dst == k && (match p.body with
    | .loadReply h' _ | .atomicReply h' .. => h' == h
    | .loadRefused h' .. => h' == h
    | _ => false)

/-- The result of the far atomic with a tag (R246): that of an activation which has ended is nobody's. -/
def isFarReply (k : CoreId) (h : CtxKind) (t : BitVec 16) (p : Packet) : Bool :=
  p.dst == k && (match p.body with
    | .farReply h' t' _ | .farBad h' t' _ => h' == h && t' == t
    | _ => false)

/-- Loaded bytes put into the lanes of a vector register (R128, R129). -/
def putPieces (v : Vec) : List Piece → List Byte → Vec
  | [], _ => v
  | p :: r, bs => putPieces (setFld v (8 * p.pos) (8 * p.n) (ofLe (bs.take p.n))) r (bs.drop p.n)

/-- EVAL of the window-refusal fault (R208). -/
def refusalEval (addr : Word) (reason : BitVec 4) : Word := setFld addr 36 4 reason.toNat

/-- The refusal of the lower element (R129, R208). -/
def lowerRefusal (bad : Option (Nat × Word × BitVec 4)) (x : Nat × Word × BitVec 4) : Option (Nat × Word × BitVec 4) :=
  match bad with
  | some y => if y.1 < x.1 then some y else some x
  | none => some x

/-- A vector load goes on: it ends when every owner has answered, and takes its sources only if none refused (R42,
R112, R129, R208). -/
def gatherEnd (s : State) (d : Spec) (left : List (CoreId × List Piece)) (acc : Vec) (bad : Option (Nat × Word × BitVec 4)) : State :=
  match left, bad with
  | [], none => retire (putV (takeAll s) d.toNat acc)
  | [], some x => raise (endWait s) { code := 0x1a, eval := refusalEval x.2.1 x.2.2 }
  | _, _ => waiting s (.gather d left acc bad)

/-- The end of TEXIT once the journal is empty: of the slot only its state changes (R188; log 64). -/
def texitEnd (s : State) : State :=
  let k := s.cur
  match s.core.running with
  | none => raiseAt s { code := 0x0b, eval := 0xffff } (cx s).succ
  | some j =>
    let tag := tagOf k j
    let sl := slotAt s.core j
    let s := mirrorSlot (acctRec s k j 0) k j none
    let s := freeStreams s k tag
    let s := orphanCmds (dropCompletions (modCore s k (deadStores tag)) k tag sl.parent) tag
    let c := coreOf s k
    let s := setCore s k { c.setSlot j { slotAt c j with st := .free } with srchFrom := s.ck }
    raiseAt s { code := 0x0b, eval := tag.setWidth 64 } (cx s).succ

end Sys2Proof.Machine
end

