-- ==== Sys2Proof/Machine/Memory.lean ====
section
/-!
DEFINITION. Memory access, atomic and fence instructions (R254 to R273).
-/
namespace Sys2Proof.Machine

open Host (Outcome)

/-- Bytes of an access width (R258). -/
def laneBytes (w : LaneW) : Nat := laneBits w / 8
def extBytes (w : ExtW) : Nat := extBits w / 8
def casBytes (w : CasW) : Nat := casBits w / 8

/-- A request to another core that returns a value: at once refused with reason 3 by a closed port toward that
core's tile (R365), else sent, and the context waits (R260), its sources not yet taken (R42). -/
def askRemote (s : State) (ts : List Take) (k : CoreId) (addr : Word) (d : Spec) (n : Nat) (sx : Bool) (b : Body) : Res State :=
  if coreShut s s.cur k then exc 0x1a (refusalEval addr 3)
  else .ok (waitingFor (sendFrom s k b) (.remote d n sx addr) ts)

/-- A scalar load of n bytes (R256, R258, R260). It issues only with room in its destination (R42). -/
def loadOp (s : State) (d : Spec) (m : MemOp) (n al : Nat) (sx : Bool) : Outcome State Fault Refusal :=
  finishAt s [.s m.a] do
    checkUses [.dstS d, .srcS m.a]
    checkRoles s [.srcS m.a, .dstS d]
    let (b, s1) ← readS s m.a
    let _ ← writeS s1 d 0
    let ea := formAddr m.sp b m.off
    let pl ← placeOf s1 m.sp ea n al .r true
    match pl with
    | .remote k off => askRemote s [.s m.a] k ea d n sx (.load s.kind [⟨off, 0, n⟩] ea)
    | _ =>
      let (bs, s2) ← readPlace s1 ea n pl
      let s3 ← writeS s2 d (loaded n sx bs)
      pure (retire s3)

/-- A release store of state `s0` with its checks made and its sources `ts` read (R242, R259). It takes effect behind the context's
earlier remote stores: the issued instruction waits for them, and a posted one carries the order to its owner before the accesses
that follow. -/
def releasePlace (s0 : State) (ts : List Take) (s : State) (ea : Word) (bs : List Byte) (pl : Place) : Res State := do
  if storesDone s then do
    let s1 ← (match pl with
      | .remote k off => postStore s k ea [(off, bs)] true
      | pl => storePlace s ea bs pl)
    pure (retire s1)
  else
    match pl with
    | .remote k off => do
      let s1 ← postStore s0 k ea [(off, bs)] true
      pure (waitingFor s1 .fenceRs ts)
    | .virt segs => pure (waitingFor s0 (.strel none segs bs) ts)
    | .own off => pure (waitingFor s0 (.strel (some off) [] bs) ts)

/-- A scalar store of n bytes (R259). -/
def storeOp (s : State) (v : Spec) (m : MemOp) (n al : Nat) (release : Bool) : Outcome State Fault Refusal :=
  finishAt s [.s v, .s m.a] do
    checkUses [.srcS v, .srcS m.a]
    checkRoles s [.srcS v, .srcS m.a]
    let (x, s1) ← readS s v
    let (b, s2) ← readS s1 m.a
    let ea := formAddr m.sp b m.off
    let pl ← placeOf s2 m.sp ea n al .w false
    let bs := leBytes n x.toNat
    if release then releasePlace s [.s v, .s m.a] s2 ea bs pl
    else do
      let s3 ← storePlace s2 ea bs pl
      pure (retire s3)

/-- LD (R258). -/
def execLd (fn : LaneW) (d : Spec) (m : MemOp) (s : State) : Outcome State Fault Refusal :=
  loadOp s d m (laneBytes fn) 1 true

/-- LDU (R258). -/
def execLdu (fn : ExtW) (d : Spec) (m : MemOp) (s : State) : Outcome State Fault Refusal :=
  loadOp s d m (extBytes fn) 1 false

/-- LDACQ: aligned, and an acquire, which one order of accesses gives (R256, R258; log 9). -/
def execLdacq (fn : LaneW) (_ : Scope) (d : Spec) (m : MemOp) (s : State) : Outcome State Fault Refusal :=
  loadOp s d m (laneBytes fn) (laneBytes fn) true

/-- ST (R259). -/
def execSt (fn : LaneW) (d : Spec) (m : MemOp) (s : State) : Outcome State Fault Refusal :=
  storeOp s d m (laneBytes fn) 1 false

/-- STREL (R242, R259). -/
def execStrel (fn : LaneW) (_ : Scope) (d : Spec) (m : MemOp) (s : State) : Outcome State Fault Refusal :=
  storeOp s d m (laneBytes fn) (laneBytes fn) true

/-! Atomics. -/

/-- Bytes an atomic acts on. -/
def AtomicReq.size : AtomicReq → Nat
  | .amo .. => 8
  | .cas n .. => n
  | .addF _ => 4

/-- The value an atomic writes over `old`, none when a comparison fails (R261 to R263). -/
def AtomicReq.result (r : AtomicReq) (old : Word) : Option Word :=
  match r with
  | .amo op c => some (amoVal op old c)
  | .cas n e c => if old = zextTo (8 * n) e then some (zextTo (8 * n) c) else none
  | .addF c => some (BitVec.ofNat 64 (fp32.addC .ne (fld old 0 32) c.toNat))

/-- The bytes that replace `old`. -/
def AtomicReq.bytes (r : AtomicReq) (old : List Byte) : Option (List Byte) :=
  (r.result (BitVec.ofNat 64 (ofLe old))).map fun v => leBytes r.size v.toNat

/-- An atomic performed at a place of the core that steps (R245, R264). The tile cache first collects every token of
the line, and in local memory the region becomes the context's (R212), also when a comparison fails and nothing is
written; there it takes one write slot of the bank array (R204 step 5). -/
def atomicAt (s : State) (ea : Word) (r : AtomicReq) : Place → Res (List Byte × State)
  | .virt segs => do
    checkPoison s ea segs
    let old := readSegs s.pmem segs
    match r.bytes old with
    | some bs => pure (old, writeSegs s (myReq s) segs bs)
    | none => pure (old, segs.foldl (fun s p => touchAll s (myReq s) p.1 p.2) s)
  | .own off => do
    let old := arrRead s s.core.ctxnum (lmKey s.cur off) r.size
    let s1 ← storePlace s ea ((r.bytes old).getD old) (.own off)
    pure (old, s1)
  | .remote .. => .ok ([], s)

/-- The tag of the next atomic of the core (R246). -/
def nextTag (s : State) : BitVec 16 × State :=
  (s.core.atag, { s with core := { s.core with atag := s.core.atag + 1 } })

/-- AMO and CAS of state `s0`, whose sources `ts` are read, with room in the destination (R42): here, or by the
owner of the bytes (R245). -/
def nearAtomic (s0 : State) (ts : List Take) (s : State) (d : Spec) (sp : Space) (ea : Word) (r : AtomicReq) : Res State := do
  let n := r.size
  let _ ← writeS s d 0
  let pl ← placeOf s sp ea n n .rw true
  waitFor (storesDone s)
  match pl with
  | .remote k off =>
    let (t, s1) := nextTag s0
    askRemote s1 ts k ea d n false (.atomic s.kind off r t ea)
  | _ =>
    let (old, s1) ← atomicAt (nextTag s).2 ea r pl
    let s2 ← writeS s1 d (loaded n false old)
    pure (retire s2)

/-- The slice that the tile's copy of the table names for an address (R217). -/
def sliceFor (s : State) (pa : Nat) : Nat := (mapOf (tileOf s (myTile s)) (bucketOf pa)).1

/-- AMOFAR, CASFAR and AMOF of state `s0`, whose sources `ts` are read, with room in the destination (R42): applied by
the home slice (R245). -/
def farAtomic (s0 : State) (ts : List Take) (s : State) (d : Spec) (ea : Word) (r : AtomicReq) : Res State := do
  let n := r.size
  let _ ← writeS s d 0
  let pl ← placeOf s .virt ea n n .rw true
  match pl with
  | .virt ((pa, _) :: rest) =>
    checkPoison s ea ((pa, n) :: rest)
    waitFor (storesDone s)
    let (t, s1) := nextTag s0
    pure (waitingFor (sendFrom s1 s.cur (.far s.kind pa r t (sliceFor s pa))) (.far d n ea t) ts)
  | _ => .error .block

/-- AMO (R261). -/
def execAmo (fn : AmoOp) (_ : Scope) (d : Spec) (m : MemOp) (c : Spec) (s : State) : Outcome State Fault Refusal :=
  finishAt s [.s m.a, .s c] do
    checkUses [.dstS d, .srcS m.a, .srcS c]
    checkRoles s [.srcS m.a, .srcS c, .dstS d]
    let (b, s1) ← readS s m.a
    let (x, s2) ← readS s1 c
    nearAtomic s [.s m.a, .s c] s2 d m.sp (formAddr m.sp b m.off) (.amo fn x)

/-- AMOFAR (R261). -/
def execAmofar (fn : AmoOp) (_ : Scope) (d : Spec) (m : BaseOff) (c : Spec) (s : State) : Outcome State Fault Refusal :=
  finishTo s do
    checkUses [.dstS d, .srcS m.a, .srcS c]
    checkRoles s [.srcS m.a, .srcS c, .dstS d]
    let (b, s1) ← readS s m.a
    let (x, s2) ← readS s1 c
    farAtomic s [.s m.a, .s c] s2 d (formAddr .virt b m.off) (.amo fn x)

/-- CAS: field A holds the expected value and receives the old one (R255, R262). -/
def execCas (fn : CasW) (_ : Scope) (d : Spec) (m : MemOp) (c : Spec) (s : State) : Outcome State Fault Refusal :=
  finishAt s [.s m.a, .s c] do
    checkUses [.regS d, .srcS m.a, .srcS c]
    checkRoles s [.srcS m.a, .srcS c]
    let e := getS s d.toNat
    let (b, s1) ← readS s m.a
    let (x, s2) ← readS s1 c
    nearAtomic s [.s m.a, .s c] s2 d m.sp (formAddr m.sp b m.off) (.cas (casBytes fn) e x)

/-- CASFAR (R255, R262). -/
def execCasfar (fn : CasW) (_ : Scope) (d : Spec) (m : BaseOff) (c : Spec) (s : State) : Outcome State Fault Refusal :=
  finishTo s do
    checkUses [.regS d, .srcS m.a, .srcS c]
    checkRoles s [.srcS m.a, .srcS c]
    let e := getS s d.toNat
    let (b, s1) ← readS s m.a
    let (x, s2) ← readS s1 c
    farAtomic s [.s m.a, .s c] s2 d (formAddr .virt b m.off) (.cas (casBytes fn) e x)

/-- AMOF (R263). -/
def execAmof (_ : Scope) (d : Spec) (m : BaseOff) (c : Spec) (s : State) : Outcome State Fault Refusal :=
  finishTo s do
    checkUses [.dstS d, .srcS m.a, .srcS c]
    checkRoles s [.srcS m.a, .srcS c, .dstS d]
    let (b, s1) ← readS s m.a
    let (x, s2) ← readS s1 c
    farAtomic s [.s m.a, .s c] s2 d (formAddr .virt b m.off) (.addF (BitVec.ofNat 32 (fld x 0 32)))

/-! Deferred reductions. -/

def RedKind.bytes : RedK → Nat
  | .f | .w => 4
  | .d => 8

def ctxCode : CtxKind → Nat
  | .task => 0
  | .handler => 1

/-- RED: one entry on its way to the log of the home slice; the context waits for the acknowledgement (R250, R266). -/
def execRed (fn : RedK) (d : Spec) (m : BaseOff) (s : State) : Outcome State Fault Refusal :=
  finishTo s do
    checkUses [.srcS d, .srcS m.a]
    checkRoles s [.srcS d, .srcS m.a]
    let (v, s1) ← readS s d
    let (b, s2) ← readS s1 m.a
    let ea := formAddr .virt b m.off
    let n := RedKind.bytes fn
    let pl ← placeOf s2 .virt ea n n .rw false
    match pl with
    | .virt ((pa, _) :: _) =>
      let e : RedEntry := ⟨pa, ea, fn, zextTo (8 * n) v, s.cur, s.kind, 0, false⟩
      let (t, s3) := nextTxn s
      pure (waitingFor (sendFrom s3 s.cur (.red e t (sliceFor s pa))) (.red ea t) [.s d, .s m.a])
    | _ => .error .block

/-- Does a physical range hold every byte of an entry? -/
def inSegs (segs : List (Nat × Nat)) (pa n : Nat) : Bool :=
  segs.any (fun p => decide (p.1 ≤ pa) && decide (pa + n ≤ p.1 + p.2))

/-- The keys of a context's logs in the 64 slices. -/
def logKeys (ctx : CtxNum) : List Nat := (upto 64).map (fun sl => sl * 1024 + ctx.toNat)

/-- The entries of a context's logs that satisfy a test, and the logs without them (R251). -/
def takeLogs (s : State) (ctx : CtxNum) (p : RedEntry → Bool) : List RedEntry × State :=
  (logKeys ctx).foldl (fun (acc : List RedEntry × State) key =>
    let l := (SMap.get? acc.2.logs key).getD []
    if l.any p then (acc.1 ++ l.filter p, { acc.2 with logs := SMap.put acc.2.logs key (l.filter (fun e => !p e)) }) else acc) ([], s)

/-- The key of a context's taken entries. -/
def takenKey (s : State) : Nat := 2 * s.cur.toNat + ctxCode s.kind

/-- MERGE takes the covered entries at issue and waits for their application (R251, R267). Entries that an event has left unapplied are
applied with those of the next MERGE of the context, all in one order (log 69). -/
def execMerge (d : Spec) (m : BaseOff) (s : State) : Outcome State Fault Refusal :=
  finishTo s do
    checkUses [.regS d, .srcS m.a]
    checkRoles s [.srcS m.a]
    let n := (getS s d.toNat).toNat
    let (b, s1) ← readS s m.a
    let ea := formAddr .virt b m.off
    need (decide (ea.toNat % 4 = 0) && decide (n % 4 = 0)) 0x0e ea
    let segs ← xlat s1 ea n .rw
    let (es, s2) := takeLogs s s.core.ctxnum (fun e => inSegs segs e.pa (RedKind.bytes e.k))
    let old := (SMap.get? s2.taken (takenKey s)).getD []
    let s3 := if es.isEmpty then s2 else { s2 with taken := SMap.put s2.taken (takenKey s) (old ++ es) }
    if (old ++ es).isEmpty && storesDone s then pure (retire s1) else pure (waitingFor s3 .merge [.s m.a])

/-! Fences, code publishing and waiting. -/

/-- FENCE (R238, R242, R265). -/
def execFence (_ : Scope) (s : State) : Outcome State Fault Refusal :=
  .next (if storesDone s then retire s else waiting s .fence)

/-- FENCE.RS (R242, R265). -/
def execFenceRs (s : State) : Outcome State Fault Refusal :=
  .next (if storesDone s then retire s else waiting s .fenceRs)

/-- The cores of a scope's instance around a core (R234). -/
def scopeCores (k : CoreId) : Scope → List CoreId
  | .core => [k]
  | .tile => coresOfTile (tileOfCore k)
  | .group => (upto 16).map (fun i => coreAt (coreX k / 4 * 4 + i % 4) (coreY k / 4 * 4 + i / 4))
  | .sg => (upto 64).map (fun i => coreAt (coreX k / 8 * 8 + i % 8) (coreY k / 8 * 8 + i / 8))
  | .dev | .sys => (upto 1024).map (BitVec.ofNat 10)

/-- BIND: an invalidation to every core of the scope's instance; the context waits for all (R248, R268). -/
def execBind (sc : Scope) (d : Spec) (m : BaseOff) (s : State) : Outcome State Fault Refusal :=
  finishTo s do
    checkUses [.regS d, .srcS m.a]
    checkRoles s [.srcS m.a]
    let n := (getS s d.toNat).toNat
    let (b, s1) ← readS s m.a
    let ea := formAddr .virt b m.off
    need (decide (ea.toNat % 4 = 0) && decide (n % 4 = 0)) 0x0e ea
    let segs ← xlatMapped s1 (n / 4096 + 2) ea.toNat n
    let ks := if n = 0 then [] else (scopeCores s.cur sc).filter (fun k => !isDark s (tileOfCore k))
    let send := fun (s : State) =>
      let (t, s2) := nextTxn s
      (ks.foldl (fun st k => sendFrom st k (.bindInv s.kind t segs)) s2, t)
    if ks.isEmpty && storesDone s then pure (retire (send s1).1)
    else pure (waitingFor (send s).1 (.bind ks.length (send s).2) [.s m.a])

/-- WAITA (R269). -/
def execWaita (fn : CasW) (_ : Scope) (d : Spec) (m : BaseOff) (s : State) : Outcome State Fault Refusal :=
  finishTo s do
    checkUses [.regS d, .srcS m.a]
    checkRoles s [.srcS m.a]
    let n := casBytes fn
    let old := zextTo (8 * n) (getS s d.toNat)
    let (b, s1) ← readS s m.a
    let ea := formAddr .virt b m.off
    let pl ← placeOf s1 .virt ea n n .r false
    let (bs, s2) ← readPlace s1 ea n pl
    let (_, sw) ← readPlace s ea n pl
    let v := loaded n false bs
    if v ≠ old ∨ (s.kind = .task ∧ eventPending s s.cur) then do
      let s3 ← writeS s2 d v
      pure (retire s3)
    else pure (waitingFor sw (.waita d ea n old) [.s m.a])

/-- PREF: the tile cache asks for one token of the line, or for all; a failed translation drops it (R270). -/
def execPref (ex : Bool) (m : BaseOff) (s : State) : Outcome State Fault Refusal :=
  finish s do
    checkUses [.srcS m.a]
    checkRoles s [.srcS m.a]
    let (b, s1) ← readS s m.a
    let ea := formAddr .virt b m.off
    match xlat s1 ea 1 .r with
    | .ok ((pa, _) :: _) =>
      if ex then pure (touchOwn s1 (myReq s) (pa / 128))
      else pure (touchRead s1 (myReq s) (pa / 128) (pa / 64 % 2 == 1))
    | _ => pure s1

/-- CWB completes when the write has been accepted (R271). -/
def execCwb (m : BaseOff) (s : State) : Outcome State Fault Refusal :=
  finishTo s do
    checkUses [.srcS m.a]
    checkRoles s [.srcS m.a]
    let (b, s1) ← readS s m.a
    let segs ← xlat s1 (formAddr .virt b m.off) 1 .r
    let l := (segs.head?.getD (0, 0)).1 / 128
    if lineDirty s l then pure (waitingFor (cleanLine s l) .writeBack [.s m.a]) else pure (retire s1)

/-- A line that has come home leaves the DSC, and its halves enter I (R218, R227, R229, R272). -/
def dropLine (s : State) (l : Nat) : State :=
  setLine s l { lineOf s l with h0 := .i, h1 := .i, way := none }

/-- CINV: as CWB, and the line leaves every cache; its tokens return home (R272). -/
def execCinv (m : BaseOff) (s : State) : Outcome State Fault Refusal :=
  finishTo s do
    checkUses [.srcS m.a]
    needS s
    checkRoles s [.srcS m.a]
    let (b, s1) ← readS s m.a
    let segs ← xlatMapped s1 2 (formAddr .virt b m.off).toNat 1
    let l := (segs.head?.getD (0, 0)).1 / 128
    let out := fun (s : State) => dropLine (recallLine (cleanLine s l) l) l
    if lineDirty s l then pure (waitingFor (out s) .writeBack [.s m.a]) else pure (retire (out s1))

end Sys2Proof.Machine
end

