-- ==== Sys2Proof/Machine/Parallel.lean ====
section
/-!
DEFINITION. Gangs, messages, streams, the ready queue, handlers and named barriers (R171 to R195).
-/
namespace Sys2Proof.Machine

open Host (Outcome)

/-- The instruction is illegal in the handler context (column H of R171). -/
def notHandler (s : State) : Res Unit := if s.kind = .handler then illegal s else .ok ()

/-- The handler-request fault of a form that no handler may use (R167). -/
def notRequest (s : State) : Res Unit := need (decide (s.kind = .task)) 0x24 0

/-- R173: the target core lies in the partition. -/
def destOk (s : State) (ea : Word) : Res Unit := need (inPart s s.cur (arrCore ea)) 0x20 ea

/-- EVAL of event 0x13 (R336). -/
def refusalWord (tag : BitVec 16) (cls reason : Nat) (target : CoreId) (idx : Nat) : Word :=
  BitVec.ofNat 64 (tag.toNat * 2 ^ 48 + cls * 2 ^ 40 + reason * 2 ^ 36 + target.toNat * 2 ^ 22 + idx % 64)

/-- A message sent, or answered at the sender when a port toward its target is closed (R173, R365): `cls`, `idx` as event 0x13
names them, and what the refusal gives back. -/
def sendMsg (s : State) (dst : CoreId) (cls idx : Nat) (resv : Bool) (cr : Option (CoreId × BitVec 4 × Bool)) (b : Body) : State :=
  if coreShut s s.cur dst then
    let w := refusalWord (actTag s) cls 3 dst idx
    sendAs (coreRec s s.cur 1 0x13 (actTag s) w 0) dst s.cur 0xffff (.refused w resv cr)
  else sendFrom s dst b

/-- A header word of a sender's task and context (R149). -/
def headerOf (s : State) (tag : BitVec 16) (ctx : CtxNum) (idx len : Nat) (reply eos : Bool) (cls user : Nat) : Word :=
  BitVec.ofNat 64 (tag.toNat * 2 ^ 48 + colourOf s ctx % 16 * 2 ^ 44 + idx * 2 ^ 32 + len * 2 ^ 28 +
    reply.toNat * 2 ^ 27 + eos.toNat * 2 ^ 26 + cls * 2 ^ 24 + user)

/-- A header word of the context that steps. -/
def header (s : State) (idx len : Nat) (reply eos : Bool) (cls user : Nat) : Word :=
  headerOf s (actTag s) s.core.ctxnum idx len reply eos cls user

/-! Gangs. -/

/-- The first member of a block whose tile cannot join, with its reason (R174 step 1). -/
def gangBad (s : State) (n : Nat) : Option Nat :=
  ((upto n).map (gangMember (gangLeader s.cur n) n)).findSome? fun k =>
    if !inPart s s.cur k then some 1 else if isDark s (tileOfCore k) then some 2 else none

/-- GANG: the context waits until its gang forms (R171, R174). -/
def execGang (i : BitVec 6) (s : State) : Outcome State Fault Refusal :=
  finishTo s do
    let n := i.toNat
    if s.kind = .handler ∨ (gangOf s).isSome ∨ ¬(n = 2 ∨ n = 4 ∨ n = 8) then illegal s
    match gangBad s n with
    | some r => exc 0x1f (BitVec.ofNat 64 (r * 256))
    | none => pure (waiting s (.gang n))

/-- Every member of a core's gang continues at a pc (R175). -/
def gangPc (s : State) (g : Gang) (pc : Word) : State :=
  (gangMembers g).foldl (fun s k => modCore s k (fun c => { c with task := { c.task with pc := pc } })) s

/-- SPLIT (R171, R175). -/
def execSplit (s : State) : Outcome State Fault Refusal :=
  match gangOf s with
  | none => .next (retire s)
  | some g => .next (retire (gangPc (dissolve s s.cur) g (cx s).succ))

/-! Messages. -/

/-- May the handler's activation send this reply (R166, R176)? -/
def replyOk (s : State) (reply : Bool) (dst : CoreId) : Bool :=
  match s.kind, s.core.act with
  | .task, _ => true
  | .handler, some a => reply && a.mayReply && dst == tagCore (BitVec.ofNat 16 (fld a.hdr 48 16))
  | .handler, none => false

/-- The reply of an activation is spent. -/
def replySpent (s : State) : State :=
  match s.kind with
  | .task => s
  | .handler => { s with core := { s.core with act := s.core.act.map fun a => { a with mayReply := false } } }

/-- SEND (R176). -/
def execSend (d : Spec) (m : BaseOff) (s : State) : Outcome State Fault Refusal :=
  finish s do
    checkUses [.srcS d, .srcS m.a]
    need (decide (d.toNat < 32)) 0x02 (d.setWidth 64)
    checkRoles s [.srcS m.a]
    let w := getS s d.toNat
    let len := fld w 28 4
    let reply := bit w 27
    need (decide (len ≤ 8) && decide (d.toNat + len ≤ 31) && !(reply && s.kind == .task)) 0x02 (d.setWidth 64)
    let pay := (upto len).map fun k => getS s (d.toNat + 1 + k)
    let (b, s1) ← readS s m.a
    let ea := formAddr .arr b m.off
    destOk s ea
    let dst := arrCore ea
    need (replyOk s reply dst) 0x24 0
    waitFor (reply || decide (s.core.resv < 4))
    let s2 := if reply then replySpent s1 else { s1 with core := { s1.core with resv := s1.core.resv + 1 } }
    pure (sendMsg s2 dst 1 (fld w 32 4) (!reply) none (.active (header s (fld w 32 4) len reply false 1 (fld w 0 24)) pay))

/-- The credit line of a target and entry, as an index (R178). -/
def creditLine (c : Core) (dst : CoreId) (e : BitVec 4) : Option Nat :=
  (upto c.credits.length).find? fun i => match c.credits[i]? with
    | some l => l.target == dst && l.entry == e
    | none => false

/-- One credit taken for a word, a line allocated for a new pair; none when neither is to be had (R178). -/
def takeCredit (c : Core) (dst : CoreId) (e : BitVec 4) : Option Core :=
  match creditLine c dst e with
  | none => if c.credits.length < 8 then some { c with credits := c.credits ++ [⟨dst, e, 7, false⟩] } else none
  | some i =>
    match c.credits[i]? with
    | none => none
    | some l => if l.credits = 0 then none else some { c with credits := c.credits.set i { l with credits := l.credits - 1 } }

/-- SENDV: one stream word (R177, R178). -/
def execSendv (d : Spec) (m : BaseOff) (rx : RX) (s : State) : Outcome State Fault Refusal :=
  finish s do
    checkUses [.srcV d, .srcS m.a, .srcV rx.c]
    checkRX s rx none none (some rx.c)
    notRequest s
    checkRoles s [.srcV d, .srcS m.a, .srcV rx.c]
    let (v, s1) ← readV s d
    let (b, s2) ← readS s1 m.a
    let (c, s3) ← readVG s2 rx 3 rx.c
    let ea := formAddr .arr b m.off
    destOk s ea
    let dst := arrCore ea
    let w := lane c 64 0
    let e := BitVec.ofNat 4 (fld w 32 4)
    let c4 ← (match takeCredit s3.core dst e with
      | some c => (.ok c : Res Core)
      | none => .error .block)
    pure (sendMsg { s3 with core := c4 } dst 2 e.toNat false (some (dst, e, bit w 26)) (.stream (header s e.toNat 8 false (bit w 26) 2 (fld w 0 24)) v))

/-- SPAWN: a launch message (R179). The check of A comes before the handler-request fault (log 69). -/
def execSpawn (d : Spec) (m : BaseOff) (s : State) : Outcome State Fault Refusal :=
  finish s do
    checkUses [.srcS d, .srcS m.a]
    need (decide (d.toNat < 29)) 0x02 (d.setWidth 64)
    notRequest s
    checkRoles s [.srcS m.a]
    let n := d.toNat
    let desc := getS s (n + 2)
    need (decide (widthSum desc 6 ≤ 64)) 0x02 desc
    let (b, s1) ← readS s m.a
    let ea := formAddr .arr b m.off
    destOk s ea
    let l : LaunchMsg := ⟨getS s n, getS s (n + 1), BitVec.ofNat 64 (fld desc 0 42), BitVec.ofNat 2 (fld desc 48 2),
      s.core.runTag s.cur, getS s (n + 3), s.core.ctxnum, none⟩
    pure (sendMsg s1 (arrCore ea) 0 0 false none (.launch l))

/-! Streams and free slots. -/

/-- The conditions of R160 under which a template cannot be bound. -/
def templateBad (c : Core) (w : Word) : Bool :=
  if bit w 9 then fld w 15 3 == 7 else (feedEntry c (fld w 7 2)).isSome

/-- SBIND (R160, R180). An end-of-stream activation that still waits takes the words of the new binding (R164; log 62). -/
def execSbind (d a : Spec) (i : BitVec 10) (s : State) : Outcome State Fault Refusal :=
  finish s do
    checkUses [.dstS d, .srcS a]
    notHandler s
    checkRoles s [.srcS a, .dstS d]
    let (x, s1) ← readS s a
    let e := fld i 0 3
    let ent := vget s.core.streams e StreamEnt.reset
    need (!bit ent.word 0 && !templateBad s.core x) 0x02 (BitVec.ofNat 64 e)
    match s.core.running with
    | none => illegal s
    | some j =>
      let w := BitVec.ofNat 64 ((tagOf s.cur j).toNat * 2 ^ 48 + fld x 7 25 * 2 ^ 7 + 1)
      let s2 := { s1 with core := { s1.core with streams := vset s1.core.streams e { ent with word := w, buf := [] } } }
      writeS s2 d w

/-- SUNBIND waits for the buffered words of a reduction only so (R181). -/
def sunbindWaits (s : State) (w : Word) : Bool :=
  bit w 9 && s.kind == .task && !(cx s).nest && decide (fld w 48 16 = (s.core.runTag s.cur).toNat) && s.core.running.isSome

/-- SUNBIND (R181). -/
def execSunbind (d : Spec) (i : BitVec 10) (s : State) : Outcome State Fault Refusal :=
  finish s do
    checkUses [.dstS d]
    notHandler s
    checkRoles s [.dstS d]
    let e := fld i 0 3
    let ent := vget s.core.streams e StreamEnt.reset
    if bit ent.word 0 then
      let mine := s.core.running.isSome && decide (fld ent.word 48 16 = (s.core.runTag s.cur).toNat)
      need (mine || !userMode s) 0x02 (BitVec.ofNat 64 e)
      waitFor (!sunbindWaits s ent.word || ent.buf.isEmpty)
      writeS (freeStream s s.cur e) d ent.word
    else writeS s d ent.word

/-- SLOTF: a free slot returned to the core that a names; a dark one is reported as for a built-in message (R173, R182; log 35). -/
def execSlotf (a : Spec) (s : State) : Outcome State Fault Refusal :=
  finish s do
    checkUses [.srcS a]
    checkRoles s [.srcS a]
    let (x, s1) ← readS s a
    destOk s (formAddr .arr x 0)
    let k := arrCore x
    pure (sendMsg s1 k 3 0 false none .slotReturn)

/-! The ready queue. -/

/-- A slot made READY at a priority from this ck (R183, R185). -/
def readyNow (s : State) (c : Core) (j : Nat) (sl : Slot) (p : BitVec 2) : Core :=
  { c.setSlot j { sl with st := .ready, prio := p, readyCk := cycleOf s c, order := c.readyCount } with readyCount := c.readyCount + 1 }

/-- The slot stops RUNNING: its run time and the core's search time are counted (R417, R418). -/
def leaveRunning (s : State) (c : Core) : Core := { c.runStop s.ck with srchFrom := s.ck }

/-- The permitted moves of R185: the core after the move. -/
def rqMove (s : State) (j : Nat) (dst : Nat) (p : BitVec 2) : Option Core :=
  let c := s.core
  let sl := slotAt c j
  match sl.st, dst with
  | .running, 1 =>
    let c := leaveRunning s c
    some (readyNow s c j (slotAt c j) p)
  | .running, 3 =>
    let c := leaveRunning s c
    some (c.setSlot j { slotAt c j with st := .asleep, prio := p })
  | .asleep, 1 => some (readyNow s c j sl p)
  | .free, 1 => if sl.purging then none else some (readyNow s c j Slot.reset p)
  | _, _ => none

/-- RQADD (R185). -/
def execRqadd (d a b : Spec) (s : State) : Outcome State Fault Refusal :=
  finish s do
    checkUses [.dstS d, .srcS a, .srcS b]
    needS s
    checkRoles s [.srcS a, .srcS b, .dstS d]
    let (x, s1) ← readS s a
    let (y, s2) ← readS s1 b
    let j := fld x 0 6
    let old := slotWord s.cur j (slotAt s.core j)
    match rqMove s2 j (fld y 0 2) (BitVec.ofNat 2 (fld y 2 2)) with
    | some c => writeS (mirrorSlot { s2 with core := c } s.cur j (some (slotAt c j).parent)) d old
    | none => writeS s2 d (setBit old 63 true)

/-- RQTAKE (R152, R184). A RUNNING slot is reported also when no slot is READY (log 69). -/
def execRqtake (d : Spec) (s : State) : Outcome State Fault Refusal :=
  finish s do
    checkUses [.dstS d]
    needS s
    checkRoles s [.dstS d]
    match s.core.running, bestReady s.core with
    | some _, _ => writeS s d 0x8000000000000001
    | none, none => writeS s d 0x8000000000000000
    | none, some j =>
      let sl := { slotAt s.core j with st := .running, runFrom := s.ck }
      let cyc := cycleOf s s.core
      let c := s.core.setSlot j { sl with fresh := false, takeCk := if sl.fresh then cyc else sl.takeCk }
      writeS { s with core := { c with srch := c.srch + (s.ck - c.srchFrom), srchFrom := s.ck } } d (slotWord s.cur j sl)

/-- Field n of a slot (R183). -/
def slotField (k : CoreId) (j : Nat) (sl : Slot) (n : Nat) : Word :=
  match n with
  | 0 => slotWord k j sl
  | 1 => sl.entry
  | 2 => sl.id
  | 3 => sl.desc
  | 4 => sl.parent.setWidth 64
  | 5 => sl.arg
  | 6 => sl.readyCk
  | _ => 0

/-- RQPEEK (R183). -/
def execRqpeek (d a b : Spec) (s : State) : Outcome State Fault Refusal :=
  finish s do
    checkUses [.dstS d, .srcS a, .srcS b]
    needS s
    checkRoles s [.srcS a, .srcS b, .dstS d]
    let (x, s1) ← readS s a
    let (y, s2) ← readS s1 b
    let j := fld x 0 6
    writeS s2 d (slotField s.cur j (slotAt s.core j) (fld y 0 3))

/-- The slot of a victim that STEAL takes (R186). -/
def stealable (c : Core) (p : Nat) : Option Nat :=
  bestOf c ((upto 64).filter fun j => (slotAt c j).st = .ready && (slotAt c j).fresh && decide (p ≤ (slotAt c j).prio.toNat))

/-- The steal itself: the result word and the new state (R186). A victim that a double fault has stopped gives nothing (R24; log 69). -/
def stealGo (s : State) (v : CoreId) (p : Nat) : Word × State :=
  let c := coreOf s v
  let failed := fun (n : Nat) =>
    ((BitVec.ofNat 64 (2 ^ 63 + n) : Word), { s with core := { s.core with stealf := BitVec.ofNat 64 ((s.core.stealf.toNat + 1) % 2 ^ 32) } })
  if v = s.cur ∨ groupOf v ≠ groupOf s.cur ∨ c.ctxnum ≠ s.core.ctxnum then failed 1
  else if c.dead then failed 2
  else
    match stealable c p, freeSlot s.core with
    | none, _ => failed 2
    | some _, none => failed 3
    | some i, some j =>
      let sl := { slotAt c i with fresh := true, st := .ready, order := s.core.readyCount }
      let s1 := { s with core := { s.core.setSlot j sl with readyCount := s.core.readyCount + 1 } }
      let s2 := mirrorSlot (mirrorSlot s1 s.cur j (some sl.parent)) v i none
      (slotWord s.cur j sl, modCore s2 v (fun c => c.setSlot i { slotAt c i with st := .free }))

/-- STEAL (R186). -/
def execSteal (d a b : Spec) (s : State) : Outcome State Fault Refusal :=
  finish s do
    checkUses [.dstS d, .srcS a, .srcS b]
    needS s
    checkRoles s [.srcS a, .srcS b, .dstS d]
    let (x, s1) ← readS s a
    let (y, s2) ← readS s1 b
    let (w, s3) := stealGo s2 (BitVec.ofNat 10 (fld x 22 10)) (fld y 0 2)
    writeS s3 d w

/-- TEXIT: waits for the journal, then ends the RUNNING task (R171, R188). -/
def execTexit (s : State) : Outcome State Fault Refusal :=
  let s := dissolveMine s
  finishTo s do
    if s.kind = .handler ∨ !userMode s then illegal s
    pure (if storesDone s then texitEnd s else waiting s .texit)

/-- YIELD (R171, R189). -/
def execYield (s : State) : Outcome State Fault Refusal :=
  let s := dissolveMine s
  finishTo s do
    if s.kind = .handler ∨ !userMode s then illegal s
    pure (raiseAt s { code := 0x0c, eval := (s.core.runTag s.cur).setWidth 64 } (cx s).succ)

/-! Handlers and pausing. -/

/-- HRET (R166, R171, R191). -/
def execHret (s : State) : Outcome State Fault Refusal :=
  finishTo s do
    if s.kind = .task then illegal s
    let s := setCx s { cx s with last := .retired }
    pure (endActivation s s.cur)

/-- TMSET (R190). -/
def execTmset (d a : Spec) (s : State) : Outcome State Fault Refusal :=
  finish s do
    checkUses [.dstS d, .srcS a]
    needS s
    checkRoles s [.srcS a, .dstS d]
    let (x, s1) ← readS s a
    let t := min ((cycleOf s s.core).toNat + x.toNat) (2 ^ 64 - 1)
    writeS { s1 with core := { s1.core with timecmp := BitVec.ofNat 64 t } } d s.core.timecmp

/-- PAUSE (R192). -/
def execPause (a : Spec) (i : BitVec 10) (s : State) : Outcome State Fault Refusal :=
  finish s do
    checkUses [.srcS a]
    checkRoles s [.srcS a]
    let (x, s1) ← readS s a
    let n := min (x.toNat + i.toNat) 65535
    pure (setCx s1 { cx s1 with pauseEnd := if n = 0 then 0 else s.ck + 1 + n })

/-! Named barriers. -/

/-- The barrier an instruction names (R193). -/
def barNum (i : BitVec 10) : Nat := fld i 0 6

/-- BINIT discards the other events of its ck (R193). -/
def execBinit (d a : Spec) (i : BitVec 10) (s : State) : Outcome State Fault Refusal :=
  finish s do
    checkUses [.dstS d, .srcS a]
    checkRoles s [.srcS a, .dstS d]
    let (x, s1) ← readS s a
    let b := barNum i
    let old := vget s.core.bars b 0
    let c := releaseWaiters { s1.core with
      bars := vset s1.core.bars b (BitVec.ofNat 64 (fld x 0 12 * 2 ^ 40)), barIn := SMap.del s1.core.barIn b } b
    writeS { s1 with core := c } d old

/-- BARV: an arrival on its way to its barrier (R195). -/
def execBarv (m : BaseOff) (s : State) : Outcome State Fault Refusal :=
  finish s do
    checkUses [.srcS m.a]
    checkRoles s [.srcS m.a]
    let (b, s1) ← readS s m.a
    let ea := formAddr .arr b m.off
    destOk s ea
    pure (sendMsg s1 (arrCore ea) 3 (fld m.off 0 6) false none (.arrival (BitVec.ofNat 6 (fld m.off 0 6))))

/-- BWAIT (R194). -/
def execBwait (d a : Spec) (i : BitVec 10) (s : State) : Outcome State Fault Refusal :=
  finishTo s do
    checkUses [.dstS d, .srcS a]
    checkRoles s [.srcS a, .dstS d]
    let (x, s1) ← readS s a
    let b := barNum i
    let w := vget s.core.bars b 0
    if bit w 62 ≠ bit x 0 ∨ bit w 63 ∨ barTarget w = 0 then do
      let s2 ← writeS s1 d w
      pure (retire s2)
    else pure (waiting s (.bwait (BitVec.ofNat 6 b) d a false))

/-- BTEST (R193). -/
def execBtest (d : Spec) (i : BitVec 10) (s : State) : Outcome State Fault Refusal :=
  opD s d (vget s.core.bars (barNum i) 0)

/-- BEXP: its bytes are summed with the events of its ck (R169, R193). -/
def execBexp (d a : Spec) (i : BitVec 10) (s : State) : Outcome State Fault Refusal :=
  finish s do
    checkUses [.dstS d, .srcS a]
    checkRoles s [.srcS a, .dstS d]
    let (x, s1) ← readS s a
    let b := barNum i
    writeS (barAdd s1 s.cur b 0 (toIntN 28 (fld x 0 28))) d (vget s.core.bars b 0)

end Sys2Proof.Machine
end

