-- ==== Sys2Proof/Machine/Engine.lean ====
section
/-!
DEFINITION. The movement and conversion engines: parameter blocks and their checks (R311 to R317), acceptance
(R275, R280, R310, R315), chunks and their landing (R278, R279, R314, R316), conversion blocks (R288, R289, R318)
and reports (R281, R284, R287).
-/
namespace Sys2Proof.Machine

/-! Parameter blocks (R312, R313, R317). -/

/-- The eight dwords of 64 bytes. -/
def blkWords (bs : List Byte) : List Word :=
  (upto 8).map fun i => BitVec.ofNat 64 (ofLe ((bs.drop (8 * i)).take 8))

def dwordOf (blk : List Word) (i : Nat) : Word := blk[i]?.getD 0

def compSsp (w : Word) : Bool := bit w 0
def compDsp (w : Word) : Bool := bit w 1
def compBe (w : Word) : Bool := bit w 15
def compBar (w : Word) : Nat := fld w 16 6
def compBarCore (w : Word) : CoreId := coreAt (fld w 22 5) (fld w 27 5)
def compSe (w : Word) : Bool := bit w 33
def compEos (w : Word) : Bool := bit w 34
def compEntry (w : Word) : BitVec 4 := BitVec.ofNat 4 (fld w 35 3)
def compStrCore (w : Word) : CoreId := coreAt (fld w 38 5) (fld w 43 5)

def auxSfmt (w : Word) : Nat := fld w 0 5
def auxDfmt (w : Word) : Nat := fld w 8 5
def auxMode (w : Word) : Nat := fld w 16 3
def auxSat (w : Word) : Bool := bit w 19
def auxTerms (w : Word) : Nat := fld w 20 2
def auxSeed (w : Word) : Nat := fld w 32 32

/-- The checks of R317: all fail at dword 3. -/
def convBad (shape aux : Word) : Bool :=
  let n := fld shape 0 32
  let sf := auxSfmt aux
  let df := auxDfmt aux
  let tm := auxTerms aux
  codeBits sf == 0 || codeBits df == 0 || (tm == 0 && decide (5 ≤ auxMode aux)) || tm == 1 ||
  (tm != 0 && (sf != 0 || df != 2)) || n * codeBits sf % 8 != 0 || n * codeBits df % 8 != 0 ||
  (n % 32 != 0 && (codeMx sf || codeMx df))

/-- The dword of the first field that fails (R310 step 4, R313, R317). -/
def blockBad (kind : CmdKind) (blk : List Word) : Option Nat :=
  let comp := dwordOf blk 5
  match kind with
  | .copy | .copy2 => none
  | .copyx => if compSsp comp then none else some 5
  | .copym =>
    if !compDsp comp then some 5
    else if bit (dwordOf blk 1) 21 then some 1
    else if dwordOf blk 3 = 0 then some 3
    else none
  | .conv => if convBad (dwordOf blk 2) (dwordOf blk 3) then some 3 else none

/-- The core of a mask bit in the supergroup of another (R278). -/
def maskCore (k : CoreId) (b : Nat) : CoreId := coreAt (coreX k / 8 * 8 + b % 8) (coreY k / 8 * 8 + b / 8)

/-- The set bits of a mask, rising. -/
def maskBits (m : Word) : List Nat := (upto 64).filter (bit m)

/-- The array address of a core's storage at offset 0. -/
def coreAddr (k : CoreId) : Word := arrAddr (coreY k) (coreX k) 0

/-- Steps 4 and 5 of R310 for a block command. -/
def blockCheck (s : State) (kind : CmdKind) (blk : List Word) : Res Unit := do
  match blockBad kind blk with
  | some i => exc 0x02 (BitVec.ofNat 64 (256 + i))
  | none => pure ()
  let comp := dwordOf blk 5
  match kind with
  | .copym =>
    match (maskBits (dwordOf blk 3)).find? (fun b => !inPart s s.cur (maskCore s.cur b)) with
    | some b => exc 0x19 (coreAddr (maskCore s.cur b))
    | none => pure ()
  | _ => need (!compBe comp || inPart s s.cur (compBarCore comp)) 0x20 (coreAddr (compBarCore comp))
  need (!compSe comp || inPart s s.cur (compStrCore comp)) 0x20 (coreAddr (compStrCore comp))

/-! Slots (R275, R299, R315). -/

/-- A COPYX that failed where it was issued takes no slot there; at the source's tile it is carried out as a COPY (R315). -/
def Cmd.holds (c : Cmd) : Bool := c.kind != .copyx

/-- Streams of MMAS commands that occupy a slot of the MVE (R299). -/
def mmasCount (m : Mte) : Nat :=
  (m.queue.filter (fun c => c.kind == .mmas)).length +
  (match m.run with
    | some r => if r.cmd.kind == .mmas then 1 else 0
    | none => 0)

/-- Occupied command slots of a tile's MVE. -/
def mveUsed (t : Tile) : Nat := (t.mve.filter Cmd.holds).length + t.reserved + mmasCount t.mte

/-! Acceptance (R310 step 7). -/

/-- The parent of the task with a tag (R287). -/
def parentOf (s : State) (tag : BitVec 16) : BitVec 16 :=
  if tag = 0xffff then 0xffff else (slotAt (coreOf s (tagCore tag)) (tagSlot tag)).parent

/-- Has no task with a tag ended: one is in the slot, or the tag is that of no task (R280, R284)? A handler's owner may have ended before
the handler runs (R155, R287); where its slot holds another task by then, the tag is that task's, and the command counts as its own
(log 69). -/
def ownerLives (s : State) (tag : BitVec 16) : Bool :=
  tag == 0xffff || (slotAt (coreOf s (tagCore tag)) (tagSlot tag)).st != .free

/-- A fresh command of the context that steps (R276): its issue is a release, so that the context's earlier stores come before
its accesses (R239, R242, R310 step 7). -/
def newCmd (s : State) (kind : CmdKind) (tid : Word) (blk : List Word) : Cmd :=
  let tag := actTag s
  { kind := kind, blk := blk, tid := BitVec.ofNat 16 (fld tid 0 16), owner := tag, live := ownerLives s tag,
    parent := parentOf s tag, issuer := s.cur, ctx := s.core.ctxnum, by_ := s.kind, after := s.core.txn, landed := [],
    next := 0, bytes := 0, fail := none, old := ⟨[], [], [], []⟩, ptag := none, streamed := false }

/-- A command handed to the MVE or the CVE of a tile. -/
def pushMve (s : State) (t : TileId) (c : Cmd) : State := modTile s t fun x => { x with mve := x.mve ++ [c] }
def pushCve (s : State) (t : TileId) (c : Cmd) : State := modTile s t fun x => { x with cve := x.cve ++ [c] }

/-- A slot taken from the counter of every receiver, none while one is 0 (R280). -/
def takeSlots (c : Core) (bs : List Nat) : Option Core :=
  if bs.any (fun b => vget c.slotCnt b 0 == 0) then none
  else some { c with slotCnt := bs.foldl (fun v b => vset v b (vget v b 0 - 1)) c.slotCnt }

/-- Steps 4 to 7 of R310 for a block command whose 64 bytes have been read. Its acceptance is a release, which waits for the context's
earlier remote stores (R242). -/
def blockIssue (s : State) (kind : CmdKind) (tid : Word) (bs : List Byte) : Res State := do
  let blk := blkWords bs
  blockCheck s kind blk
  waitFor (storesDone s)
  let t := myTile s
  let free := decide (mveUsed (tileOf s t) < 8)
  match kind with
  | .copy | .copy2 => do
    waitFor free
    pure (pushMve s t (newCmd s kind tid blk))
  | .copyx => do
    let k := arrCore (dwordOf blk 0)
    if tileOfCore k = t then do
      waitFor free
      pure (pushMve s t (newCmd s .copy tid blk))
    else
      let c := newCmd s .copyx tid blk
      let bad := fun (code : BitVec 8) => pushMve s t { c with fail := some ⟨code, BitVec.ofNat 64 (fld (dwordOf blk 0) 0 32), 0⟩ }
      if !inPart s s.cur k then pure (bad 0x05)
      else if isDark s (tileOfCore k) || coreShut s s.cur k then pure (bad 0x08)
      else pure (sendFrom s (coreOfTile (tileOfCore k) (fld (tileOf s (tileOfCore k)).qmap 34 2)) (.copyx c))
  | .copym =>
    match takeSlots s.core (maskBits (dwordOf blk 3)) with
    | none => .error .block
    | some c => do
      waitFor free
      pure (pushMve { s with core := c } t (newCmd s kind tid blk))
  | .conv => do
    waitFor (decide ((tileOf s t).cve.length < 4))
    pure (pushCve s t (newCmd s kind tid blk))

/-! Addresses and accesses of an engine (R277, R314). -/

/-- Why an engine access cannot be made: the command fails, waits for a page (R351), for the fill of a region, or takes regions of
other owners, whose fills all start in this ck (R212). -/
inductive EngErr where
  | fail (f : CmdFail)
  | page (va : Word) (perm : Bool)
  | fill
  | claim (regions : List Nat)
deriving DecidableEq, Repr

abbrev ERes (α : Type) := Except EngErr α

def engFail {α : Type} (code : BitVec 8) (a : Word) (reason : BitVec 4) : ERes α := .error (.fail ⟨code, a, reason⟩)

/-- at(base, d, sp) of R314 for n bytes; the address that fails is the one formed (log 41). -/
def engAt (base : Word) (d : Int) (arr : Bool) (n : Nat) : ERes Word :=
  if arr then
    let off : Int := (fld base 0 21 : Nat) + d
    let size : Nat := if bit base 21 then tsSize else lmSize
    let a : Word := BitVec.ofInt 64 ((fld base 21 11 * 2 ^ 21 : Nat) + off)
    if off < 0 ∨ (size : Int) < off + n then engFail (if bit base 21 then 0x07 else 0x03) a 0
    else .ok a
  else .ok (base + BitVec.ofInt 64 d)

/-- The storage behind n bytes at an array address, after the checks of R277; a tile that is dark, or whose port is closed, answers nothing
(R285, R365). -/
def engArr (s : State) (c : Cmd) (a : Word) (n : Nat) (r : Right) : ERes Nat :=
  let k := arrCore a
  let off := fld a 0 21
  if !inPart s c.issuer k then engFail 0x05 a 0
  else if isDark s (tileOfCore k) || coreShut s c.issuer k then engFail 0x08 a 0
  else
    let key := if bit a 21 then tsKey (tileOfCore k) off else lmKey k off
    match if bit a 21 || k == c.issuer then none else refusal s k c.issuer c.ctx off n r with
    | some x => engFail 0x04 a x
    | none => if filled s key n then .ok key else .error .fill

/-- An access to local memory takes its place in the bank order with the remote ones (R203, R204). -/
def engBank (s : State) (a : Word) (write : Bool) (n : Nat) : State :=
  if bit a 21 then s else bankPieces s (arrCore a) write 3 [(fld a 0 21, n)]

/-- Translation for an engine of tile t: an unusable translation waits for a page, a non-canonical address fails
at once (R351). -/
def engXlat (s : State) (t : TileId) (c : Cmd) (va : Word) (n : Nat) (acc : Acc) : ERes (List (Nat × Nat)) :=
  match xlatGo s (tileOf s t).tlb c.ctx acc (n / 4096 + 2) va.toNat n with
  | .ok segs => .ok segs
  | .error (.exc e) => if canonical (walkOf s c.ctx) e.eval then .error (.page e.eval (e.code == 0x0d)) else engFail 0x01 e.eval 0
  | .error _ => engFail 0x01 va 0

/-- What a list says of a key, or else the present value. -/
def kept {α : Type} (l : SMap α) (i : Nat) (x : α) : α := (SMap.get? l i).getD x

/-- A value noted for a key that the list does not yet hold. -/
def note {α : Type} (l : SMap α) (i : Nat) (x : α) : SMap α := if (SMap.get? l i).isSome then l else SMap.put l i x

/-- n bytes of array space about to be overwritten, as the command reads them (R279). -/
def Before.noteArr (b : Before) (s : State) (ctx : CtxNum) (key n : Nat) : Before :=
  { b with arr := ((upto n).zip (arrRead s ctx key n)).foldl (fun l x => note l (key + x.1) x.2) b.arr }

/-- Bytes of memory about to be overwritten, and the poison of their chunks (R279, R286). -/
def Before.noteMem (b : Before) (s : State) (segs : List (Nat × Nat)) : Before :=
  segs.foldl (fun b p =>
    { b with
      mem := (upto p.2).foldl (fun l i => note l (p.1 + i) (Mem.get s.pmem (p.1 + i))) b.mem
      bad := (upto p.2).foldl (fun l i => note l ((p.1 + i) / 32) (chunkBad s ((p.1 + i) / 32))) b.bad }) b

/-- n bytes read, each with its poison; bytes that the command has itself overwritten read as it found them (R279). -/
def engRead (s : State) (t : TileId) (c : Cmd) (base : Word) (d : Int) (arr : Bool) (n : Nat) : ERes (List (Byte × Bool) × State) := do
  let a ← engAt base d arr n
  if arr then do
    let key ← engArr s c a n .rd
    let bs := ((upto n).zip (arrRead s c.ctx key n)).map fun x => (kept c.old.arr (key + x.1) x.2, false)
    pure (bs, engBank s a false n)
  else do
    let segs ← engXlat s t c a n .r
    let bs := segs.flatMap fun p => (upto p.2).map fun i =>
      (kept c.old.mem (p.1 + i) (Mem.get s.pmem (p.1 + i)), kept c.old.bad ((p.1 + i) / 32) (chunkBad s ((p.1 + i) / 32)))
    pure (((upto n).zip bs).map fun x => kept c.old.va ((a.toNat + x.1) % 2 ^ 64) x.2, touchSegs s (tileReq t) segs)

/-- The chunks of poisoned bytes stay poisoned where they land (R230, R286). -/
def poisonSegsWith (s : State) : List (Nat × Nat) → List Bool → State
  | [], _ => s
  | (pa, n) :: r, ps =>
    let s := ((upto n).zip (ps.take n)).foldl (fun s x => if x.2 then { s with poison := insertNat ((pa + x.1) / 32) s.poison } else s) s
    poisonSegsWith s r (ps.drop n)

/-- A write to a tile store by another agent leaves its MTE no C held (R306). -/
def dropC (s : State) (a : Word) : State :=
  if bit a 21 then modTile s (tileOfCore (arrCore a)) fun x => { x with mte := { x.mte with held := none } } else s

/-- Bytes written, each with its poison, which array space does not hold (R230, R286); the command keeps what it overwrites. -/
def engWrite (s : State) (t : TileId) (c : Cmd) (base : Word) (d : Int) (arr : Bool) (bs : List (Byte × Bool)) : ERes (Cmd × State) := do
  let n := bs.length
  let a ← engAt base d arr n
  if arr then do
    let key ← engArr s c a n .wr
    let s1 := dropC (engBank (arrWrite s c.ctx key (bs.map (·.1))) a true n) a
    pure ({ c with old := c.old.noteArr s c.ctx key n }, s1)
  else do
    let segs ← engXlat s t c a n .w
    pure ({ c with old := c.old.noteMem s segs }, poisonSegsWith (writeSegs s (tileReq t) segs (bs.map (·.1))) segs (bs.map (·.2)))

/-! Chunks of the movement commands (R278, R313, R314, R316). -/

/-- n bytes of a movement command: their displacements from DST and from SRC. -/
structure Move where
  dd : Int
  sd : Int
  n : Nat
deriving DecidableEq, Repr

/-- Element size, transposition, strides of COPY2. -/
def copy2E (sh : Word) : Nat := 2 ^ fld sh 32 2
def copy2Tr (sh : Word) : Bool := bit sh 34
def stride (aux : Word) (lo : Nat) : Int := toIntN 32 (fld aux lo 32)

/-- The moves of R314 in loop order: the elements of COPY2, all the bytes of the others. -/
def movesOf (c : Cmd) : List Move :=
  let sh := dwordOf c.blk 2
  let aux := dwordOf c.blk 3
  match c.kind with
  | .copy2 =>
    let e := copy2E sh
    (upto (fld sh 0 16)).flatMap fun (r : Nat) => (upto (fld sh 16 16)).map fun (q : Nat) =>
      let sd := (r : Int) * stride aux 0 + (q * e : Nat)
      if copy2Tr sh then ⟨(q : Int) * stride aux 32 + (r * e : Nat), sd, e⟩ else ⟨(r : Int) * stride aux 32 + (q * e : Nat), sd, e⟩
  | _ => [⟨0, 0, fld sh 0 32⟩]

/-- A move cut where the destination address is a multiple of 64 (R278). -/
def cutMove (dst : Word) (p : Move) : List Move :=
  let low := (((dst.toNat : Int) + p.dd) % 64).toNat
  if p.n = 0 then []
  else (upto ((low + p.n - 1) / 64 + 1)).map fun j =>
    let lo := 64 * j - low
    ⟨p.dd + lo, p.sd + lo, min p.n (64 * (j + 1) - low) - lo⟩

/-- The 64-byte block of the destination in which a part lies. -/
def blockOf (dst : Word) (p : Move) : Nat := ((((dst.toNat : Int) + p.dd) % 2 ^ 64).toNat) / 64

/-- The moves of a command, cut, in loop order. -/
def cutsOf (c : Cmd) : List Move := (movesOf c).flatMap (cutMove (dwordOf c.blk 1))

/-- The blocks of the destination that a command writes: its chunks. -/
def blocksOf (c : Cmd) : List Nat := ((cutsOf c).map (blockOf (dwordOf c.blk 1))).eraseDups

/-- The receivers of a command: the mask bits of COPYM, one destination otherwise (R316). -/
def receivers (c : Cmd) : List Nat :=
  match c.kind with
  | .copym => maskBits (dwordOf c.blk 3)
  | _ => [0]

/-- Chunks a command lands in all; each chunk of COPYM once at each receiver. -/
def chunkCount (c : Cmd) : Nat := (blocksOf c).length * (receivers c).length

/-- Chunk i: its parts in loop order, and its receiver. -/
def chunkAt (c : Cmd) (i : Nat) : Option (List Move × Nat) :=
  let rs := receivers c
  match (blocksOf c)[i / rs.length]?, rs[i % rs.length]? with
  | some k, some b => some ((cutsOf c).filter (fun p => blockOf (dwordOf c.blk 1) p == k), b)
  | _, _ => none

/-- The destination base of a chunk: for COPYM, the receiver's local memory at DST[20:0] (R316). -/
def dstBase (c : Cmd) (b : Nat) : Word :=
  match c.kind with
  | .copym => coreAddr (maskCore c.issuer b) + BitVec.ofNat 64 (fld (dwordOf c.blk 1) 0 21)
  | _ => dwordOf c.blk 1

/-- The barrier at which landings count (R281, R316). -/
def barOf (c : Cmd) (b : Nat) : CoreId :=
  match c.kind with
  | .copym => maskCore c.issuer b
  | _ => compBarCore (dwordOf c.blk 5)

/-- Bytes that have landed count at the named barrier (R281). -/
def countLanding (s : State) (c : Cmd) (b n : Nat) : State :=
  let comp := dwordOf c.blk 5
  if compBe comp then barAdd s (barOf c b) (compBar comp) 0 (-(n : Int)) else s

/-- The virtual source bytes of a command, as address and length (R278, R288, R314). -/
def srcRanges (c : Cmd) : List (Nat × Nat) :=
  let src := dwordOf c.blk 0
  if compSsp (dwordOf c.blk 5) then []
  else match c.kind with
    | .conv =>
      let n := fld (dwordOf c.blk 2) 0 32
      [(src.toNat, n * codeBits (auxSfmt (dwordOf c.blk 3)) / 8), ((dwordOf c.blk 4).toNat, (n + 31) / 32)]
    | _ => (movesOf c).map fun m => ((src + BitVec.ofInt 64 m.sd).toNat, m.n)

/-- The pieces of a virtual range with a usable translation: virtual address, physical address and length. -/
def mappedPieces (s : State) (near : List Xlat) (ctx : CtxNum) : Nat → Nat → Nat → List (Nat × Nat × Nat)
  | 0, _, _ => []
  | f + 1, va, n =>
    if n = 0 then []
    else
      let m := min n (4096 - va % 4096)
      let r := mappedPieces s near ctx f ((va + m) % 2 ^ 64) (n - m)
      match translate s near ctx va .r with
      | .ok pa => (va, pa, m) :: r
      | _ => r

/-- Does a range list hold an address? -/
def inPieces (rs : List (Nat × Nat)) (pa : Nat) : Bool := rs.any fun r => decide (r.1 ≤ pa) && decide (pa < r.1 + r.2)

/-- A command whose host takes back the physical ranges `rs`: what it keeps of them passes to the source addresses that stand for them,
so that a page moved keeps its bytes and a page put there later has its own (R279, R350; log 20). -/
def Cmd.unmap (s : State) (near : List Xlat) (rs : List (Nat × Nat)) (c : Cmd) : Cmd :=
  let out := c.old.mem.filter fun x => inPieces rs x.1
  if out.isEmpty then c
  else
    let ps := (srcRanges c).flatMap fun r => mappedPieces s near c.ctx (r.2 / 4096 + 2) r.1 r.2
    let va := out.foldl (fun l x => ps.foldl (fun l p =>
      if p.2.1 ≤ x.1 ∧ x.1 < p.2.1 + p.2.2 then note l (p.1 + (x.1 - p.2.1)) (x.2, kept c.old.bad (x.1 / 32) false) else l) l) c.old.va
    { c with old := { c.old with
      va := va
      mem := c.old.mem.filter fun x => !inPieces rs x.1
      bad := c.old.bad.filter fun x => !inPieces rs (x.1 * 32) } }

/-- A command that waits for a page: its request is sent (R351). -/
def pageWait (s : State) (c : Cmd) (va : Word) (perm : Bool) : Cmd × State :=
  let (s, p) := sendPageReq s c.issuer va true perm c.owner c.ctx
  ({ c with ptag := some p }, s)

/-- What becomes of a command and the machine after an engine access that may have failed. -/
def engDone (s : State) (c : Cmd) : ERes (Cmd × State) → Cmd × State
  | .ok r => r
  | .error (.fail f) => ({ c with fail := some f }, s)
  | .error (.page va perm) => pageWait s c va perm
  | .error .fill => (c, s)
  | .error (.claim rs) => (c, rs.foldl (fun s r => claim s c.ctx r) s)

/-- Before the pieces (base, displacement, length) of array space are written: those of other owners are taken together, and the write
waits for their fills (R212). -/
def engTake (s : State) (c : Cmd) (ps : List (Word × Int × Nat)) : ERes Unit :=
  if !compDsp (dwordOf c.blk 5) then .ok ()
  else do
    let rs ← ps.mapM fun p => do
      let a ← engAt p.1 p.2.1 true p.2.2
      let key ← engArr s c a p.2.2 .wr
      pure (foreignRegions s c.ctx key p.2.2)
    match rs.flatten.eraseDups with
    | [] => .ok ()
    | l => .error (.claim l)

/-- The source bytes of the parts of a chunk. -/
def readParts (s : State) (t : TileId) (c : Cmd) : List Move → ERes (List (List (Byte × Bool)) × State)
  | [] => .ok ([], s)
  | p :: r => do
    let (x, s1) ← engRead s t c (dwordOf c.blk 0) p.sd (compSsp (dwordOf c.blk 5)) p.n
    let (y, s2) ← readParts s1 t c r
    pure (x :: y, s2)

/-- The parts of a chunk written in loop order: a later one supplies the bytes it shares with an earlier (R314). -/
def writeParts (s : State) (t : TileId) (c : Cmd) (base : Word) : List (Move × List (Byte × Bool)) → ERes (Cmd × State)
  | [] => .ok (c, s)
  | (p, bs) :: r => do
    let (c1, s1) ← engWrite s t c base p.dd (compDsp (dwordOf c.blk 5)) bs
    writeParts s1 t c1 base r

/-- Chunk i of a movement command lands as a whole (R278, R279, R281, R351). One with a poisoned source reaches array
space as zeros, and the command fails (R286). -/
def landOne (s : State) (t : TileId) (c : Cmd) (i : Nat) : Cmd × State :=
  match chunkAt c i with
  | none => (c, s)
  | some (ps, b) =>
    let n := (ps.map (·.n)).sum
    let base := dstBase c b
    engDone s c (do
      let (xs, s1) ← readParts s t c ps
      engTake s1 c (ps.map fun p => (base, p.dd, p.n))
      if compDsp (dwordOf c.blk 5) && xs.any (fun x => x.any (·.2)) then do
        let (c, s2) ← writeParts s1 t c base (ps.zip (xs.map fun x => x.map fun _ => (0, false)))
        let a ← engAt base ((ps.map (·.dd)).headD 0) true 0
        pure ({ c with fail := some ⟨0x06, a, 0⟩ }, s2)
      else do
        let (c, s2) ← writeParts s1 t c base (ps.zip xs)
        pure ({ c with landed := insertNat i c.landed, bytes := c.bytes + n }, countLanding s2 c b n))

/-! Conversion (R288, R289, R317, R318). -/

/-- The rounding mode of element i (R68, R317). -/
def convMode (aux : Word) (i : Nat) : RMode :=
  match auxMode aux with
  | 0 => .ne
  | 1 => .rz
  | 2 => .rp
  | 3 => .rm
  | _ => .st (draw (auxSeed aux) i)

/-- Elements of a dense bit string (R62). -/
def elemsFrom (bits n v : Nat) : List Nat := (upto n).map fun i => (v >>> (bits * i)) % 2 ^ bits

/-- n codes packed densely. -/
def packCodes (bits : Nat) : List Nat → Nat
  | [] => 0
  | x :: r => x + (packCodes bits r) <<< bits

/-- The terms of R289. -/
def splitTerms (x : XVal) : Nat × Nat × Nat :=
  match x with
  | .fin .. =>
    let hi := roundTo bf16 .ne true x
    let r1 := XVal.add .ne x (bf16.decode hi).neg
    let mid := roundTo bf16 .ne false r1
    let r2 := XVal.add .ne r1 (bf16.decode mid).neg
    (hi, mid, roundTo bf16 .ne false r2)
  | _ => (roundTo bf16 .ne false x, 0, 0)

/-- What a block of elements writes: displacement from DST, or from DSCALE when the flag is set, and bytes. -/
def convOut (c : Cmd) (i0 : Nat) (xs : List XVal) : List (Bool × Nat × List Byte) :=
  let aux := dwordOf c.blk 3
  let df := auxDfmt aux
  let n := xs.length
  let total := fld (dwordOf c.blk 2) 0 32
  let bits := codeBits df
  if auxTerms aux ≠ 0 then
    let ts := xs.map splitTerms
    let arr := fun (f : Nat × Nat × Nat → Nat) => leBytes (2 * n) (packCodes 16 (ts.map f))
    [(false, 2 * i0, arr (·.1)), (false, 2 * total + 2 * i0, arr (·.2.1))] ++
      (if auxTerms aux = 3 then [(false, 4 * total + 2 * i0, arr (·.2.2))] else [])
  else if codeMx df then
    let ys := xs.map fun x => fp32.decode (roundTo fp32 .ne (auxSat aux) x)
    let (sc, cs) := quantiseBlock df ys ((upto n).map fun i => convMode aux (i0 + i))
    [(false, i0 * bits / 8, leBytes (n * bits / 8) (packCodes bits cs)), (true, i0 / 32, [BitVec.ofNat 8 sc])]
  else
    let cs := ((upto n).zip xs).map fun p => toCode df (convMode aux (i0 + p.1)) (auxSat aux) p.2
    [(false, i0 * bits / 8, leBytes (n * bits / 8) (packCodes bits cs))]

/-- The pieces of a converted block written in turn, with the bytes landed. -/
def convWrite (s : State) (t : TileId) (c : Cmd) : List (Bool × Nat × List Byte) → Nat → ERes (Nat × Cmd × State)
  | [], n => .ok (n, c, s)
  | (sc, d, bs) :: r, n => do
    let base := dwordOf c.blk (if sc then 7 else 1)
    let (c1, s1) ← engWrite s t c base d (compDsp (dwordOf c.blk 5)) (bs.map fun b => (b, false))
    convWrite s1 t c1 r (n + bs.length)

/-- The address of the poisoned element of a block from element i0, or of its scale byte (R286, R356). -/
def convPoisonAt (c : Cmd) (i0 bits : Nat) (bs : List (Byte × Bool)) : Word :=
  match bs.findIdx? (·.2) with
  | some j => dwordOf c.blk 0 + BitVec.ofNat 64 ((i0 + 8 * j / bits) * bits / 8)
  | none => dwordOf c.blk 4 + BitVec.ofNat 64 (i0 / 32)

/-- The next 32 elements of a CONV (R286, R290, R318); poisoned sources fail it with nothing written. -/
def convBlock (s : State) (t : TileId) (c : Cmd) : Cmd × State :=
  let aux := dwordOf c.blk 3
  let total := fld (dwordOf c.blk 2) 0 32
  let i0 := c.next
  let n := min 32 (total - i0)
  let sf := auxSfmt aux
  let bits := codeBits sf
  let arr := compSsp (dwordOf c.blk 5)
  engDone s c (do
    let (bs, s1) ← engRead s t c (dwordOf c.blk 0) (i0 * bits / 8 : Nat) arr (n * bits / 8)
    let (ss, s2) ← if codeMx sf then engRead s1 t c (dwordOf c.blk 4) (i0 / 32 : Nat) arr 1 else .ok ([(127, false)], s1)
    if (bs ++ ss).any (·.2) then engFail 0x06 (convPoisonAt c i0 bits bs) 0
    else
      let scale := (ss.headD (127, false)).1.toNat
      let xs := (elemsFrom bits n (ofLe (bs.map (·.1)))).map fun code =>
        if codeMx sf then scaled scale (elemVal sf code) else elemVal sf code
      let out := convOut c i0 xs
      engTake s2 c (out.map fun o => (dwordOf c.blk (if o.1 then 7 else 1), (o.2.1 : Int), o.2.2.length))
      let (m, c, s3) ← convWrite s2 t c out 0
      pure ({ c with next := i0 + n, bytes := c.bytes + m }, countLanding s3 c 0 m))

/-- Has every byte of a command landed? -/
def Cmd.allLanded (c : Cmd) : Bool :=
  match c.kind with
  | .conv => decide (fld (dwordOf c.blk 2) 0 32 ≤ c.next)
  | _ => decide (chunkCount c ≤ c.landed.length)

/-! Reports (R281, R283, R284, R287). -/

/-- The completion-interrupt address, 0 for none (R312). -/
def handlerAddr (c : Cmd) : Word := setBit (dwordOf c.blk 6) 0 false

def engNum (c : Cmd) : Nat := if c.kind = .conv then 1 else 0

/-- The stream word of a command (R281). -/
def streamWord (c : Cmd) (err : BitVec 8) (reason : BitVec 4) : Vec :=
  BitVec.ofNat 512 (c.bytes % 2 ^ 32 * 2 ^ 32 + err.toNat * 2 ^ 24 + engNum c * 2 ^ 16 + c.tid.toNat +
    (if err = 4 then reason.toNat * 2 ^ 64 else 0))

/-- The stream word sent as by the issuing core; none while it has no credit (R178, R281, R312). -/
def sendStream (s : State) (c : Cmd) (err : BitVec 8) (reason : BitVec 4) : Option (Cmd × State) :=
  let comp := dwordOf c.blk 5
  if !compSe comp || c.streamed then some (c, s)
  else
    let dst := compStrCore comp
    let e := compEntry comp
    match takeCredit (coreOf s c.issuer) dst e with
    | none => none
    | some k =>
      let s := setCore s c.issuer k
      let c := { c with streamed := true }
      let b : Body := .stream (headerOf s c.owner c.ctx e.toNat 8 false (compEos comp) 2 0) (streamWord c err reason)
      if coreShut s c.issuer dst then
        let w := refusalWord c.owner 2 3 dst e.toNat
        some (c, sendAs (coreRec s c.issuer 1 0x13 c.owner w 0) dst c.issuer 0xffff (.refused w false (some (dst, e, compEos comp))))
      else some (c, sendPkt s ⟨c.issuer, dst, c.owner, c.ctx, b⟩)

/-- The completion entry of a command queued; none while the queue is full. The entry of a task that has ended
is discarded (R283, R287). -/
def queueEntry (s : State) (c : Cmd) (err : BitVec 8) : Option State :=
  if handlerAddr c = 0 ∨ c.live = false then some s
  else
    let k := coreOf s c.issuer
    if k.compQ.length < 16 then
      some (setCore s c.issuer { k with compQ := k.compQ ++ [⟨c.owner, handlerAddr c, err, BitVec.ofNat 8 (engNum c), c.tid⟩] })
    else none

/-- The failure's other reports: its record, and the engine-error event or the orphan notice (R284, R287, R356). -/
def failReports (s : State) (c : Cmd) (f : CmdFail) : State :=
  let s := sendRec s (mkRec 1 f.code c.ctx c.owner c.issuer.toNat f.addr (c.tid.setWidth 64))
  if !c.live then sendNotice s c.issuer (noticeWord c.owner 1 f.code c.tid c.parent) none
  else if handlerAddr c = 0 then
    pushEvent s c.issuer 0x15 (BitVec.ofNat 64 (c.owner.toNat * 2 ^ 48 + f.code.toNat * 2 ^ 24 + engNum c * 2 ^ 16 + c.tid.toNat))
  else s

end Sys2Proof.Machine
end

