-- ==== Sys2Proof/Machine/Matrix.lean ====
section
/-!
DEFINITION. The matrix engine: views (R291, R292, R319, R321), the checks of a command (R293, R298 to R300, R322,
R323), what a slice computes (R72, R294, R295, R298, R299), starting, stopping and writing back (R295 to R305).
-/
namespace Sys2Proof.Machine

/-! Views (R319). -/

def vStream (v : View) : Bool := bit v.w 63
def vBe (v : View) : Bool := bit v.w 62
def vBar (v : View) : Nat := fld v.w 56 6
def vSr (v : View) : Nat := fld v.w 45 10
def vFmt (v : View) : Nat := fld v.w 40 5
def vCols (v : View) : Nat := fld v.w 30 10
def vRows (v : View) : Nat := fld v.w 19 11
def vCol0 (v : View) : Nat := fld v.w 10 9
def vRow0 (v : View) : Nat := fld v.w 0 10

/-- A tile view under the first two conditions of R321. -/
def tileViewOk (v : View) : Bool :=
  !vStream v && decide (1 ≤ vRows v) && decide (1 ≤ vCols v) && decide (vRow0 v + vRows v ≤ 1024) && decide (vCol0 v + vCols v ≤ 512)

/-- A C view (R292). -/
def cViewOk (v : View) : Bool :=
  tileViewOk v && (vFmt v == 0 || vFmt v == 0x14) && vRows v == 64 && vCols v == 256

/-- The cell of R293 of an operand format: width and whether it accumulates in INT32. -/
def cellOf (f : Nat) : Option (Nat × Bool) :=
  match f with
  | 0x00 => some (32, false)
  | 0x01 | 0x02 => some (16, false)
  | 0x08 => some (16, true)
  | 0x03 | 0x04 | 0x0e | 0x0f | 0x13 => some (8, false)
  | 0x09 | 0x0a => some (8, true)
  | 0x05 | 0x06 | 0x10 | 0x11 => some (6, false)
  | 0x07 | 0x12 => some (4, false)
  | 0x0b | 0x0c => some (4, true)
  | 0x0d => some (2, true)
  | _ => none

/-- Slices side by side in a view, and slices it holds (R291). -/
def vAcross (v : View) : Nat := vCols v / 96
def vSlices (v : View) : Nat := vAcross v * (vRows v / 64)

/-- An operand view of MMA or MMAR (R291). -/
def operandOk (v : View) : Bool :=
  tileViewOk v && vRows v % 64 == 0 && vCols v % 96 == 0 && decide (1 ≤ vAcross v) && decide (vAcross v ≤ 5) && (cellOf (vFmt v)).isSome

/-- The A view of MMAX (R298). -/
def accViewOk (v : View) : Bool :=
  tileViewOk v && vFmt v == 0 && vRows v % 64 == 0 && decide (vRows v ≤ 1024) && vCols v == 256

/-! The control operand (R322). -/

def ctlN (w : Word) : Nat := fld w 0 12
def ctlStart (w : Word) : Nat := fld w 12 12
def ctlBar (w : Word) : Nat := fld w 24 6
def ctlBe (w : Word) : Bool := bit w 30
def ctlSat (w : Word) : Bool := bit w 31
def ctlDcf (w : Word) : Nat := fld w 32 3
def ctlWide (w : Word) : Nat := fld w 36 2 + 1
def ctlHigh (w : Word) : Nat := fld w 38 2 + 1

/-- Format code of the down-converter. -/
def dcfCode (n : Nat) : Nat :=
  match n with
  | 0 => 0x02
  | 1 => 0x01
  | 2 => 0x03
  | _ => 0x04

/-- The format under which A is paired. -/
def aFormat (kind : MKind) (a : View) (ctl : Word) : Nat :=
  match kind with
  | .mmax => dcfCode (ctlDcf ctl)
  | _ => vFmt a

/-- Rectangles of rows and byte columns that share a byte. -/
def overlap (r1 c1 h1 w1 r2 c2 h2 w2 : Nat) : Bool :=
  decide (r1 < r2 + h2) && decide (r2 < r1 + h1) && decide (c1 < c2 + w2) && decide (c2 < c1 + w1)

/-- Does an operand's footprint share a byte with the C rectangle (R321, R323 step 6)? Scale row k holds bytes
8i to 8i + E / 32 - 1 for i in [0, 63]. -/
def meetsC (v c : View) (mx : Bool) (n per : Nat) : Bool :=
  overlap (vRow0 v) (vCol0 v) (vRows v) (vCols v) (vRow0 c) (vCol0 c) 64 256 ||
  (mx && (upto 64).any fun i => overlap (vSr v) (8 * i) n per (vRow0 c) (vCol0 c) 64 256)

/-- The tiles of an MMAR rectangle, row by row (R300); none beyond the grid. -/
def rectTile (t : TileId) (u v : Nat) : Option TileId :=
  if tileX t + u < 16 ∧ tileY t + v < 16 then some (tileAt (tileX t + u) (tileY t + v)) else none

def rectOffsets (ctl : Word) : List (Nat × Nat) :=
  (upto (ctlHigh ctl)).flatMap fun v => (upto (ctlWide ctl)).map fun u => (u, v)

/-- The core 0 address at an offset in the grid, for EVAL (R300). -/
def rectAddr (t : TileId) (u v : Nat) : Word := arrAddr (2 * (tileY t + v)) (2 * (tileX t + u)) 0

/-- Is a tile of the rectangle inside the supergroup and the partition? -/
def rectOk (s : State) (t : TileId) (u v : Nat) : Bool :=
  match rectTile t u v with
  | none => false
  | some x => tileX x / 4 == tileX t / 4 && tileY x / 4 == tileY t / 4 && inPart s s.cur (coreOfTile x 0)

/-- The illegal-operand-specifier trap that names a view register (R293). -/
def viewBad (p : Bool) (i : BitVec 3) : Res Unit := need (!p) 0x02 (i.setWidth 64)

/-- R323 for a command of the core that steps. -/
def mteCheck (s : State) (kind : MKind) (cv av bv : BitVec 3) (ctl : Word) : Res Unit := do
  let view := fun (i : BitVec 3) => vget s.core.views i.toNat View.reset
  let c := view cv
  let a := view av
  let b := view bv
  viewBad (!cViewOk c) cv
  viewBad (!(match kind with
    | .mmax => accViewOk a
    | _ => operandOk a)) av
  viewBad (!(match kind with
    | .mmas => vStream b && (cellOf (vFmt b)).isSome
    | _ => operandOk b)) bv
  viewBad (kind == .mmax && decide (3 < ctlDcf ctl)) cv
  let fa := aFormat kind a ctl
  viewBad (cellOf fa != cellOf (vFmt b)) bv
  let cell := (cellOf fa).getD (32, false)
  viewBad ((vFmt c == 0x14) != cell.2) cv
  let e := 768 / cell.1
  let n := ctlN ctl
  viewBad (n == 0 || decide (n ≤ ctlStart ctl) || (kind == .mmax && n != (vRows a + e - 1) / e)) cv
  let sa := kind != .mmax
  let sb := kind != .mmas
  viewBad (sa && (decide (vSlices a < n) || (codeMx (vFmt a) && decide (1024 < vSr a + n)))) av
  viewBad (sb && (decide (vSlices b < n) || (codeMx (vFmt b) && decide (1024 < vSr b + n)))) bv
  viewBad (meetsC a c (sa && codeMx (vFmt a)) n (e / 32) || (sb && meetsC b c (codeMx (vFmt b)) n (e / 32))) cv
  if kind = .mmar then
    match (rectOffsets ctl).find? (fun p => !rectOk s (myTile s) p.1 p.2) with
    | some p => exc 0x19 (rectAddr (myTile s) p.1 p.2)
    | none => pure ()

/-! Operands of a slice (R291, R294, R298, R299). -/

/-- Bytes of a tile store row, read for a context. -/
def tsRow (s : State) (ctx : CtxNum) (t : TileId) (row col n : Nat) : List Byte :=
  arrRead s ctx (tsKey t (row * 512 + col)) n

/-- Element values of a 96-byte slice row with its scale bytes. -/
def rowVals (f : Nat) (bs scales : List Byte) : List XVal :=
  let bits := codeBits f
  let es := elemsFrom bits (768 / bits) (ofLe bs)
  if codeMx f then ((upto es.length).zip es).map fun p => scaled (scales[p.1 / 32]?.getD 127).toNat (elemVal f p.2)
  else es.map (elemVal f)

/-- Row i of slice k of an operand view in tile t. -/
def sliceRow (s : State) (ctx : CtxNum) (t : TileId) (v : View) (k i : Nat) : List XVal :=
  let bits := codeBits (vFmt v)
  let bs := tsRow s ctx t (vRow0 v + 64 * (k / vAcross v) + i) (vCol0 v + 96 * (k % vAcross v)) 96
  let sc := if codeMx (vFmt v) then tsRow s ctx t (vSr v + k) (8 * i) (768 / bits / 32) else []
  rowVals (vFmt v) bs sc

/-- Row i of slice k of the K-vectors of MMAX; absent positions are left out (R298). -/
def downRow (s : State) (ctx : CtxNum) (t : TileId) (a : View) (ctl : Word) (k i : Nat) : List XVal :=
  let code := dcfCode (ctlDcf ctl)
  let f := (codeFmt code).getD bf16
  let e := 768 / codeBits code
  let kk := vRows a
  ((upto e).filter fun p => e * k + p < kk).map fun p =>
    let q := e * k + p
    let x := ofLe (tsRow s ctx t (vRow0 a + 64 * (q / 64) + i) (vCol0 a + 4 * (q % 64)) 4)
    f.decode (roundTo f .ne (ctlSat ctl) (fp32.decode x))

/-- Row j of the arrived slice of an MMAS stream (R299): 6,144 bytes of rows, then 512 of scales. -/
def streamRow (f : Nat) (bs : List Byte) (j : Nat) : List XVal :=
  rowVals f ((bs.drop (96 * j)).take 96) ((bs.drop (6144 + 8 * j)).take (768 / codeBits f / 32))

/-- A and B rows of slice k for the tile at an offset of the corner (R295, R300). -/
def aRows (s : State) (m : MCmd) (t : TileId) (k : Nat) : List (List XVal) :=
  (upto 64).map fun i => match m.kind with
    | .mmax => downRow s m.ctx t m.a m.ctl k i
    | _ => sliceRow s m.ctx t m.a k i

def bRows (s : State) (r : MRun) (t : TileId) (k : Nat) : List (List XVal) :=
  (upto 64).map fun j => match r.cmd.kind, r.stream with
    | .mmas, some bs => streamRow (vFmt r.cmd.b) bs j
    | .mmas, none => []
    | _, _ => sliceRow s r.cmd.ctx t r.cmd.b k j

/-- The integer an exact element of an integer cell holds. -/
def xInt : XVal → Int
  | .fin n m e _ => signed n (m <<< e.toNat)
  | _ => 0

/-- One element of a block after a slice (R72). -/
def sliceElem (int : Bool) (c : BitVec 32) (a b : List XVal) : BitVec 32 :=
  if int then applySliceI c (List.zipWith (fun x y => xInt x * xInt y) a b)
  else applySliceF c (List.zipWith XVal.mul a b)

/-- A 64 × 64 block after a slice. -/
def sliceBlock (int : Bool) (acc : List (BitVec 32)) (as bs : List (List XVal)) : List (BitVec 32) :=
  (upto 4096).map fun p => sliceElem int (acc[p]?.getD 0) (as[p / 64]?.getD []) (bs[p % 64]?.getD [])

/-- Does a command accumulate in INT32? -/
def cmdInt (m : MCmd) : Bool := vFmt m.c == 0x14

/-- The tiles of a command's blocks, with their operand tiles for A and for B (R300). -/
def cmdTiles (t : TileId) (m : MCmd) : List (TileId × TileId × TileId) :=
  match m.kind with
  | .mmar => (rectOffsets m.ctl).filterMap fun p =>
    match rectTile t p.1 p.2, rectTile t 0 p.2, rectTile t p.1 0 with
    | some x, some xa, some xb => some (x, xa, xb)
    | _, _, _ => none
  | _ => [(t, t, t)]

/-- C as the command loads it (R295). -/
def loadC (s : State) (ctx : CtxNum) (t : TileId) (c : View) : List (BitVec 32) :=
  (upto 64).flatMap fun i =>
    let bs := tsRow s ctx t (vRow0 c + i) (vCol0 c) 256
    (upto 64).map fun j => BitVec.ofNat 32 (ofLe ((bs.drop (4 * j)).take 4))

/-- A block stored into its C view (R295). -/
def storeC (s : State) (ctx : CtxNum) (t : TileId) (c : View) (blk : List (BitVec 32)) : State :=
  (upto 64).foldl (fun s i =>
    let bs := ((blk.drop (64 * i)).take 64).flatMap fun x => leBytes 4 x.toNat
    arrWrite s ctx (tsKey t ((vRow0 c + i) * 512 + vCol0 c)) bs) s

/-! Running (R295, R296, R301 to R305, R307). -/

def modMte (s : State) (t : TileId) (f : Mte → Mte) : State := modTile s t fun x => { x with mte := f x.mte }
def mteOf (s : State) (t : TileId) : Mte := (tileOf s t).mte

/-- Is no fill of n tile store rows in progress (R212)? -/
def rowsFilled (s : State) (t : TileId) (row n : Nat) : Bool := filled s (tsKey t (row * 512)) (n * 512)

/-- The rows that slice k of an operand view reads are not being filled. -/
def sliceFilled (s : State) (t : TileId) (v : View) (k : Nat) : Bool :=
  rowsFilled s t (vRow0 v + 64 * (k / vAcross v)) 64 && (!codeMx (vFmt v) || rowsFilled s t (vSr v + k) 1)

/-- May a command read what its next slice needs: no fill stands in the way (R212)? -/
def operandsFilled (s : State) (t : TileId) (m : MCmd) (k : Nat) : Bool :=
  (cmdTiles t m).all fun p =>
    (k != ctlStart m.ctl || rowsFilled s p.1 (vRow0 m.c) 64) &&
    (match m.kind with
      | .mmax => rowsFilled s p.2.1 (vRow0 m.a) (vRows m.a)
      | _ => sliceFilled s p.2.1 m.a k) &&
    (m.kind == .mmas || sliceFilled s p.2.2 m.b k)

/-- A switch has stopped the engines of a tile (R353 step 2). -/
def engStopped (s : State) (t : TileId) : Bool := (tileOf s t).engStop.isSome

/-- Views that name the same C (R306). -/
def sameC (a b : View) : Bool :=
  vRow0 a == vRow0 b && vCol0 a == vCol0 b && vRows a == vRows b && vCols a == vCols b && vFmt a == vFmt b

/-- ck from the start of a command to the boundary before its first slice (R306). -/
def loadTime (s : State) (t : TileId) (m : MCmd) : Nat :=
  let held := (cmdTiles t m).all fun p => match (mteOf s p.1).held with
    | some v => sameC v m.c
    | none => false
  (if held then 0 else 8) + (if m.kind = .mmax then 8 else 0)

/-- The first command of the queue begins at tile t; every tile of an MMAR counts as running (R295, R306, R307). -/
def startRun (s : State) (t : TileId) : State :=
  match (mteOf s t).queue with
  | [] => s
  | m :: q =>
    let acc := (cmdTiles t m).map fun p => (p.1, loadC s m.ctx p.1 m.c)
    let from_ := (cmdTiles t m).foldl (fun c p => max c (fillEnd s (tsKey p.1 (vRow0 m.c * 512)) 32768)) s.ck
    let r : MRun := ⟨m, acc, ctlStart m.ctl, from_ + loadTime s t m, none⟩
    let s := (cmdTiles t m).foldl (fun s p => modMte s p.1 fun e => { e with granted := m.kind == .mmar, filler := 0 }) s
    modMte s t fun e => { e with queue := q, run := some r }

/-- The tiles that an MMAR holds are free again. -/
def freeRect (s : State) (t : TileId) (m : MCmd) : State :=
  match m.kind with
  | .mmar => (cmdTiles t m).foldl (fun s p => modMte s p.1 fun e => { e with rect := none, granted := false }) s
  | _ => s

/-- An engine whose last slice has ended: the next command continues without a grant, or the engine runs down (R307, R308). A
stopped one starts nothing (R353). -/
def continueRun (s : State) (t : TileId) : State :=
  match (mteOf s t).queue with
  | m :: _ => if m.kind = .mzero ∨ m.kind = .mmar ∨ engStopped s t = true then s else startRun s t
  | [] => modMte s t fun e => { e with filler := s.ck + 16 }

/-- The blocks of the running command go to their C views, and the engines of its tiles are free for the next command; a stop
carries what record_stop will write, and leaves no C held (R295, R296, R301, R306). -/
def endRun (s : State) (t : TileId) (r : MRun) (stop : Option (Nat × BitVec 8 × Nat)) (addr : Word) : State :=
  let m := r.cmd
  let s := r.acc.foldl (fun s p => if isDark s (tileOfCore (coreOfTile p.1 0)) then s else storeC s m.ctx p.1 m.c p.2) s
  let s := modMte s t fun e =>
    { e with run := none, wb := e.wb ++ [⟨m, r.acc.map (·.1), stop, addr, e.stopReq.isSome⟩], stopReq := none }
  let live := (r.acc.map (·.1)).filter fun x => !isDark s x
  let s := live.foldl (fun s x => modMte s x fun e => { e with held := if stop.isSome then none else some m.c }) s
  live.foldl continueRun (freeRect s t m)

/-- A dark tile of a command's rectangle (R305). -/
def darkTile (s : State) (t : TileId) (m : MCmd) : Option TileId :=
  ((cmdTiles t m).find? fun p => isDark s p.1).map (·.1)

/-- The stop condition of cause 2 or 3 that holds at a boundary in ck b (R301); at the boundary before the first slice, a request
counts that came before that ck (log 50). -/
def stopCause (s : State) (t : TileId) (b : Nat) : Option Nat :=
  if (mteOf s t).stopReq.any (fun q => decide (q < b)) then some 2
  else if (tileOf s t).engStop.any (fun q => decide (q ≤ b)) then some 3
  else none

/-- The stop condition at the boundary before slice k, at which a command stands: before the first slice as at its ck, and while an MMAS
waits there for its bytes, that of a switch (R301, R353). -/
def waitStop (s : State) (t : TileId) (r : MRun) : Option Nat :=
  (if r.k = ctlStart r.cmd.ctl then stopCause s t r.first else none).or
    (if r.cmd.kind = .mmas ∧ r.stream = none ∧ engStopped s t = true then some 3 else none)

/-- Slice k of the running command applied, when no region that it reads is being filled (R212); a dark tile fails an MMAR (R305); the stop conditions are judged at the boundary
before the first slice and at that after each (R295, R301). -/
def sliceStep (s : State) (t : TileId) : State :=
  let e := mteOf s t
  match e.run with
  | none => s
  | some r =>
    let m := r.cmd
    if let some x := darkTile s t m then endRun s t r (some (4, 8, r.k)) (coreAddr (coreOfTile x 0))
    else if let some c := waitStop s t r then endRun s t r (some (c, 0, r.k)) 0
    else if (m.kind = .mmas ∧ r.stream = none) ∨ operandsFilled s t m r.k = false then s
    else
      let acc := List.zipWith (fun (x : TileId × List (BitVec 32)) (p : TileId × TileId × TileId) =>
        (x.1, sliceBlock (cmdInt m) x.2 (aRows s m p.2.1 r.k) (bRows s r p.2.2 r.k))) r.acc (cmdTiles t m)
      let r' : MRun := { r with acc := acc, k := r.k + 1, stream := none }
      if ctlN m.ctl ≤ r'.k then endRun s t r' none 0
      else match stopCause s t s.ck with
        | some c => endRun s t r' (some (c, 0, r'.k)) 0
        | none => modMte s t fun e => { e with run := some r' }

/-- An MMAR whose rectangle has a dark tile before its last grant fails with no slice applied (R305). -/
def failQueued (s : State) (t : TileId) : State :=
  match (mteOf s t).run, (mteOf s t).queue with
  | none, m :: q =>
    match if m.kind = .mmar then darkTile s t m else none with
    | some x =>
      let w : MWb := ⟨m, [], some (4, 8, ctlStart m.ctl), coreAddr (coreOfTile x 0), false⟩
      freeRect (modMte s t fun e => { e with queue := q, wb := e.wb ++ [w] }) t m
    | none => s
  | _, _ => s

/-- What the MMARs that tile x takes part in come to when x goes dark: a running one ends at the last boundary that it reached,
its live tiles written back, and an accepted one fails (R305). -/
def failRect (s : State) (x : TileId) : State :=
  match (mteOf s x).rect with
  | none => s
  | some t =>
    match (mteOf s t).run with
    | some r => endRun s t r (some (4, 8, r.k)) (coreAddr (coreOfTile x 0))
    | none => failQueued s t

/-- The KIND code of MPROG (R302). -/
def kindCode : MKind → Nat
  | .mma => 0 | .mmax => 1 | .mmas => 2 | .mmar => 3 | .mzero => 0

/-- MPROG as record_stop writes it (R302). -/
def mprogWord (m : MCmd) (cause : Nat) (err : BitVec 8) (k : Nat) : Word :=
  BitVec.ofNat 64 (2 ^ 63 + err.toNat * 2 ^ 48 + cause * 2 ^ 44 + kindCode m.kind * 2 ^ 42 + m.cv.toNat * 2 ^ 39 +
    m.av.toNat * 2 ^ 36 + m.bv.toNat * 2 ^ 33 + k * 2 ^ 16 + ctlN m.ctl)

/-- Has the fill ended that a write-back began in a region of another owner (R212)? -/
def wbFilled (s : State) (w : MWb) : Bool := w.tiles.all fun x => isDark s x || rowsFilled s x (vRow0 w.cmd.c) 64

/-- The oldest write-back becomes visible: the command completes, or its stop or failure is recorded (R296, R301,
R302, R304, R305). -/
def wbStep (s : State) (t : TileId) : State :=
  match (mteOf s t).wb with
  | [] => s
  | w :: rest =>
    if !wbFilled s w then s
    else
    let m := w.cmd
    let s := modMte s t fun e => { e with wb := rest }
    match w.stop with
    | none =>
      if ctlBe m.ctl then w.tiles.foldl (fun s _ => barAdd s m.issuer (ctlBar m.ctl) 0 (-16384)) s else s
    | some (cause, err, k) =>
      let s := modCore s m.issuer fun c => { c with mprog := mprogWord m cause err k, mprogc := m.ctl }
      let s := if cause = 4 then sendRec s (mkRec 1 err m.ctx m.tag m.issuer.toNat w.addr 0) else s
      if cause = 1 then pushEvent s m.issuer 0x14 w.addr
      else if cause = 4 then pushEvent s m.issuer 0x14 0
      else s

/-- Regions of a view that a context does not own (R212). -/
def viewForeign (s : State) (t : TileId) (ctx : CtxNum) (v : View) : List Nat :=
  foreignRegions s ctx (tsKey t (vRow0 v * 512)) (vRows v * 512)

/-- MZERO at the head of the queue, no command computing and no ramp-down to end: its view becomes +0 and its bytes count
(R297, R308), after the fills of the regions that it takes (R212). An MMA behind it that has its grant begins. -/
def mzeroStep (s : State) (t : TileId) : State :=
  let e := mteOf s t
  match e.run, e.queue with
  | none, m :: q =>
    let v := m.c
    if m.kind ≠ .mzero ∨ s.ck < e.filler ∨ engStopped s t = true ∨ rowsFilled s t (vRow0 v) (vRows v) = false then s
    else if (viewForeign s t m.ctx v).isEmpty = false then (viewForeign s t m.ctx v).foldl (fun s r => claim s m.ctx r) s
    else
      let s := (upto (vRows v)).foldl (fun s i =>
        arrWrite s m.ctx (tsKey t ((vRow0 v + i) * 512 + vCol0 v)) (List.replicate (vCols v) 0)) s
      let s := modMte s t fun e => { e with queue := q, held := none }
      let s := if vBe v then barAdd s m.issuer (vBar v) 0 (-((vRows v * vCols v : Nat) : Int)) else s
      if e.granted && (q.head?.map (·.kind)) != some .mzero then startRun s t else s
  | _, _ => s

/-! Acceptance (R296, R300, R302, R310). -/

/-- A recorded stop stands on some core of the tile (R302). -/
def stopStands (s : State) (t : TileId) : Bool := (coresOfTile t).any fun k => bit (coreOf s k).mprog 63

/-- The write-back of a stopped command has not yet been recorded. -/
def stopping (e : Mte) : Bool := e.wb.any fun w => w.stop.isSome

/-- Is an engine idle at a ck: nothing accepted, nothing running down, no rectangle (R300, R307)? -/
def mteIdle (ck : Nat) (e : Mte) : Bool := e.queue.isEmpty && e.run.isNone && decide (e.filler ≤ ck) && e.rect.isNone

/-- A command computes: a slice, or an MZERO (R296, R333). -/
def computing (e : Mte) : Bool := e.run.isSome || (e.queue.head?.map (·.kind)) == some .mzero

/-- Step 6 of R310 for an MTE command of the core that steps. -/
def mteWait (s : State) (kind : MKind) (ctl : Word) (onV : Bool) : Bool :=
  let t := myTile s
  let e := mteOf s t
  !computing e && e.rect.isNone && !(onV && (stopStands s t || stopping e)) &&
  (match kind with
    | .mmas => decide (mveUsed (tileOf s t) < 8)
    | .mmar => (rectOffsets ctl).all fun p => match rectTile t p.1 p.2 with
      | some x => mteIdle s.ck (mteOf s x)
      | none => false
    | _ => true)

/-- Does a command that is accepted now continue a run: was it blocked when the last slice ended (R296, R307)? It is tried again in the ck of
that end or in the next. -/
def followsRun (s : State) (e : Mte) (kind : MKind) : Bool :=
  kind != .mmar && e.run.isNone && e.queue.isEmpty && decide (s.ck + 15 ≤ e.filler) && (cx s).last == .blocked

/-- A command accepted: views and control copied; every tile of an MMAR rectangle is taken (R291, R307, R310). One that continues a run
starts at once and there is no filler; another accepted in ramp-down needs no grant, and an MZERO ends the ramp at the next step
boundary (R307, R308). -/
def mteAccept (s : State) (kind : MKind) (cv av bv : BitVec 3) (ctl : Word) : State :=
  let t := myTile s
  let view := fun (i : BitVec 3) => vget s.core.views i.toNat View.reset
  let e := mteOf s t
  let follows := followsRun s e kind
  let ramp := decide (s.ck < e.filler)
  let m : MCmd := ⟨kind, cv, av, bv, view cv, view av, view bv, ctl, s.cur, s.core.ctxnum, actTag s, s.kind, s.core.txn, s.ck,
    ramp && kind != .mzero⟩
  let s := modMte s t fun e => { e with
    queue := e.queue ++ [m]
    filler := if follows then 0 else if kind = .mzero then min e.filler ((s.ck / 4 + 1) * 4) else e.filler }
  if follows && kind != .mzero then startRun s t
  else match kind with
  | .mmar => (cmdTiles t m).foldl (fun s p => modMte s p.1 fun e => { e with rect := some t, granted := false }) s
  | _ => s

end Sys2Proof.Machine
end

