-- ==== Sys2Proof/Machine/EngineInstr.lean ====
section
/-!
DEFINITION. Engine instructions (R309, R310, R314 to R317, R320, R323 to R326).
-/
namespace Sys2Proof.Machine

open Host (Outcome)

/-- The engine-binding fault (R132): `lo` is the place of the binding in QMAP, `n` the engine. -/
def portOk (s : State) (lo : Nat) (n : Word) : Res Unit :=
  need (decide (fld (tileOf s (myTile s)).qmap lo 2 = tcore s.cur)) 0x1c n

def mvePort (s : State) : Res Unit := portOk s 34 0
def cvePort (s : State) : Res Unit := portOk s 36 1
def mtePort (s : State) : Res Unit := portOk s 38 2

/-- The port of a block command. -/
def blockPort (s : State) : CmdKind → Res Unit
  | .conv => cvePort s
  | _ => mvePort s

/-- A block command (R310): a block in another core's local memory is read by a remote load, and the sources are
taken when the command is accepted (R42). -/
def blockOp (s : State) (kind : CmdKind) (d : Spec) (m : MemOp) : Outcome State Fault Refusal :=
  finishAt s [.s d, .s m.a] do
    checkUses [.srcS d, .srcS m.a]
    blockPort s kind
    checkRoles s [.srcS d, .srcS m.a]
    let (tid, s1) ← readS s d
    let (b, s2) ← readS s1 m.a
    let ea := formAddr m.sp b m.off
    let pl ← placeOf s2 m.sp ea 64 64 .r true
    match pl with
    | .remote k off =>
      if coreShut s s.cur k then exc 0x1a (refusalEval ea 3)
      else pure (waitingFor (sendFrom s k (.load s.kind [⟨off, 0, 64⟩] ea)) (.block kind d m ea) [.s d, .s m.a])
    | _ =>
      let (bs, s3) ← readPlace s2 ea 64 pl
      let s4 ← blockIssue s3 kind tid bs
      pure (retire s4)

/-- A block command whose 64 bytes have come from another core (R310 steps 4 to 7). -/
def blockResume (s : State) (kind : CmdKind) (d : Spec) (m : MemOp) (bs : List Byte) : State :=
  let s := endWait s
  let r : Res State := do
    let (tid, s1) ← readS s d
    let (_, s2) ← readS s1 m.a
    blockIssue s2 kind tid bs
  match r with
  | .ok s' => retire s'
  | .error (.exc e) => raise s e
  | .error _ => blocked s

/-- COPY (R309, R310, R314). -/
def execCopy (d : Spec) (m : MemOp) (s : State) : Outcome State Fault Refusal := blockOp s .copy d m

/-- COPY2 (R309, R310, R314). -/
def execCopy2 (d : Spec) (m : MemOp) (s : State) : Outcome State Fault Refusal := blockOp s .copy2 d m

/-- COPYX (R309, R310, R315). -/
def execCopyx (d : Spec) (m : MemOp) (s : State) : Outcome State Fault Refusal := blockOp s .copyx d m

/-- COPYM (R309, R310, R316). -/
def execCopym (d : Spec) (m : MemOp) (s : State) : Outcome State Fault Refusal := blockOp s .copym d m

/-- CONV (R309, R310, R317). -/
def execConv (d : Spec) (m : MemOp) (s : State) : Outcome State Fault Refusal := blockOp s .conv d m

/-- A view register replaced. -/
def putView (s : State) (i : Nat) (v : View) : State := { s with core := { s.core with views := vset s.core.views i v } }

/-- MVIEW of the tile kind (R320): bits 63 and 55 are cleared. -/
def execMview (d a : Spec) (s : State) : Outcome State Fault Refusal :=
  finish s do
    checkUses [.view d, .srcS a]
    checkRoles s [.srcS a]
    let (x, s1) ← readS s a
    pure (putView s1 d.toNat ⟨x &&& 0x7f7fffffffffffff, 0, 0⟩)

/-- MVIEW of the stream kind (R320): a in [1, 30]. -/
def execMviewSv (d a : Spec) (f : BitVec 5) (s : State) : Outcome State Fault Refusal :=
  finish s do
    checkUses [.view d]
    need (decide (1 ≤ a.toNat) && decide (a.toNat ≤ 30)) 0x02 (a.setWidth 64)
    pure (putView s d.toNat ⟨BitVec.ofNat 64 (2 ^ 63 + f.toNat * 2 ^ 40), getS s a.toNat, getS s (a.toNat + 1)⟩)

/-- MZERO (R297, R324). Handing a command to an engine is a release, which waits for the context's earlier remote stores (R242, R310
step 7). -/
def execMzero (a : Spec) (s : State) : Outcome State Fault Refusal :=
  finish s do
    checkUses [.view a]
    mtePort s
    let i : BitVec 3 := a.setWidth 3
    viewBad (!tileViewOk (vget s.core.views a.toNat View.reset)) i
    waitFor (storesDone s && mteWait s .mzero 0 true)
    pure (mteAccept s .mzero i i i 0)

/-- The shape of MMA, MMAX, MMAS and MMAR (R310, R323). -/
def mmaOp (s : State) (kind : MKind) (d a b c : Spec) : Outcome State Fault Refusal :=
  finish s do
    checkUses [.view d, .view a, .view b, .srcS c]
    mtePort s
    checkRoles s [.srcS c]
    let (ctl, s1) ← readS s c
    mteCheck s1 kind (d.setWidth 3) (a.setWidth 3) (b.setWidth 3) ctl
    waitFor (storesDone s && mteWait s1 kind ctl true)
    pure (mteAccept s1 kind (d.setWidth 3) (a.setWidth 3) (b.setWidth 3) ctl)

/-- MMA (R295, R323). -/
def execMma (d a b c : Spec) (s : State) : Outcome State Fault Refusal := mmaOp s .mma d a b c

/-- MMAX (R298, R323). -/
def execMmax (d a b c : Spec) (s : State) : Outcome State Fault Refusal := mmaOp s .mmax d a b c

/-- MMAS (R299, R323). -/
def execMmas (d a b c : Spec) (s : State) : Outcome State Fault Refusal := mmaOp s .mmas d a b c

/-- MMAR (R300, R323). -/
def execMmar (d a b c : Spec) (s : State) : Outcome State Fault Refusal := mmaOp s .mmar d a b c

/-- The form a recorded command had (R302). -/
def kindOfCode : Nat → MKind
  | 0 => .mma
  | 1 => .mmax
  | 2 => .mmas
  | _ => .mmar

/-- MPROG (R303, R326). -/
def execMprog (d a : Spec) (s : State) : Outcome State Fault Refusal :=
  finish s do
    checkUses [.dstS d, .view a]
    mtePort s
    checkRoles s [.dstS d]
    let old := mprogOf s
    if !bit old 63 then writeS s d old
    else do
      need (decide (a.toNat = fld old 39 3)) 0x02 (a.setWidth 64)
      if fld old 44 4 = 4 then writeS s d old
      else
        let kind := kindOfCode (fld old 42 2)
        let ctl := setFld s.core.mprogc 12 12 (fld old 16 12)
        let cv := BitVec.ofNat 3 (fld old 39 3)
        let av := BitVec.ofNat 3 (fld old 36 3)
        let bv := BitVec.ofNat 3 (fld old 33 3)
        mteCheck s kind cv av bv ctl
        waitFor (storesDone s && mteWait s kind ctl false)
        let s1 := mteAccept { s with core := { s.core with mprog := setBit s.core.mprog 63 false } } kind cv av bv ctl
        writeS s1 d old

/-- MWAIT (R325). -/
def execMwait (a : Spec) (s : State) : Outcome State Fault Refusal :=
  finishTo s do
    checkUses [.view a]
    mtePort s
    let v : BitVec 3 := a.setWidth 3
    pure (if mteHolds s s.cur v then waiting s (.mwait v) else retire s)

end Sys2Proof.Machine
end

