-- ==== Sys2Proof/Machine/VectorInt.lean ====
section
/-!
DEFINITION. Lane shapes of the vector instructions, and the integer lane operations (R109 to R114).
-/
namespace Sys2Proof.Machine

open Host (Outcome)

/-- Is the lane of width w with index i enabled (R110)? -/
def laneOn (p : Word) (w i : Nat) : Bool := bit p (w / 8 * i)

/-- Enabled lanes of the new value over the old (R110). -/
def mergeLanes (w : Nat) (p : Word) (old new : Vec) : Vec :=
  ofLanes w (512 / w) fun i => if laneOn p w i then lane new w i else lane old w i

/-- How a form uses operand b (R51, R113). -/
inductive BUse where
  | no | vec | scal
deriving DecidableEq, Repr

def BUse.uses (u : BUse) (b : Spec) : List Use :=
  match u with
  | .no => []
  | .vec => [.srcV b]
  | .scal => [.srcS b]

def BUse.sel (u : BUse) (b : Spec) : Option Spec :=
  match u with
  | .vec => some b
  | _ => none

/-- Operand b: a vector, or a scalar repeated in every group of `g` bits (R51, R111). -/
def readB (s : State) (rx : RX) (u : BUse) (b : Spec) (g : Nat) : Res (Vec × State) :=
  match u with
  | .no => .ok (0, s)
  | .vec => readVG s rx 2 b
  | .scal => do
    let (x, s1) ← readS s b
    pure (ofLanes g (512 / g) (fun _ => x.setWidth g), s1)

/-- Operand c of the RX tail, when the form has it. -/
def readC (s : State) (rx : RX) (has : Bool) : Res (Vec × State) :=
  if has then readVG s rx 3 rx.c else .ok (0, s)

/-- The checks and reads of a vector form with a vector operand a: the three operands in order. `dst` is the
destination's role (R42, R111, R113). -/
def vecSrc (s : State) (dst : Use) (a b : Spec) (rx : RX) (u : BUse) (hasC : Bool) (g : Nat) :
    Res ((Vec × Vec × Vec) × State) := do
  let src := [.srcV a] ++ u.uses b ++ (if hasC then [.srcV rx.c] else [])
  checkUses (dst :: src)
  checkRX s rx (some a) (u.sel b) (if hasC then some rx.c else none)
  checkRoles s (src ++ [dst])
  let (x, s1) ← readVG s rx 1 a
  let (y, s2) ← readB s1 rx u b g
  let (z, s3) ← readC s2 rx hasC
  pure ((x, y, z), s3)

/-- A form whose enabled result lanes of width w replace those of d (R110). -/
def vecOp (s : State) (d a b : Spec) (rx : RX) (u : BUse) (hasC : Bool) (g w : Nat) (f : Vec → Vec → Vec → Vec) :
    Outcome State Fault Refusal :=
  finish s do
    let ((x, y, z), s1) ← vecSrc s (.dstV d) a b rx u hasC g
    pure (putV s1 d.toNat (mergeLanes w (govern s rx) (getV s d.toNat) (f x y z)))

/-- A lane operation on a and b. -/
def lanes2 (s : State) (d a b : Spec) (rx : RX) (u : BUse) (w : Nat) (f : BitVec w → BitVec w → BitVec w) :
    Outcome State Fault Refusal :=
  vecOp s d a b rx u false w w fun x y _ => ofLanes w (512 / w) fun i => f (lane x w i) (lane y w i)

/-- A lane operation on a, b and c. -/
def lanes3 (s : State) (d a b : Spec) (rx : RX) (u : BUse) (w : Nat) (f : BitVec w → BitVec w → BitVec w → BitVec w) :
    Outcome State Fault Refusal :=
  vecOp s d a b rx u true w w fun x y z => ofLanes w (512 / w) fun i => f (lane x w i) (lane y w i) (lane z w i)

/-- A lane operation on a alone. -/
def lanes1 (s : State) (d a : Spec) (rx : RX) (w : Nat) (f : BitVec w → BitVec w) : Outcome State Fault Refusal :=
  vecOp s d a 0 rx .no false w w fun x _ _ => ofLanes w (512 / w) fun i => f (lane x w i)

/-- A bitwise operation on byte lanes; a scalar stands in each 64-bit group (R109). -/
def bytes2 (s : State) (d a b : Spec) (rx : RX) (u : BUse) (f : Vec → Vec → Vec) : Outcome State Fault Refusal :=
  vecOp s d a b rx u false 64 8 fun x y _ => f x y

/-! Lane functions (R114). -/

def laneMulh (uns : Bool) {w : Nat} (a b : BitVec w) : BitVec w :=
  if uns then BitVec.ofNat w (a.toNat * b.toNat / 2 ^ w) else BitVec.ofInt w (a.toInt * b.toInt / 2 ^ w)
def laneShl {w : Nat} (a b : BitVec w) : BitVec w := a <<< (b.toNat % w)
def laneShr {w : Nat} (a b : BitVec w) : BitVec w := a >>> (b.toNat % w)
def laneSar {w : Nat} (a b : BitVec w) : BitVec w := a.sshiftRight (b.toNat % w)
def laneRot {w : Nat} (a b : BitVec w) : BitVec w := a.rotateLeft (b.toNat % w)
def laneMin (uns : Bool) {w : Nat} (a b : BitVec w) : BitVec w :=
  if uns then (if b.ult a then b else a) else (if b.slt a then b else a)
def laneMax (uns : Bool) {w : Nat} (a b : BitVec w) : BitVec w :=
  if uns then (if a.ult b then b else a) else (if a.slt b then b else a)
def laneAbs {w : Nat} (a : BitVec w) : BitVec w := if a.slt 0 then -a else a

/-- VADD (R114). -/
def execVadd (fn : LaneW) (d a b : Spec) (rx : RX) (s : State) : Outcome State Fault Refusal :=
  lanes2 s d a b rx .vec (laneBits fn) (· + ·)

/-- VADD, scalar b (R51) (R114). -/
def execVaddTwin (fn : LaneW) (d a b : Spec) (rx : RX) (s : State) : Outcome State Fault Refusal :=
  lanes2 s d a b rx .scal (laneBits fn) (· + ·)

/-- VSUB (R114). -/
def execVsub (fn : LaneW) (d a b : Spec) (rx : RX) (s : State) : Outcome State Fault Refusal :=
  lanes2 s d a b rx .vec (laneBits fn) (· - ·)

/-- VSUB, scalar b (R51) (R114). -/
def execVsubTwin (fn : LaneW) (d a b : Spec) (rx : RX) (s : State) : Outcome State Fault Refusal :=
  lanes2 s d a b rx .scal (laneBits fn) (· - ·)

/-- VMUL (R114). -/
def execVmul (fn : LaneW) (d a b : Spec) (rx : RX) (s : State) : Outcome State Fault Refusal :=
  lanes2 s d a b rx .vec (laneBits fn) (· * ·)

/-- VMUL, scalar b (R51) (R114). -/
def execVmulTwin (fn : LaneW) (d a b : Spec) (rx : RX) (s : State) : Outcome State Fault Refusal :=
  lanes2 s d a b rx .scal (laneBits fn) (· * ·)

/-- VMULH (R114). -/
def execVmulh (fn : SgnW) (d a b : Spec) (rx : RX) (s : State) : Outcome State Fault Refusal :=
  lanes2 s d a b rx .vec (laneBits fn.w) (laneMulh fn.uns)

/-- VMULH, scalar b (R51) (R114). -/
def execVmulhTwin (fn : SgnW) (d a b : Spec) (rx : RX) (s : State) : Outcome State Fault Refusal :=
  lanes2 s d a b rx .scal (laneBits fn.w) (laneMulh fn.uns)

/-- VMADD (R114). -/
def execVmadd (fn : LaneW) (d a b : Spec) (rx : RX) (s : State) : Outcome State Fault Refusal :=
  lanes3 s d a b rx .vec (laneBits fn) fun x y z => x * y + z

/-- VMADD, scalar b (R51) (R114). -/
def execVmaddTwin (fn : LaneW) (d a b : Spec) (rx : RX) (s : State) : Outcome State Fault Refusal :=
  lanes3 s d a b rx .scal (laneBits fn) fun x y z => x * y + z

/-- VAND (R114). -/
def execVand (d a b : Spec) (rx : RX) (s : State) : Outcome State Fault Refusal :=
  bytes2 s d a b rx .vec (· &&& ·)

/-- VAND, scalar b (R51) (R114). -/
def execVandTwin (d a b : Spec) (rx : RX) (s : State) : Outcome State Fault Refusal :=
  bytes2 s d a b rx .scal (· &&& ·)

/-- VOR (R114). -/
def execVor (d a b : Spec) (rx : RX) (s : State) : Outcome State Fault Refusal :=
  bytes2 s d a b rx .vec (· ||| ·)

/-- VOR, scalar b (R51) (R114). -/
def execVorTwin (d a b : Spec) (rx : RX) (s : State) : Outcome State Fault Refusal :=
  bytes2 s d a b rx .scal (· ||| ·)

/-- VXOR (R114). -/
def execVxor (d a b : Spec) (rx : RX) (s : State) : Outcome State Fault Refusal :=
  bytes2 s d a b rx .vec (· ^^^ ·)

/-- VXOR, scalar b (R51) (R114). -/
def execVxorTwin (d a b : Spec) (rx : RX) (s : State) : Outcome State Fault Refusal :=
  bytes2 s d a b rx .scal (· ^^^ ·)

/-- VSHL (R114). -/
def execVshl (fn : LaneW) (d a b : Spec) (rx : RX) (s : State) : Outcome State Fault Refusal :=
  lanes2 s d a b rx .vec (laneBits fn) laneShl

/-- VSHL, scalar b (R51) (R114). -/
def execVshlTwin (fn : LaneW) (d a b : Spec) (rx : RX) (s : State) : Outcome State Fault Refusal :=
  lanes2 s d a b rx .scal (laneBits fn) laneShl

/-- VSHR (R114). -/
def execVshr (fn : LaneW) (d a b : Spec) (rx : RX) (s : State) : Outcome State Fault Refusal :=
  lanes2 s d a b rx .vec (laneBits fn) laneShr

/-- VSHR, scalar b (R51) (R114). -/
def execVshrTwin (fn : LaneW) (d a b : Spec) (rx : RX) (s : State) : Outcome State Fault Refusal :=
  lanes2 s d a b rx .scal (laneBits fn) laneShr

/-- VSAR (R114). -/
def execVsar (fn : LaneW) (d a b : Spec) (rx : RX) (s : State) : Outcome State Fault Refusal :=
  lanes2 s d a b rx .vec (laneBits fn) laneSar

/-- VSAR, scalar b (R51) (R114). -/
def execVsarTwin (fn : LaneW) (d a b : Spec) (rx : RX) (s : State) : Outcome State Fault Refusal :=
  lanes2 s d a b rx .scal (laneBits fn) laneSar

/-- VMIN (R114). -/
def execVmin (fn : SgnW) (d a b : Spec) (rx : RX) (s : State) : Outcome State Fault Refusal :=
  lanes2 s d a b rx .vec (laneBits fn.w) (laneMin fn.uns)

/-- VMIN, scalar b (R51) (R114). -/
def execVminTwin (fn : SgnW) (d a b : Spec) (rx : RX) (s : State) : Outcome State Fault Refusal :=
  lanes2 s d a b rx .scal (laneBits fn.w) (laneMin fn.uns)

/-- VMAX (R114). -/
def execVmax (fn : SgnW) (d a b : Spec) (rx : RX) (s : State) : Outcome State Fault Refusal :=
  lanes2 s d a b rx .vec (laneBits fn.w) (laneMax fn.uns)

/-- VMAX, scalar b (R51) (R114). -/
def execVmaxTwin (fn : SgnW) (d a b : Spec) (rx : RX) (s : State) : Outcome State Fault Refusal :=
  lanes2 s d a b rx .scal (laneBits fn.w) (laneMax fn.uns)

/-- VABS (R114). -/
def execVabs (fn : LaneW) (d a : Spec) (rx : RX) (s : State) : Outcome State Fault Refusal :=
  lanes1 s d a rx (laneBits fn) laneAbs

/-- VNEG: the integer negation of R114, for NaN codes too (R64; log 56). -/
def execVneg (fn : LaneW) (d a : Spec) (rx : RX) (s : State) : Outcome State Fault Refusal :=
  lanes1 s d a rx (laneBits fn) fun x => -x

/-- VROT (R114). -/
def execVrot (fn : LaneW) (d a b : Spec) (rx : RX) (s : State) : Outcome State Fault Refusal :=
  lanes2 s d a b rx .vec (laneBits fn) laneRot

end Sys2Proof.Machine
end

