-- ==== Sys2Proof/Machine/VectorMem.lean ====
section
/-!
DEFINITION. Vector memory access (R128 to R130, R203).
-/
namespace Sys2Proof.Machine

open Host (Outcome)

/-- An enabled element: byte position in the register, bytes, address (R128). -/
structure Elem where
  pos : Nat
  n : Nat
  ea : Word
deriving DecidableEq, Repr

/-- An address displaced as the operand's space forms addresses: in array space the offset wraps in its 21 bits, so that every element lies in
the core that the base names (R87, R128, R130; log 59). -/
def elemAddr (sp : Space) (ea disp : Word) : Word :=
  match sp with
  | .virt => ea + disp
  | .arr => lmAdd ea disp

/-- The enabled elements of n bytes at the displacements f k, in ascending k. -/
def elemsOf (p : Word) (sp : Space) (ea : Word) (n : Nat) (f : Nat → Word) : List Elem :=
  ((upto (64 / n)).filter (fun k => laneOn p (8 * n) k)).map fun k => ⟨n * k, n, elemAddr sp ea (f k)⟩

/-- Displacements of VLD and VST, of VLDS and VSTS, and of VGATH and VSCAT. -/
def dispByte (k : Nat) : Word := BitVec.ofNat 64 k
def dispStride (c : Word) (k : Nat) : Word := c * BitVec.ofNat 64 k
def dispLane (w : Nat) (v : Vec) (k : Nat) : Word := (lane v w k).signExtend 64

/-- Every element checked in full, in ascending order, with its place (R129). -/
def placeElems (s : State) (sp : Space) (acc : Acc) (back : Bool) : List Elem → Res (List (Elem × Place))
  | [] => .ok []
  | e :: r => do
    let pl ← placeOf s sp e.ea e.n e.n acc back
    let t ← placeElems s sp acc back r
    pure ((e, pl) :: t)

/-- Poison among the sources, lowest element first (R129, R230). -/
def poisonElems (s : State) : List (Elem × Place) → Res Unit
  | [] => .ok ()
  | (e, .virt segs) :: r => do
    checkPoison s e.ea segs
    poisonElems s r
  | _ :: r => poisonElems s r

/-- The pieces of the elements in the issuing core's local memory. -/
def ownPieces (es : List (Elem × Place)) : List (Nat × Nat) :=
  es.filterMap fun x => match x.2 with
    | .own off => some (off, x.1.n)
    | _ => none

/-- The bank accesses of one vector access (R203, R204). -/
def bankElems (s : State) (write : Bool) (es : List (Elem × Place)) : State :=
  bankPieces s s.cur write (bankPrio s.kind) (ownPieces es)

/-- Bytes of an element that the core that steps can read at once; none for another core's. -/
def elemBytes (s : State) (e : Elem) : Place → Option (List Byte)
  | .virt segs => some (readSegs s.pmem segs)
  | .own off => some (arrRead s s.core.ctxnum (lmKey s.cur off) e.n)
  | .remote .. => none

/-- The register with every element read at once put into it. -/
def gatherNow (s : State) (old : Vec) (es : List (Elem × Place)) : Vec :=
  es.foldl (fun v x => match elemBytes s x.1 x.2 with
    | some bs => setFld v (8 * x.1.pos) (8 * x.1.n) (ofLe bs)
    | none => v) old

/-- The other cores that elements reach, in ascending order of the first element that reaches each (R130). -/
def targetsOf : List (Elem × Place) → List CoreId → List CoreId
  | [], acc => acc
  | (_, .remote k _) :: r, acc => targetsOf r (if acc.contains k then acc else acc ++ [k])
  | _ :: r, acc => targetsOf r acc

/-- The pieces that lie in core k, with the address of the first. -/
def piecesFor (k : CoreId) (es : List (Elem × Place)) : List (Piece × Word) :=
  es.filterMap fun x => match x.2 with
    | .remote k' off => if k' = k then some (⟨off, x.1.pos, x.1.n⟩, x.1.ea) else none
    | _ => none

/-- The virtual pieces of the elements, read by the tile cache. -/
def touchElems (s : State) (es : List (Elem × Place)) : State :=
  es.foldl (fun s x => match x.2 with
    | .virt segs => touchSegs s (myReq s) segs
    | _ => s) s

/-- A vector load, of state `s0`, of the given elements (R129, R130): requests go to the other cores, one to each. A
closed port refuses at once (R365). The sources `ts` are read, and taken at its completion (R42). -/
def vecLoad (s0 : State) (ts : List Take) (s : State) (d : Spec) (sp : Space) (elems : List Elem) : Res State := do
  let es ← placeElems s sp .r true elems
  poisonElems s es
  let v := gatherNow s (getV s d.toNat) es
  let ks := targetsOf es []
  if ks.isEmpty then pure (retire (putV (bankElems (touchElems s es) false es) d.toNat v))
  else
    let s1 := bankElems (touchElems (setCx s0 { cx s0 with takes := ts }) es) false es
    let dark := ks.filter (coreShut s s.cur)
    let bad := dark.foldl (fun b k => match piecesFor k es with
      | (p, a) :: _ => lowerRefusal b (p.pos, a, 3)
      | [] => b) none
    let live := ks.filter (fun k => !coreShut s s.cur k)
    let s2 := live.foldl (fun s k =>
      let ps := piecesFor k es
      sendFrom s k (.load s.kind (ps.map (·.1)) ((ps.map (·.2)).headD 0))) s1
    pure (gatherEnd s2 d (live.map fun k => (k, (piecesFor k es).map (·.1))) v bad)

/-- The bytes of an element of the stored register. -/
def storeBytes (v : Vec) (e : Elem) : List Byte := leBytes e.n (fld v (8 * e.pos) (8 * e.n))

/-- One element stored where it lies, other cores apart; a later element overwrites (R130). -/
def storeElem (v : Vec) (s : State) (x : Elem × Place) : State :=
  match x.2 with
  | .virt segs => writeSegs s (myReq s) segs (storeBytes v x.1)
  | .own off => arrWrite s s.core.ctxnum (lmKey s.cur off) (storeBytes v x.1)
  | .remote .. => s

/-- Free entries of the journal. -/
def freeCount (c : Core) : Nat := (c.journal.toList.filter (·.isNone)).length

/-- One posted store for each other core (R130, R209). -/
def postAll (v : Vec) (es : List (Elem × Place)) : List CoreId → State → Res State
  | [], s => .ok s
  | k :: r, s => do
    let ps := piecesFor k es
    let s' ← postStore s k ((ps.map (·.2)).headD 0) (ps.map fun p => (p.1.off, leBytes p.1.n (fld v (8 * p.1.pos) (8 * p.1.n)))) false
    postAll v es r s'

/-- The physical bytes that the elements write. -/
def writtenPas (es : List (Elem × Place)) : List Nat :=
  es.flatMap fun x => match x.2 with
    | .virt segs => segs.flatMap fun p => (upto p.2).map (p.1 + ·)
    | _ => []

/-- A store that writes all 32 bytes of a chunk, in however many elements, clears its poison (R230). -/
def clearChunks (s : State) (pas : List Nat) : State :=
  { s with poison := s.poison.filter fun c => !(upto 32).all fun i => pas.contains (32 * c + i) }

/-- A vector store of the given elements (R129, R130). -/
def vecStore (s : State) (v : Vec) (sp : Space) (elems : List Elem) : Res State := do
  let es ← placeElems s sp .w false elems
  let ks := targetsOf es []
  waitFor (decide (ks.length ≤ freeCount s.core))
  let s' ← postAll v es ks (bankElems (clearChunks (es.foldl (storeElem v) s) (writtenPas es)) true es)
  pure (retire s')

/-- VLD (R128, R129). -/
def execVld (d : Spec) (m : MemOp) (rx : RX) (s : State) : Outcome State Fault Refusal :=
  finishAt s [.s m.a] do
    checkUses [.dstV d, .srcS m.a]
    checkRX s rx none none none
    checkRoles s [.srcS m.a]
    let (b, s1) ← readS s m.a
    vecLoad s [.s m.a] s1 d m.sp (elemsOf (govern s rx) m.sp (formAddr m.sp b m.off) 1 dispByte)

/-- VST (R128 to R130). -/
def execVst (d : Spec) (m : MemOp) (rx : RX) (s : State) : Outcome State Fault Refusal :=
  finishAt s [.v d, .s m.a] do
    checkUses [.srcV d, .srcS m.a]
    checkRX s rx none none none
    checkRoles s [.srcV d, .srcS m.a]
    let (v, s1) ← readV s d
    let (b, s2) ← readS s1 m.a
    vecStore s2 v m.sp (elemsOf (govern s rx) m.sp (formAddr m.sp b m.off) 1 dispByte)

/-- VLDS: the stride is a scalar (R128). -/
def execVlds (fn : LaneW) (d : Spec) (m : MemOp) (rx : RX) (s : State) : Outcome State Fault Refusal :=
  finishAt s [.s m.a, .s rx.c] do
    checkUses [.dstV d, .srcS m.a, .srcS rx.c]
    checkRX s rx none none none
    checkRoles s [.srcS m.a, .srcS rx.c]
    let (b, s1) ← readS s m.a
    let (c, s2) ← readS s1 rx.c
    vecLoad s [.s m.a, .s rx.c] s2 d m.sp (elemsOf (govern s rx) m.sp (formAddr m.sp b m.off) (laneBytes fn) (dispStride c))

/-- VSTS (R128 to R130). -/
def execVsts (fn : LaneW) (d : Spec) (m : MemOp) (rx : RX) (s : State) : Outcome State Fault Refusal :=
  finishAt s [.v d, .s m.a, .s rx.c] do
    checkUses [.srcV d, .srcS m.a, .srcS rx.c]
    checkRX s rx none none none
    checkRoles s [.srcV d, .srcS m.a, .srcS rx.c]
    let (v, s1) ← readV s d
    let (b, s2) ← readS s1 m.a
    let (c, s3) ← readS s2 rx.c
    vecStore s3 v m.sp (elemsOf (govern s rx) m.sp (formAddr m.sp b m.off) (laneBytes fn) (dispStride c))

/-- VGATH: the offsets are lanes of c, which may be gang-relative (R128). -/
def execVgath (fn : LaneW) (d : Spec) (m : MemOp) (rx : RX) (s : State) : Outcome State Fault Refusal :=
  finishAt s [.s m.a, .v rx.c] do
    checkUses [.dstV d, .srcS m.a, .srcV rx.c]
    checkRX s rx none none (some rx.c)
    checkRoles s [.srcS m.a, .srcV rx.c]
    let (b, s1) ← readS s m.a
    let (c, s2) ← readVG s1 rx 3 rx.c
    vecLoad s [.s m.a, .v rx.c] s2 d m.sp (elemsOf (govern s rx) m.sp (formAddr m.sp b m.off) (laneBytes fn) (dispLane (laneBits fn) c))

/-- VSCAT (R128 to R130). -/
def execVscat (fn : LaneW) (d : Spec) (m : MemOp) (rx : RX) (s : State) : Outcome State Fault Refusal :=
  finishAt s [.v d, .s m.a, .v rx.c] do
    checkUses [.srcV d, .srcS m.a, .srcV rx.c]
    checkRX s rx none none (some rx.c)
    checkRoles s [.srcV d, .srcS m.a, .srcV rx.c]
    let (v, s1) ← readV s d
    let (b, s2) ← readS s1 m.a
    let (c, s3) ← readVG s2 rx 3 rx.c
    vecStore s3 v m.sp (elemsOf (govern s rx) m.sp (formAddr m.sp b m.off) (laneBytes fn) (dispLane (laneBits fn) c))

end Sys2Proof.Machine
end

