-- ==== Sys2Proof/Machine/Resume.lean ====
section
/-!
DEFINITION. The completion of an issued or blocked instruction (R105, R194, R208, R260, R265 to R269, R310, R325).
-/
namespace Sys2Proof.Machine

/-- The context that steps goes on if what it waits for has come; `none` while it has not. -/
def resume (s : State) : Option State :=
  let k := s.cur
  match (cx s).wait with
  | .none => none
  | .wfe => if eventPending s k || (deliverable s k).isSome then some (retire s) else none
  | .bwait b d a rel =>
    match checkRoles s [.srcS a, .dstS d] with
    | .error (.exc e) => some (raise (endWait s) e)
    | .error _ => none
    | .ok _ =>
      if rel then
        match readS s a with
        | .ok (_, s1) =>
          match writeS s1 d (vget s.core.bars b.toNat 0) with
          | .ok s' => some (retire s')
          | .error _ => none
        | .error _ => none
      else none
  | .waita d ea n old =>
    match xlat s ea n .r with
    | .error (.exc e) => some (raise s e)
    | .error _ => none
    | .ok segs =>
      match readPlace s ea n (.virt segs) with
      | .error (.exc e) => some (raise s e)
      | .error _ => none
      | .ok (bs, s1) =>
        let v := loaded n false bs
        if v ≠ old ∨ (s.kind = .task ∧ (eventPending s k ∨ s.core.death.isSome)) then
          match writeS (takeAll s1) d v with
          | .ok s' => some (retire s')
          | .error _ => none
        else some (blocked s1)
  | .remote d n sx addr =>
    match takeFirst (isReply k s.kind) s.net with
    | none => none
    | some (p, net) =>
      match p.body with
      | .loadReply _ bs | .atomicReply _ _ bs =>
        match writeS (takeAll { s with net := net }) d (loaded n sx bs) with
        | .ok s' => some (retire s')
        | .error _ => none
      | .loadRefused _ reason _ => some (raise (endWait { s with net := net }) { code := 0x1a, eval := refusalEval addr reason })
      | _ => none
  | .gather d left acc bad =>
    match takeFirst (isReply k s.kind) s.net with
    | none => none
    | some (p, net) =>
      let ps := ((left.find? (fun x => x.1 == p.src)).map (·.2)).getD []
      let s := { s with net := net }
      match p.body with
      | .loadReply _ bs => some (gatherEnd s d (left.filter (fun x => x.1 != p.src)) (putPieces acc ps bs) bad)
      | .loadRefused _ reason a =>
        let e := ((ps.find? (fun x => x.off == fld a 0 21)).map (·.pos)).getD 0
        some (gatherEnd s d (left.filter (fun x => x.1 != p.src)) acc (lowerRefusal bad (e, a, reason)))
      | _ => none
  | .far d n ea t =>
    match takeFirst (isFarReply k s.kind t) s.net with
    | none => none
    | some (p, net) =>
      match p.body with
      | .farReply _ _ bs =>
        match writeS (takeAll { s with net := net }) d (loaded n false bs) with
        | .ok s' => some (retire s')
        | .error _ => none
      | .farBad _ _ i => some (raise (endWait { s with net := net }) { code := 0x1b, eval := ea + BitVec.ofNat 64 i })
      | _ => none
  | .fence | .fenceRs => if storesDone s then some (retire (takeAll s)) else none
  | .strel own segs bs =>
    let s1 := takeAll s
    if !storesDone s then none
    else
      match own with
      | some off =>
        if filled s (lmKey k off) bs.length then
          some (retire (bankAdd (arrWrite s1 s.core.ctxnum (lmKey k off) bs) k true (bankPrio s.kind) off bs.length))
        else none
      | none => some (retire (writeSegs s1 (myReq s) segs bs))
  | .red .. => none
  | .merge =>
    if ((SMap.get? s.taken (2 * k.toNat + (if s.kind = .task then 0 else 1))).getD []).isEmpty && storesDone s
    then some (retire (takeAll s)) else none
  | .bind left _ => if left = 0 && storesDone s then some (retire (takeAll s)) else none
  | .acked => some (retire (takeAll s))
  | .writeBack | .gang _ | .joined | .fill => none
  | .block kind d m addr =>
    match takeFirst (isReply k s.kind) s.net with
    | none => none
    | some (p, net) =>
      match p.body with
      | .loadReply _ bs => some (blockResume { s with net := net } kind d m bs)
      | .loadRefused _ reason _ => some (raise (endWait { s with net := net }) { code := 0x1a, eval := refusalEval addr reason })
      | _ => none
  | .mwait v => if mteHolds s k v then none else some (retire s)
  | .texit => if storesDone s then some (texitEnd (endWait s)) else none

/-- The waits of an instruction that has not issued (R141, R172): it is fetched and attempted anew, so that a BIND, a
change of roles or a dark tile meets it (R134, R139, R248). -/
def Wait.unissued : Wait → Bool
  | .bwait .. | .gang _ | .mwait _ | .texit => true
  | _ => false

/-- May a pending event enter while the context waits so? Only where the instruction has not issued
(R141), or where the manual says that it is left (R267). -/
def Wait.abandons : Wait → Bool
  | .none | .bwait .. | .gang _ | .mwait _ | .texit | .merge => true
  | _ => false

end Sys2Proof.Machine
end

