-- ==== Sys2Proof/Machine/Ports.lean ====
section
/-!
DEFINITION. The ports of a tile that close and open, and what becomes of the traffic at a port that closes (R139, R363, R365, R369).
-/
namespace Sys2Proof.Machine

def hdrIndex (hdr : Word) : Nat := fld hdr 32 4

/-- One invalidation of the BIND request `t` has been done: the context may wait for it. -/
def bindCount (t : Nat) (x : Ctx) : Ctx :=
  match x.wait with
  | .bind n t' => if t' = t then { x with wait := .bind (n - 1) t' } else x
  | _ => x

/-- The answer of a closed port to a packet that is adrift or was inside the dark tile (R365). -/
def adrift (s : State) (p : Packet) : State :=
  let back := fun (s : State) (b : Body) => sendAs s p.dst p.src 0xffff b
  let msg := fun (cls idx : Nat) (resv : Bool) (cr : Option (CoreId × BitVec 4 × Bool)) =>
    let w := refusalWord p.tag cls 3 p.dst idx
    back (coreRec s p.src 1 0x13 p.tag w 0) (.refused w resv cr)
  match p.body with
  | .launch l => if l.rootQ.isSome then s else msg 0 0 false none
  | .active hdr _ => msg 1 (hdrIndex hdr) (!bit hdr 27) none
  | .arrival b => msg 3 b.toNat false none
  | .slotReturn => msg 3 0 false none
  | .stream hdr _ => msg 2 (hdrIndex hdr) false (some (p.dst, BitVec.ofNat 4 (hdrIndex hdr), bit hdr 26))
  | .atomic h _ _ _ addr => back s (.loadRefused h 3 addr)
  | .again h _ _ false =>
    match ((coreOf s p.src).ctx h).wait with
    | .remote _ _ _ addr => back s (.loadRefused h 3 addr)
    | _ => s
  | .load h _ addr => back s (.loadRefused h 3 addr)
  | .store j _ _ addr _ => back (coreRec s p.src 1 0x12 p.tag (storeEval p.tag j 3 addr) 0) (.storeRefused j 3 addr)
  | .copyx c => pushMve s (tileOfCore c.issuer) { c with fail := some ⟨0x08, dwordOf c.blk 0, 0⟩ }
  | .bindInv h t _ => modCore s p.src fun c => c.modCtx h (bindCount t)
  | _ => s

/-- Answers that a tile had already given are past its port. -/
def isAnswer (p : Packet) : Bool :=
  match p.body with
  | .loadReply .. | .atomicReply .. | .loadRefused .. | .storeAck _ | .storeRefused .. | .credit .. | .resvRelease | .refused .. | .notice _ => true
  | _ => false

/-- Does a packet that has entered a dark tile still await an answer (R365)? What awaits none is lost inside the tile. -/
def Packet.awaits (p : Packet) : Bool :=
  match p.body with
  | .active hdr _ => !bit hdr 27
  | .atomic .. | .again _ _ _ false | .copyx _ | .stream .. | .load .. | .store .. | .bindInv .. => true
  | _ => false

/-- The packets between a tile and others that satisfy a test lose their path: those toward the tile are answered. Those from it are past its
port, and are delivered, but for the messages that the death of its tasks discards (R345 step 2, R365; log 27). -/
def closePath (s : State) (x : TileId) (other : TileId → Bool) : State :=
  let toX := fun (p : Packet) => tileOfCore p.dst == x && tileOfCore p.src != x && other (tileOfCore p.src)
  (s.net.filter toX).foldl adrift { s with net := s.net.filter fun p => !toX p }

/-- The link words between a tile and its neighbour in a direction: those buffered toward the neighbour, and those still on their way
from it, are discarded (R139, R365). -/
def dropLinks (s : State) (t : TileId) (d : Dir) : State :=
  (coresOfTile t).foldl (fun s k => match neighbour k d with
    | some o =>
      if tileOfCore o = t then s
      else
        let s := modCore s o fun c => { c with links := c.links.set (dirOpp d) LinkEnd.reset }
        modCore s k fun c => { c with links := c.links.set d { c.links.get d with flight := [] } }
    | none => s) s

/-- A tile's port in a direction closes or opens (R363, R365, R369); the silence timer restarts with the port. -/
def portChange (s : State) (t : TileId) (d : Dir) (at_ : Nat) (shut : Bool) : State :=
  let s := modTile s t fun x => { x with keeper := { x.keeper with
    closed := x.keeper.closed.set d shut, due := x.keeper.due.set d none
    good := if shut then x.keeper.good else x.keeper.good.set d at_ } }
  match tileBeside t d with
  | some x => if shut then dropLinks (closePath s x (· == t)) t d else s
  | none => s

/-- The shadow of a tile closes or opens the tile's ports on the butterfly and on the router (R363, R369). -/
def shadowChange (s : State) (x : TileId) (shut : Bool) : State :=
  let s := modTile s x fun t => { t with shadow := ⟨shut, shut, none⟩ }
  if shut then closePath s x (fun y => (dirTo x y).isNone) else s

/-- The port changes of one tile that have come due. -/
def settleTile (s : State) (t : TileId) : State :=
  let x := tileOf s t
  let s := allDirs.foldl (fun s d => match x.keeper.due.get d with
    | some (c, shut) => if c ≤ s.ck then portChange s t d c shut else s
    | none => s) s
  match x.shadow.due with
  | some (c, shut) => if c ≤ s.ck then shadowChange s t shut else s
  | none => s

/-- Does a port of a tile wait for its ck? -/
def Tile.portDue (x : Tile) : Bool := x.shadow.due.isSome || allDirs.any fun d => (x.keeper.due.get d).isSome

/-- Every port change that has come due. -/
def settlePorts (s : State) : State :=
  ((s.tiles.filter fun x => x.2.portDue).map fun x => BitVec.ofNat 8 x.1).foldl settleTile s

end Sys2Proof.Machine
end

