-- ==== Sys2Proof/Machine/Boundary.lean ====
section
/-!
DEFINITION. What happens at an instruction boundary besides the instruction (R22, R145, R147, R174, R283, R345), the
time that passes, and the records of samples and chunks (R418 to R422).
-/
namespace Sys2Proof.Machine

/-! Time and who may run. -/

/-- n ck pass: every clock of the part is `ck`. The barrier events of the ck that ends are applied (R169), launches are accepted
(R187), every bank array goes on (R20, R204), and ports close and open (R363, R369). -/
def elapse (s : State) (n : Nat) : State :=
  if n = 0 then s
  else
    let s := launchesIn (barRun (min n 4096) s)
    settlePorts { s with
      ck := s.ck + n
      core := { s.core with banks := bankRun n s.core.banks }
      others := s.others.map fun x => (x.1, { x.2 with banks := bankRun n x.2.banks }) }

/-- Time goes on to a ck that has not yet come. -/
def elapseTo (s : State) (t : Nat) : State := elapse s (t - s.ck)

/-- A core that issues at all (R24, R26, R367). -/
def coreLive (s : State) (k : CoreId) : Bool :=
  let c := coreOf s k
  c.released && !c.dead && isLit s (tileOfCore k)

/-- A task context that may issue (R104, R353, R422). -/
def taskLive (s : State) (k : CoreId) : Bool :=
  let c := coreOf s k
  coreLive s k && !c.stopped && !(tileOf s (tileOfCore k)).held && !c.task.halted

def allTiles : List TileId := (upto 256).map (BitVec.ofNat 8)

/-- Has every tile been reset, and tested, in bring-up (R430 step 5; log 67)? -/
def allReset (s : State) : Bool := allTiles.all fun t => s.mgmt.resets.contains t.toNat
def allTested (s : State) : Bool := allTiles.all fun t => s.mgmt.tested.contains t.toNat

/-- Every context of the device stops at its next boundary (R421, R422). -/
def stopDevice (s : State) : State :=
  (upto 1024).foldl (fun s k => modCore s (BitVec.ofNat 10 k) fun c => { c with stopped := true }) s

/-! Chunks (R419 to R421). -/

def chunkMode (c : Core) : Nat := fld c.trctl 0 2
def chunkOn (c : Core) : Bool := chunkMode c == 1 || chunkMode c == 2

/-- Dword 2 of a chunk record: the instructions of the chunk and the pc at its end (R418). -/
def chunkEndWord (n : Nat) (pc : Word) : Word := BitVec.ofNat 64 (fld pc 0 48 * 65536 + n % 65536)

/-- A KIND 11 record of a core (R418). -/
def mkChunkRec (s : State) (k : CoreId) (cause : BitVec 8) (v : Word) (n : Nat) (pc : Word) : Rec :=
  mkRec 11 cause (coreOf s k).ctxnum ((coreOf s k).runTag k) k.toNat v (chunkEndWord n pc)

def chunkRec (s : State) (k : CoreId) (cause : BitVec 8) (v : Word) (n : Nat) (pc : Word) : State :=
  sendRec s (mkChunkRec s k cause v n pc)

/-- Where record SEQ = i stands in the ring (R416). -/
def ringAt (s : State) (i : Nat) : Nat := s.eva.base + 32 * (i % s.eva.size)

/-- Record SEQ = i of the ring (R416). -/
def ringRec (s : State) (i : Nat) : Rec :=
  let at_ := fun j => BitVec.ofNat 64 (ofLe (Mem.read s.pmem (ringAt s i + 8 * j) 8))
  ⟨at_ 0, at_ 1, at_ 2⟩

/-- The bytes of dwords 0 to 2 of a record. -/
def Rec.bytes (r : Rec) : List Byte := leBytes 8 r.d0.toNat ++ leBytes 8 r.d1.toNat ++ leBytes 8 r.d2.toNat

def Rec.kind (r : Rec) : Nat := fld r.d0 56 8
def Rec.code (r : Rec) : Nat := fld r.d0 48 8
def Rec.agent (r : Rec) : Nat := fld r.d0 0 16

/-- A chunk record of causes 2 and 3: one that the EVA acknowledges (R420). -/
def Rec.asks (r : Rec) : Bool := r.kind == 11 && (r.code == 2 || r.code == 3)

/-- The first chunk record of a replay from SEQ = i on, of n records, that is not matched and satisfies a test, and its SEQ. -/
def findChunk (s : State) (p : Rec → Bool) : Nat → Nat → Option (Rec × Nat)
  | 0, _ => none
  | n + 1, i =>
    if (ringRec s i).kind = 11 ∧ !s.eva.matched.contains i ∧ p (ringRec s i) then some (ringRec s i, i) else findChunk s p n (i + 1)

/-- The first such record of the log that replay has not matched (R421). -/
def chunkWhere (s : State) (p : Rec → Bool) : Option (Rec × Nat) :=
  findChunk s p (min (s.eva.seq.toNat - s.eva.replay.toNat) s.eva.size) s.eva.replay.toNat

/-- The next chunk record of a replay and its SEQ. -/
def nextChunk (s : State) : Option (Rec × Nat) := chunkWhere s fun _ => true

/-- The next chunk record of a core in a replay, and its SEQ. -/
def ownChunk (s : State) (k : CoreId) : Option (Rec × Nat) := chunkWhere s fun r => r.agent == k.toNat

/-- Does a chunk end as a record says (R421)? -/
def Rec.fits (r : Rec) (cause n : Nat) (pc : Word) : Bool := r.code == cause && r.d2 == chunkEndWord n pc

/-- Record SEQ = i is matched: replay goes on behind it, or past what has been matched before (R421). -/
def matchRec (s : State) (i : Nat) : State :=
  if (nextChunk s).map (·.2) = some i then
    { s with eva := { s.eva with replay := BitVec.ofNat 64 (i + 1), matched := s.eva.matched.filter fun j => decide (i < j) } }
  else { s with eva := { s.eva with matched := i :: s.eva.matched } }

/-- The record of a context that the EVA has accepted and whose instruction has not yet completed (R420). -/
def grantOf (s : State) (k : CoreId) (h : CtxKind) : Option ChunkGrant := s.eva.grants.find? fun g => g.core == k && g.ctx == h

/-- The context no longer has an accepted record. -/
def dropGrant (s : State) (k : CoreId) (h : CtxKind) : State :=
  { s with eva := { s.eva with grants := s.eva.grants.filter fun g => !(g.core == k && g.ctx == h) } }

/-- The records without the n-th of those of a core that ask for an acknowledgement. -/
def eraseAsk (k : CoreId) : Nat → List Rec → List Rec
  | _, [] => []
  | n, r :: rs =>
    if r.asks && r.agent == k.toNat then (match n with
      | 0 => rs
      | n + 1 => r :: eraseAsk k n rs)
    else r :: eraseAsk k n rs

/-- A record of a context that still waits to be received is withdrawn. -/
def dropAsk (s : State) (k : CoreId) (h : CtxKind) : State :=
  if s.eva.asked.contains (k, h) then
    let n := ((s.eva.asked.takeWhile (· != (k, h))).filter (·.1 == k)).length
    { s with eva := { s.eva with asked := s.eva.asked.erase (k, h), inbox := eraseAsk k n s.eva.inbox } }
  else s

/-- A chunk has ended in record mode: its record is sent, or the one that has been accepted for it gets what the chunk came to, while the
ring still holds it (R418, R420; log 71). -/
def closeRec (s : State) (k : CoreId) (h : CtxKind) (r : Rec) : State :=
  match grantOf s k h with
  | some g =>
    let s := dropGrant s k h
    if s.eva.seq.toNat ≤ g.seq.toNat + s.eva.size then writeHome s none (ringAt s g.seq.toNat) r.bytes else s
  | none => sendRec (dropAsk s k h) r

/-- A chunk of a context ends: in record mode its record is sent, in replay mode it is matched with the core's next, and a
chunk that the log does not hold stops the device (R419 to R422). -/
def chunkClose (s : State) (k : CoreId) (h : CtxKind) (cause : BitVec 8) (v : Word) (n : Nat) (pc : Word) : State :=
  let c := coreOf s k
  let s := setCore s k (c.modCtx h fun x => { x with chunkN := 0, chunkHeld := false })
  if chunkMode c = 1 then
    if (c.ctx h).chunkHeld then closeRec s k h (mkChunkRec s k cause v n pc) else chunkRec s k cause v n pc
  else if chunkMode c = 2 then
    match ownChunk s k with
    | some (r, i) => if r.fits cause.toNat n pc then matchRec s i else stopDevice (chunkRec s k 0xff v n pc)
    | none => stopDevice (chunkRec s k 0xff v n pc)
  else s

/-- The chunk that a trap entry ends, before the trap enters (R419). -/
def chunkTrap (s : State) (k : CoreId) (h : CtxKind) : State :=
  let c := coreOf s k
  if chunkOn c then chunkClose s k h 4 0 (c.ctx h).chunkN (c.ctx h).pc else s

/-! Which instructions end a chunk (R419). -/

/-- The instruction, its destination replaced. -/
def withDest (d' : Spec) : Instr → Instr
  | .csrd _ n a => .csrd d' n a
  | .cswr _ n a => .cswr d' n a
  | .csset _ n a => .csset d' n a
  | .csclr _ n a => .csclr d' n a
  | .rqpeek _ a b => .rqpeek d' a b
  | .amof sc _ m c => .amof sc d' m c
  | .steal _ a b => .steal d' a b
  | .waita fn sc _ m => .waita fn sc d' m
  | .tmset _ a => .tmset d' a
  | i => i

/-- Does RQPEEK read field 6? -/
def peeksSix (s : State) (a b : Spec) : Bool :=
  match readS s a with
  | .ok (_, s1) =>
    match readS s1 b with
    | .ok (y, _) => fld y 0 3 == 6
    | .error _ => false
  | .error _ => false

/-- The destination of an instruction that reads a source which R253 excludes from data (cause 3). -/
def valueDest (s : State) : Instr → Option Spec
  | .csrd d n _ | .cswr d n _ | .csset d n _ | .csclr d n _ => if n = 0x012 ∨ n = 0x013 then some d else none
  | .rqpeek d a b => if peeksSix s a b then some d else none
  | .amof _ d _ _ | .steal d _ _ | .waita _ _ d _ | .tmset d _ => some d
  | _ => none

/-- Synchronising accesses (R232), engine commands, and the instructions of R171 that send, wait or arrive (cause 2): MPROG where it hands
a command over, SUNBIND where it waits for its words (R181, R303). -/
def isSync (s : State) : Instr → Bool
  | .ldacq .. | .strel .. | .amo .. | .amofar .. | .cas .. | .casfar .. | .amof .. | .waita ..
  | .copy .. | .copy2 .. | .copyx .. | .copym .. | .conv ..
  | .mzero .. | .mma .. | .mmax .. | .mmas .. | .mmar ..
  | .gang .. | .send .. | .sendv .. | .spawn .. | .barv .. | .bwait .. | .slotf .. => true
  | .mprog .. => bit (mprogOf s) 63 && fld (mprogOf s) 44 4 != 4
  | .sunbind _ e => sunbindWaits s (vget s.core.streams (fld e 0 3) StreamEnt.reset).word
  | _ => false

/-- The machine with nothing to take from a queue, a link or a feed of the core that steps. -/
def drained (s : State) : State :=
  let s := modTile s (myTile s) fun t => { t with queues := Vector.replicate 8 [] }
  let dry := fun (e : LinkEnd) => { e with words := [] }
  let l := s.core.links
  { s with core := { s.core with
    links := ⟨dry l.n, dry l.e, dry l.s, dry l.w⟩
    streams := s.core.streams.map fun e => { e with buf := [] } } }

/-- How the context that steps ended its attempt. -/
def lastOf (o : Host.Outcome State Fault Refusal) : Last :=
  match o with
  | .next s => (cx s).last
  | _ => .none

/-- Does an instruction that issues take from a queue, a link or a feed: would it block without them? -/
def takes (ex : Instr → State → Host.Outcome State Fault Refusal) (i : Instr) (s : State) : Bool :=
  lastOf (ex i (drained s)) == .blocked && (match ex i s with
    | .next s' => (cx s').last != .blocked || (cx s').wait != .none
    | _ => false)

/-- The waits of an instruction that has issued and will complete (R212, R260, R265 to R268, R271), held context or not (R353 step 1; log
30). -/
def Wait.issued : Wait → Bool
  | .remote .. | .gather .. | .far .. | .fence | .fenceRs | .strel .. | .red .. | .merge | .bind .. | .writeBack | .block .. | .acked | .fill => true
  | _ => false

/-- Has the record of the chunk that ends in the context that steps been acknowledged (R420)? -/
def acked (s : State) : Bool := (cx s).chunkHeld && (grantOf s s.cur s.kind).any (·.acked)

/-- In record mode, an instruction that ends a chunk with cause 2 or 3 holds until its record is acknowledged (R420). -/
def holdsForAck (s : State) (cause : Nat) : Bool :=
  chunkMode s.core == 1 && decide (2 ≤ cause) && decide (cause ≤ 3) && !acked s

/-- In replay, the next record of the core ends a chunk here by a trap entry: an asynchronous one that has yet to come (R421; log 72). -/
def trapDue (s : State) : Bool :=
  chunkMode s.core == 2 && s.kind == .task && (cx s).ie &&
    (ownChunk s s.cur).any fun r => r.1.fits 4 (cx s).chunkN (cx s).pc

/-- May a record of the core that steps belong to its other context (log 72)? -/
def otherMayEnd (s : State) : Bool :=
  match s.kind with
  | .task => s.core.handlers.any (·.isSome)
  | .handler => true

/-- The context that steps must hold before the instruction that ends its chunk with a cause, a count and a pc: for the acknowledgement
in record mode (R420), in replay mode for its turn (R421), which a record of the core's other context, or of a trap to come, is not. -/
def mustHold (s : State) (cause n : Nat) (pc : Word) : Bool :=
  if chunkMode s.core = 2 then
    if cause ≠ 4 ∧ trapDue s then true
    else if cause = 0 then false
    else match nextChunk s with
      | some (r, _) =>
        if r.agent = s.cur.toNat then
          !r.fits cause n pc && otherMayEnd s && (chunkWhere s fun r => r.agent == s.cur.toNat && r.fits cause n pc).isSome
        else true
      | none => false
  else holdsForAck s cause

/-- Must a trap of the context that steps, at its pc, hold? -/
def trapHeld (s : State) : Bool := mustHold s 4 (cx s).chunkN (cx s).pc

/-- Must an asynchronous entry of the context that steps wait for its place in a replay (R421)? It has its place where the next record is
the one of that entry. -/
def entryHeld (s : State) : Bool :=
  chunkMode s.core == 2 && (match nextChunk s with
    | some (r, _) => r.agent != s.cur.toNat || !r.fits 4 (cx s).chunkN (cx s).pc
    | none => false)

/-- The context holds: it has not issued. In record mode its record has been sent (R420). -/
def hold (s : State) (cause n : Nat) (pc : Word) : State :=
  if holdsForAck s cause then
    let waits := (cx s).chunkHeld && (s.eva.asked.contains (s.cur, s.kind) || (grantOf s s.cur s.kind).isSome)
    let s := if waits then s
      else
        let s := chunkRec (dropGrant (dropAsk s s.cur s.kind) s.cur s.kind) s.cur (BitVec.ofNat 8 cause) 0 n pc
        { s with eva := { s.eva with asked := s.eva.asked ++ [(s.cur, s.kind)] } }
    setCx s { cx s with chunkHeld := true, last := .blocked }
  else setCx s { cx s with last := .blocked }

/-- A trap that must hold. -/
def holdTrap (s : State) : State := hold s 4 (cx s).chunkN (cx s).pc

/-- A cause-3 instruction in replay mode writes the logged value, whatever the live source (R421): `sx` is the state in
which s1 was written in place of the destination `d`. -/
def logged (s sx s1 : State) (d : Spec) : State × Word :=
  let live := getS sx 1
  if chunkMode s.core = 2 then
    match ownChunk s s.cur with
    | some (r, _) =>
      match writeS (putS sx 1 (getS s 1)) d r.d1 with
      | .ok s2 => (s2, r.d1)
      | .error _ => (s1, live)
    | none => (s1, live)
  else (s1, live)

/-- One more instruction of the context has retired: its chunk goes on or ends. -/
def retireCount (s : State) (cause : Nat) (v : Word) (n : Nat) : State :=
  let cause := if cause = 0 && decide (fld s.core.trctl 32 16 ≤ n) then 1 else cause
  if cause = 0 then setCx s { cx s with chunkN := n }
  else chunkClose s s.cur s.kind (BitVec.ofNat 8 cause) v n (cx s).pc

/-- The halfwords of the instruction in issue. -/
def rawHalves (w : Word) : List Half :=
  let h := halfAt w.toNat 0
  h :: (upto (headL h).toNat).map fun j => halfAt w.toNat (j + 1)

/-- The instruction in issue. -/
def inIssue (s : State) : Option Instr :=
  match decode (rawHalves (cx s).raw) with
  | .ok i => some i
  | .error _ => none

/-- The step trap after a user-mode instruction of the task context at `a` (R417, R422). -/
def stepTrap (user : Bool) (a : Word) (s : State) : State :=
  if user && s.kind == .task && bit s.core.trctl 3 && (cx s).last == .retired && !(cx s).nest then
    trapEntry (chunkTrap (dissolve s s.cur) s.cur .task) s.cur 0x28 false (cx s).pc a 0
  else s

/-- What follows when a waiting instruction of the context that steps has gone from `s` to `s1`. -/
def waited (s s1 : State) : State :=
  let s2 :=
    if chunkOn s.core then
      match (cx s1).last with
      | .retired =>
        match inIssue s with
        | none => s1
        | some i =>
          let n := (cx s).chunkN + 1
          match valueDest s i with
          | some d =>
            let w := match (cx s).wait with
              | .waita _ ea k old => Wait.waita 1 ea k old
              | .far _ k ea t => Wait.far 1 k ea t
              | w => w
            let (s2, v) := logged s ((resume (setCx s { cx s with wait := w })).getD s1) s1 d
            retireCount s2 3 v n
          | none => retireCount s1 (if isSync s i || (cx s).chunkHeld then 2 else 0) 0 n
      | _ => s1
    else s1
  stepTrap (userMode s) (cx s).pc s2

/-- The context that steps goes on if what it waits for has come, unless its chunk makes it hold. -/
def resumeC (s : State) : Option State :=
  match resume s with
  | none => none
  | some s1 =>
    if chunkOn s.core then
      match (cx s1).last with
      | .trapped _ => if trapHeld s then some (holdTrap s) else resume (chunkTrap s s.cur s.kind)
      | _ =>
        let cause := match inIssue s with
          | some i => if (valueDest s i).isSome then 3 else if isSync s i then 2 else if fld s.core.trctl 32 16 ≤ (cx s).chunkN + 1 then 1 else 0
          | none => 0
        let n := (cx s).chunkN + 1
        if !(cx s).wait.issued && (cx s1).last == .retired && mustHold s cause n (cx s1).pc then some (hold s cause n (cx s1).pc)
        else some (waited s s1)
    else some (waited s s1)

/-- Waits of an instruction that has issued, WAITA among them. -/
def Wait.inFlight (w : Wait) : Bool := w.issued || (match w with
  | .waita .. => true
  | _ => false)

/-- Do the members of the gang of a core wait for each other, the operands of all acting in one ck (R146)? -/
def gangJoint (s : State) (k : CoreId) : Bool :=
  match (coreOf s k).gang with
  | some g => (gangMembers g).any fun m =>
      (coreOf s m).task.wait == .joined || ((coreOf s m).task.wait.inFlight && (inIssue (focus s m .task)).any namesFifo)
  | none => false

/-- Is the waiting context of a core one whose members complete together (R146)? -/
def waitsTogether (s : State) (k : CoreId) (h : CtxKind) : Bool :=
  h == .task && (gangJoint s k || ((coreOf s k).gang.isSome && (coreOf s k).task.wait.unissued))

/-- The waiting context of a core goes on if its wait is of one kind and what it waits for has come; a trap dissolves
the gang (R147). A context that may not issue completes only what has issued (R353, R422). -/
def resumeAt (s : State) (k : CoreId) (h : CtxKind) (p : Wait → Bool) : State :=
  if waitsTogether s k h then s
  else
    let s := asCore s k h fun s =>
      if coreLive s k && p (cx s).wait && (h == .handler || taskLive s k || (cx s).wait.issued) then (resumeC s).getD s else s
    match h with
    | .task => dissolveTrapped s k
    | .handler => s

/-- The sample of a core at a multiple of its period (R418). -/
def sampleRec (s : State) (k : CoreId) : State :=
  let c := coreOf s k
  let p := fld c.trctl 12 20 * 1024
  if p ≠ 0 ∧ c.running.isSome ∧ (cycleOf s c).toNat % p = 0 then coreRec s k 9 0 (c.runTag k) c.task.pc (cycleOf s c) else s

/-! Entries at a boundary of the task context that steps. -/

/-- Is no instruction of a gang in progress (R147)? A MERGE that every member waits for may be left (R267). -/
def gangQuiet (g : Gang) (s : State) : Bool :=
  let w := fun (m : CoreId) => (coreOf s m).task.wait
  let ms := gangMembers g
  ms.all (fun m => !(w m).inFlight && w m != .joined) || ms.all (fun m => w m == .merge)

/-- Is the task context of a core at an instruction boundary, with every member of its gang? -/
def atBoundary (s : State) (k : CoreId) : Bool :=
  match (coreOf s k).gang with
  | some g => gangQuiet g s
  | none => true

/-- May a pending asynchronous event enter now (R22, R141)? In replay its chunk must have its turn (R421). -/
def mayEnter (s : State) : Bool :=
  let c := s.core.task
  c.ie && c.wait.abandons && eventPending s s.cur && !entryHeld s

/-- The first pending asynchronous event enters (R22, R336 to R338); a standing gang dissolves (R147). -/
def enterAsync (s : State) : State :=
  match nextEvent s s.cur with
  | none => s
  | some (code, v, q) =>
    let s := chunkTrap (dissolve s s.cur) s.cur .task
    let s := { s with core := { s.core with eventQ := q } }
    trapEntry s s.cur code true s.core.task.pc v 0

/-- A wait that the death of its task abandons (R345 step 1). -/
def Wait.yields : Wait → Bool
  | .none | .bwait .. | .gang _ | .mwait _ | .texit | .wfe => true
  | _ => false

/-- The kernel is entered for the death of the task that ran (R345 step 1). -/
def enterDeath (s : State) (w : Word) : State :=
  let s := chunkTrap (dissolve s s.cur) s.cur .task
  let s := { s with core := { s.core with death := none } }
  trapEntry s s.cur 0x26 false 0 w 0

/-- A completion entry is delivered (R283): a handler address that is no target faults after the writes. -/
def deliver (s : State) (e : Completion) : State :=
  let s := dissolve s s.cur
  let back := s.core.task.pc
  let s := { s with core := { s.core with
    compQ := s.core.compQ.erase e
    copyepc := back
    copyid := BitVec.ofNat 64 (e.err.toNat * 2 ^ 24 + e.eng.toNat * 2 ^ 16 + e.tid.toNat)
    task := { s.core.task with pc := e.handler, wait := .none, takes := [], last := .none } } }
  match checkTarget s e.handler with
  | .ok _ => s
  | .error _ => raiseAt (chunkTrap s s.cur .task) { code := 0x03, eval := e.handler } back

/-- May a completion entry be delivered here: is it an instruction boundary (R283)? Inside a MERGE it is not. The trap of one whose handler
is no target waits for its place in a replay (R421). -/
def mayDeliver (s : State) : Option Completion :=
  if s.core.task.wait.abandons && s.core.task.wait != .merge then
    match deliverable s s.cur with
    | some e =>
      match checkTarget s e.handler with
      | .ok _ => some e
      | .error _ => if mustHold { s with kind := .task } 4 s.core.task.chunkN e.handler then none else some e
    | none => none
  else none

/-- The budget of the activation of a core has run out (R159). -/
def budgetOut (s : State) (k : CoreId) : Bool :=
  match (coreOf s k).act with
  | some a => decide (a.endCk ≤ s.ck)
  | none => false

/-- Does a fetch at the pc give the instruction that the context attempts? -/
def sameFetched (s : State) : Bool :=
  match fetch s with
  | .ok (hs, _) => rawOf hs == (cx s).raw
  | .error _ => false

/-- The members of a gang that is about to form: all wait on GANG with one size, which is what their code still holds (R174, R248). -/
def gangReady (s : State) (k : CoreId) (n : Nat) : Bool :=
  ((upto n).map (gangMember (gangLeader k n) n)).all fun m =>
    (coreOf s m).task.wait == .gang n && sameFetched (focus s m .task) && taskLive s m && rscount (coreOf s m) .task == 0

/-- How the instruction of a gang ends the chunk of a member: the cause, 0 for none, the count and the pc. -/
structure MemberEnd where
  core : CoreId
  cause : Nat
  n : Nat
  pc : Word

/-- Must a gang hold before its instruction, which ends its members' chunks so (R420, R421)? In record mode until every record is
acknowledged, in replay until the next record of the log is a member's: all of them act as one (R146). -/
def gangMust (s : State) (es : List MemberEnd) : Bool :=
  let turn := es.filter fun e => chunkMode (coreOf s e.core) == 2 && e.cause != 0
  es.any (fun e => let u := focus s e.core .task
    holdsForAck u e.cause || (decide (e.cause ≠ 4) && trapDue u)) ||
    (!turn.isEmpty && (nextChunk s).any fun r => !turn.any fun e => r.1.agent == e.core.toNat)

/-- The members hold, each with its record sent in record mode. -/
def gangHold (s : State) (es : List MemberEnd) : State :=
  es.foldl (fun s e => asCore s e.core .task fun s => hold s e.cause e.n e.pc) s

/-- A member's GANG at `a` has completed: its chunk ends (R419), and the step trap follows (R422). -/
def gangEnd (a : Word) (s : State) (m : CoreId) : State :=
  asCore s m .task fun s =>
    stepTrap (userMode s) a (if chunkOn s.core then retireCount s 2 0 ((cx s).chunkN + 1) else s)

/-- A gang forms: every member's earlier stores are visible, and every member continues at the successor of the
leader's GANG (R174, R239). -/
def gangForm (s : State) (k : CoreId) : State :=
  match (coreOf s k).task.wait with
  | .gang n =>
    if gangReady s k n then
      let l := gangLeader k n
      let pc := (coreOf s l).task.succ
      let es := (((upto n).map (gangMember l n)).filter fun m => chunkOn (coreOf s m)).map fun m =>
        (⟨m, 2, (coreOf s m).task.chunkN + 1, pc⟩ : MemberEnd)
      if gangMust s es then gangHold s es
      else
      let t := (upto n).foldl (fun s i => modCore s (gangMember l n i) fun c =>
        { c with gang := some ⟨l, n, i⟩, task := { c.task with pc := pc, wait := .none, last := .retired } }) s
      ((upto n).map (gangMember l n)).foldl (fun t m => gangEnd (coreOf s m).task.pc t m) t
    else s
  | _ => s

end Sys2Proof.Machine
end

