-- ==== Sys2Proof/Machine/Inbox.lean ====
section
/-!
DEFINITION. The inbox of a core: the order in which messages are taken from the network (R140, R148, R151, R165),
acceptance of launches (R153), of active messages (R155, R156) and of stream words (R161), activations (R156, R164),
and the purge of a dead task's messages (R345).
-/
namespace Sys2Proof.Machine

/-! Taking packets. -/

/-- A posted store of one core to another. -/
def isStore (src dst : CoreId) (p : Packet) : Bool :=
  p.src == src && p.dst == dst && (match p.body with
    | .store .. => true
    | _ => false)

/-- Requests of one core to another, which the receiver takes and applies in their order (R165, R357; log 70). -/
def Packet.isRequest (p : Packet) : Bool :=
  match p.body with
  | .active hdr _ => !bit hdr 27
  | .arrival _ | .atomic .. | .again _ _ _ false | .copyx _ | .stream .. | .load .. | .store .. => true
  | _ => false

/-- Is an earlier request of a packet's sender to its target not yet applied: on its way, or a built-in message in the active queue? -/
def earlierRequest (s : State) (pre : List Packet) (p : Packet) : Bool :=
  pre.any (fun q => q.src == p.src && q.dst == p.dst && q.isRequest) || (coreOf s p.dst).activeQ.any fun m => match m with
    | .arrival src .. | .atomic src .. => src == p.src
    | _ => false

/-- A packet that comes to a dark tile: what awaits no answer is lost inside it, and the rest stays until the port closes (R365). -/
def lostIn (s : State) (want : Packet → Bool) : State :=
  { s with net := s.net.filter fun p => !(want p && !p.awaits) }

/-- Earlier packets hold no store of the sender to the target, and of a request no earlier request; an arrival waits for every store of its
sender (R140, R151, R195, R357). -/
def afterStores (pre : List Packet) (p : Packet) : Bool :=
  !(p.isRequest && pre.any fun q => q.src == p.src && q.dst == p.dst && q.isRequest) &&
  match p.body with
  | .arrival _ => !pre.any fun q => q.src == p.src && (match q.body with
      | .store .. => true
      | _ => false)
  | _ => !pre.any (isStore p.src p.dst)

/-- The first wanted packet that may be taken; of the packets with one key, only the first (R151). -/
def pickGo (key : Packet → Nat) (want : Packet → Bool) (ok : List Packet → Packet → Bool) :
    List Packet → List Nat → List Packet → Option (Packet × List Packet)
  | _, _, [] => none
  | pre, seen, p :: r =>
    if want p && !seen.contains (key p) then
      if ok pre p then some (p, pre ++ r) else pickGo key want ok (pre ++ [p]) (key p :: seen) r
    else pickGo key want ok (pre ++ [p]) seen r

/-- The first wanted packet. -/
def pick (s : State) (want : Packet → Bool) : Option (Packet × State) :=
  (takeFirst want s.net).map fun x => (x.1, { s with net := x.2 })

/-- The first wanted packet behind no store of its sender to its target. -/
def pickOrdered (s : State) (want : Packet → Bool) : Option (Packet × State) :=
  (pickGo (fun p => p.src.toNat) want afterStores [] [] s.net).map fun x => (x.1, { s with net := x.2 })

/-! Reservations, credits and refusals. -/

/-- A reply slot of a core becomes free (R166). -/
def freeResv (s : State) (k : CoreId) : State := modCore s k fun c => { c with resv := c.resv - 1 }

/-- A stream credit returns to a core (R178). -/
def creditBack (c : Core) (dst : CoreId) (e : BitVec 4) (eos : Bool) : Core :=
  match creditLine c dst e with
  | none => c
  | some i =>
    match c.credits[i]? with
    | none => c
    | some l =>
      let l : CreditLine := { l with credits := min 8 (l.credits + 1), eosBack := l.eosBack || eos }
      if 8 ≤ l.credits ∧ l.eosBack then { c with credits := c.credits.eraseIdx i }
      else { c with credits := c.credits.set i l }

/-- A message refused by its target: the record of R356 and the answer to its sender (R155, R161, R336). -/
def refuseMsg (s : State) (k src : CoreId) (tag : BitVec 16) (cls idx : Nat) (resv : Bool)
    (cr : Option (CoreId × BitVec 4 × Bool)) : State :=
  let w := refusalWord tag cls 1 k idx
  sendAs (coreRec s k 1 0x13 tag w 0) k src 0xffff (.refused w resv cr)

/-! Launches (R148, R153 to R155). -/

def isLaunch (k : CoreId) (p : Packet) : Bool :=
  p.dst == k && (match p.body with
    | .launch _ => true
    | _ => false)

/-- One launch enters the launch queue if there is room (R148). A core that a double fault has stopped takes nothing (R24). -/
def launchIn (s : State) (k : CoreId) : State :=
  if isDark s (tileOfCore k) then lostIn s (isLaunch k)
  else if (coreOf s k).dead then s
  else if 4 ≤ (coreOf s k).launchQ.length then s
  else
    match pickOrdered s (isLaunch k) with
    | some (⟨_, _, _, _, .launch l⟩, s) => modCore s k fun c => { c with launchQ := c.launchQ ++ [l] }
    | _ => s

/-! The active queue (R148, R155, R156). -/

def isActive (src k : CoreId) (p : Packet) : Bool :=
  p.src == src && p.dst == k && (match p.body with
    | .active .. | .arrival _ | .atomic .. | .again _ _ _ false | .copyx _ => true
    | _ => false)

/-- The class of an active message, and of CLASS 1 its network: messages of one key stay in order (R151, R165). -/
def activeKey (p : Packet) : Nat :=
  match p.body with
  | .active hdr _ => if bit hdr 27 then 1 else 0
  | _ => 2

/-- A reply waits in one of the four places kept for replies (R148). -/
def ActiveMsg.isReply : ActiveMsg → Bool
  | .soft _ _ hdr _ _ => fld hdr 24 2 == 1 && bit hdr 27
  | _ => false

def requestRoom (c : Core) : Bool := decide ((c.activeQ.filter fun m => !m.isReply).length < 12)
def replyRoom (c : Core) : Bool := decide ((c.activeQ.filter fun m => m.isReply).length < 4)

/-- May the inbox take the packet now: a place, for COPYX a slot of the tile's MVE, and no earlier store? -/
def activeOk (s : State) (k : CoreId) (pre : List Packet) (p : Packet) : Bool :=
  let c := coreOf s k
  afterStores pre p &&
  (match p.body with
    | .active hdr _ =>
      (vget c.handlers (hdrIndex hdr) none).isNone || (if bit hdr 27 then replyRoom c else requestRoom c)
    | .copyx _ => requestRoom c && decide (mveUsed (tileOf s (tileOfCore k)) < 8)
    | .again .. => true
    | _ => requestRoom c)

def pushActive (s : State) (k : CoreId) (m : ActiveMsg) : State :=
  modCore s k fun c => { c with activeQ := c.activeQ ++ [m] }

/-- The recorded result of an atomic (R246). -/
def doneOf (l : List (Nat × BitVec 16 × Word)) (r : Nat) (t : BitVec 16) : Option Word :=
  (l.find? fun x => x.1 == r && x.2.1 == t).map (·.2.2)

/-- An active message of `src` accepted into the active queue of k, or refused for an empty handler entry (R155); an atomic that comes
again is answered from its record (R246). -/
def activeIn (s : State) (src k : CoreId) : State :=
  if isDark s (tileOfCore k) then lostIn s (isActive src k)
  else if (coreOf s k).dead then s
  else match pickGo activeKey (isActive src k) (activeOk s k) [] [] s.net with
  | none => s
  | some (p, net) =>
    let s := { s with net := net }
    match p.body with
    | .active hdr pay =>
      let reply := bit hdr 27
      if (vget (coreOf s k).handlers (hdrIndex hdr) none).isNone then
        refuseMsg (if reply then freeResv s k else s) k src p.tag 1 (hdrIndex hdr) (!reply) none
      else pushActive s k (.soft src (hdrIndex hdr) hdr pay (!reply))
    | .arrival b => pushActive s k (.arrival src b p.tag)
    | .atomic h off req seq addr => pushActive s k (.atomic src h off req p.ctx p.tag seq addr)
    | .again h t n _ =>
      match doneOf (coreOf s k).done src.toNat t with
      | some v => sendAs s k src p.tag (.atomicReply h t (leBytes n v.toNat))
      | none => s
    | .copyx cmd => pushActive (modTile s (tileOfCore k) fun t => { t with reserved := t.reserved + 1 }) k (.copyx cmd)
    | _ => s

/-- The head of the active queue, and the queue behind it. -/
def popActive (s : State) (k : CoreId) : State := modCore s k fun c => { c with activeQ := c.activeQ.drop 1 }

/-- The registers a handler starts with (R156 step 3, R164). -/
def handlerRegs (hdr : Word) (pay : List Word) : Vector Word 32 :=
  ((upto pay.length).zip pay).foldl (fun v p => vset v (2 + p.1) p.2) (vset (Vector.replicate 32 0) 1 hdr)

/-- The handler context at the start of an activation (R156 step 3). -/
def handlerStart (x : Ctx) (addr : Word) (hdr : Word) (pay : List Word) : Ctx :=
  { x with
    s := handlerRegs hdr pay
    v := Vector.replicate 32 0
    m := Vector.replicate 8 0
    pc := addr
    status := 0
    halted := false
    wait := .none
    takes := []
    pauseEnd := 0
    last := .none }

/-- The budget of an entry (R159). -/
def budgetOf (e : HEntry) (limit : BitVec 16) : Nat := if e.budget = 0 then limit.toNat else e.budget

/-- A software message at the head of the active queue starts the idle handler context (R156). A reply frees the
slot reserved for it (R176). A core that is stopped starts none (R422). -/
def activate (s : State) (k : CoreId) : State :=
  let c := coreOf s k
  match c.act, c.activeQ with
  | none, .soft src idx hdr pay mayReply :: q =>
    if !coreOpen s k || c.stopped then s
    else
      let s := setCore s k { c with activeQ := q, resv := if bit hdr 27 && fld hdr 24 2 == 1 then c.resv - 1 else c.resv }
      match vget c.handlers idx none with
      | none => if mayReply then sendAs s k src 0xffff .resvRelease else s
      | some e => modCore s k fun c => { c with
          act := some ⟨hdr, e, s.ck + budgetOf e c.hlimit, mayReply, src⟩
          hand := handlerStart c.hand e.addr hdr pay }
  | _, _ => s

/-! Built-in messages (R156). -/

/-- A result recorded; the last 16 of each requester are kept, of one tag the last (R246). -/
def addDone (l : List (Nat × BitVec 16 × Word)) (r : Nat) (t : BitVec 16) (v : Word) : List (Nat × BitVec 16 × Word) :=
  let mine := (l.filter fun x => x.1 == r && x.2.1 != t).take 15
  (r, t, v) :: (mine ++ l.filter fun x => x.1 != r)

/-- The inbox applies a remote atomic on local memory, or refuses it (R206 to R208, R245, R246): its windows are judged here, when it is
applied, not when it enters the active queue (log 69). -/
def applyAtomic (s : State) (k src : CoreId) (h : CtxKind) (off : Nat) (req : AtomicReq) (ctx : CtxNum)
    (tag seq : BitVec 16) (addr : Word) : State :=
  let n := req.size
  match refusal s k src ctx off n .at with
  | some r => sendAs (coreRec s k 1 0x1a tag (refusalEval addr r) 0) k src tag (.loadRefused h r addr)
  | none =>
    let old := arrRead s ctx (lmKey k off) n
    let s := bankAdd s k true 2 off n
    let s := match req.bytes old with
      | some bs => arrWrite s ctx (lmKey k off) bs
      | none => arrWrite s ctx (lmKey k off) old
    let v := BitVec.ofNat 64 (ofLe old)
    sendAs (modCore s k fun c => { c with done := addDone c.done src.toNat seq v }) k src tag (.atomicReply h seq old)

/-- An arrival applied at its barrier; a barrier with TARGET = 0 refuses it (R169, R195). -/
def applyArrival (s : State) (k src : CoreId) (b : BitVec 6) (tag : BitVec 16) : State :=
  if barTarget (vget (coreOf s k).bars b.toNat 0) = 0 then refuseMsg s k src tag 3 b.toNat false none
  else barAdd s k b.toNat 1 0

/-- A COPYX request is handed to the MVE, in the slot kept for it, and is carried out as a COPY (R156, R315). -/
def applyCopyx (s : State) (k : CoreId) (c : Cmd) : State :=
  modTile s (tileOfCore k) fun t => { t with reserved := t.reserved - 1, mve := t.mve ++ [{ c with kind := .copy }] }

/-! Streams (R161 to R164). -/

def isStream (src k : CoreId) (p : Packet) : Bool :=
  p.src == src && p.dst == k && (match p.body with
    | .stream .. => true
    | _ => false)

/-- A stream word accepted into the buffer of its entry, or refused (R161). -/
def streamIn (s : State) (src k : CoreId) : State :=
  if isDark s (tileOfCore k) || (coreOf s k).dead then s
  else match pickOrdered s (isStream src k) with
  | some (⟨_, _, tag, _, .stream hdr data⟩, s) =>
    let e := hdrIndex hdr
    let c := coreOf s k
    let ent := vget c.streams e StreamEnt.reset
    if e < 8 ∧ bit ent.word 0 ∧ coreAt (fld ent.word 18 5) (fld ent.word 23 5) = src then
      let w := setFld ent.word 32 16 (fld ent.word 32 16 + 1)
      setCore s k { c with streams := vset c.streams e { ent with word := w, buf := ent.buf ++ [(hdr, data)] } }
    else refuseMsg s k src tag 2 e false (some (k, BitVec.ofNat 4 e, bit hdr 26))
  | _ => s

/-- ACC op word (R160, R161). -/
def reduceOp (rop : Nat) (acc w : Vec) : Vec :=
  let f := fun (g : Nat → Nat → Nat) => ofLanes 32 16 fun i => BitVec.ofNat 32 (g (lane acc 32 i).toNat (lane w 32 i).toNat)
  match rop with
  | 0 => w
  | 1 => ofLanes 32 16 fun i => lane acc 32 i + lane w 32 i
  | 2 => ofLanes 64 8 fun i => lane acc 64 i + lane w 64 i
  | 3 => f (fp32.addC .ne)
  | 4 => f (fp32.minMax true)
  | 5 => f (fp32.minMax false)
  | 6 => acc ||| w
  | _ => acc

/-- While its owner runs outside the kernel, a reduction takes its oldest word (R161, R344). -/
def streamReduce (s : State) (k : CoreId) (e : Nat) : State :=
  let c := coreOf s k
  let ent := vget c.streams e StreamEnt.reset
  if bit ent.word 0 && bit ent.word 9 && c.running.isSome && decide (fld ent.word 48 16 = (c.runTag k).toNat) && !c.task.nest then
    match leaveBuffer s k e with
    | some (w, s) =>
      let a := fld ent.word 10 5
      modCore s k fun c => { c with task := { c.task with v := vset c.task.v a (reduceOp (fld ent.word 15 3) (vget c.task.v a 0) w.2) } }
    | none => s
  else s

/-- The activation that an end-of-stream word leaves (R164). -/
def streamEos (s : State) (k : CoreId) (e : Nat) : State :=
  let c := coreOf s k
  let ent := vget c.streams e StreamEnt.reset
  match ent.eos with
  | none => s
  | some hdr =>
    let idx := fld ent.word 28 4
    let src := coreAt (fld ent.word 18 5) (fld ent.word 23 5)
    let s1 := setCore s k { c with streams := vset c.streams e { ent with eos := none } }
    if (vget c.handlers idx none).isNone then
      refuseMsg s1 k src (BitVec.ofNat 16 (fld hdr 48 16)) 2 e false none
    else if requestRoom c then
      pushActive s1 k (.soft src idx hdr [BitVec.ofNat 64 e, BitVec.ofNat 64 (fld ent.word 32 16)] false)
    else s

/-! The purge of a dead task's messages (R345 step 2). -/

/-- A discarded message in the network: the reservation or the credit it held is free again. -/
def dropPacket (s : State) (p : Packet) : State :=
  match p.body with
  | .active hdr _ => freeResv s (if bit hdr 27 then p.dst else p.src)
  | .stream hdr _ => modCore s p.src fun c => creditBack c p.dst (BitVec.ofNat 4 (hdrIndex hdr)) (bit hdr 26)
  | _ => s

/-- Accepted messages of the task that have not started. -/
def ActiveMsg.ofTag (tag : BitVec 16) : ActiveMsg → Bool
  | .soft _ _ hdr _ _ => fld hdr 24 2 == 1 && decide (fld hdr 48 16 = tag.toNat)
  | .arrival _ _ t => t == tag
  | _ => false

/-- The messages of one core's inbox discarded. -/
def purgeCore (tag : BitVec 16) (s : State) (k : CoreId) : State :=
  let c := coreOf s k
  let gone := c.activeQ.filter (ActiveMsg.ofTag tag)
  let s := setCore s k { c with
    launchQ := c.launchQ.filter fun l => !(l.parent == tag && l.rootQ.isNone)
    activeQ := c.activeQ.filter fun m => !m.ofTag tag }
  let s := gone.foldl (fun s m => match m with
    | .soft src _ hdr _ _ => freeResv s (if bit hdr 27 then k else src)
    | _ => s) s
  (upto 8).foldl (fun s e =>
    let c := coreOf s k
    let ent := vget c.streams e StreamEnt.reset
    let mine := fun (w : Word × Vec) => decide (fld w.1 48 16 = tag.toNat)
    if ent.buf.any mine then
      let src := coreAt (fld ent.word 18 5) (fld ent.word 23 5)
      let lost := !bit ent.word 9 && (ent.buf.head?.map mine) == some true
      let c := if lost then { c with task := c.task.forgets (.v (BitVec.ofNat 6 (32 + fld ent.word 7 2))) } else c
      let s := setCore s k { c with streams := vset c.streams e { ent with buf := ent.buf.filter fun w => !mine w } }
      (ent.buf.filter mine).foldl (fun s w => sendAs s k src 0xffff (.credit k (BitVec.ofNat 4 e) (bit w.1 26))) s
    else s) s

/-- The purge ends: the slot may be taken again (R345 steps 2 and 3). Another context's task, or one of another partition of this context, may
bear the same tag elsewhere: nothing of it is touched, and what is parked is the dead task's only in the partition that its tile holds. -/
def purge (s : State) (tag : BitVec 16) : State :=
  let k := tagCore tag
  let j := tagSlot tag
  if !(slotAt (coreOf s k) j).purging then s
  else
    let ctx := (coreOf s k).ctxnum
    let mine := fun (p : Packet) => p.tag == tag && p.ctx == ctx && p.purgeable
    let here := fun (i : Nat) => (tileOf s (tileOfCore k)).holder == some i
    let gone := s.net.filter mine ++ (s.lds.parts.filter fun x => here x.1).flatMap fun x => x.2.parked.filter mine
    let left := fun (l : List Packet) => l.filter fun p => !mine p
    let s := gone.foldl dropPacket { s with
      net := left s.net
      lds := { s.lds with parts := s.lds.parts.map fun x => if here x.1 then (x.1, { x.2 with parked := left x.2.parked }) else x } }
    let s := ((listedCores s).filter fun j => (coreOf s j).ctxnum == ctx).foldl (purgeCore tag) s
    modCore s k fun c => c.setSlot j { slotAt c j with purging := false }

end Sys2Proof.Machine
end

