-- ==== Sys2Proof/Machine/Registry.lean ====
section
/-!
DEFINITION. The end of a context's registration (R266, R393, R394, R397), the owner of frames (R393), and
the colours of contexts (R225, R405, R406).
-/
namespace Sys2Proof.Machine

/-- The partition whose state a tile holds. -/
def heldPart (s : State) (t : TileId) : Option (Nat × Part) :=
  (tileOf s t).holder.bind fun i => (SMap.get? s.lds.parts i).map fun p => (i, p)

def putPart (s : State) (i : Nat) (p : Part) : State := { s with lds := { s.lds with parts := SMap.put s.lds.parts i p } }

/-- A core as a partition left it that is switched out. -/
def savedOf (s : State) (i : Option Nat) (k : CoreId) : Option (Nat × Part × Saved × Core) :=
  i.bind fun i => (SMap.get? s.lds.parts i).bind fun p => p.saved.bind fun sv => (SMap.get? sv.cores k.toNat).map fun c => (i, p, sv, c)

/-- Owner of a frame of device memory (R393). -/
def frameOwner (s : State) (f : Nat) : Nat := (SMap.get? s.frames f).getD 0

/-- The bytes of a frame decrypt to values that no program can predict (R393; log 6). -/
def scramble (s : State) (f : Nat) : State :=
  let bs := (upto 4096).map fun i => Config.frameByte s.fresh (4096 * f + i)
  { s with pmem := Mem.write s.pmem (4096 * f) bs, fresh := s.fresh + 1 }

/-- A frame given to a context; its bytes stay only if it was its own (R393). -/
def giveFrame (s : State) (f : Nat) (ctx : CtxNum) : State :=
  if frameOwner s f = ctx.toNat then s
  else
    let s := scramble s f
    { s with frames := if ctx = 0 then SMap.del s.frames f else SMap.put s.frames f ctx.toNat }

/-- The task in slot j of a core of a partition that is switched out dies: the records of its end and of the failures among its
completions, and the notices that they announce (R345, R346, R418). -/
def savedDeath (s : State) (k : CoreId) (c : Core) (j : Nat) (code : BitVec 8) (nkind : Nat) : State × List Word :=
  let sl := slotAt c j
  let tag := tagOf k j
  if sl.st = .free then (s, [])
  else
    let lost := c.compQ.filter fun e => e.tag == tag && e.err != 0
    let orphan := fun (e : Completion) => noticeWord tag 1 e.err e.tid sl.parent
    let w := noticeWord tag nkind code 0 sl.parent
    let s := if bit c.trctl 2 then sendRec s (mkRec 10 1 c.ctxnum tag k.toNat (acctWord sl 0) sl.entry) else s
    let s := lost.foldl (fun s e => sendRec s (mkRec 3 e.err c.ctxnum tag k.toNat (orphan e) (e.tid.setWidth 64))) s
    (sendRec s (mkRec 2 code c.ctxnum tag k.toNat w 0), lost.map orphan ++ [w])

/-- The deaths of the tasks of a core of a partition that is switched out, whose notices go to the EVA alone. -/
def recordDeaths (s : State) (k : CoreId) (c : Core) (code : BitVec 8) : State :=
  (upto 64).foldl (fun s j => (savedDeath s k c j code 0).1) s

/-! A tile that another context finds (R353 step 5; log 31). -/

/-- Does a packet go to an inbox of some tiles? Requests to a home slice, and the invalidations of BIND, go to none. -/
def goesTo (ts : List TileId) (q : Packet) : Bool :=
  match q.body with
  | .far .. | .red .. | .bindInv .. | .again _ _ _ true => false
  | _ => ts.contains (tileOfCore q.dst)

/-- A core as a fresh context finds it after a switch: as after release, at its TVEC (R26; log 31). A task context that HALT has stopped
stays so until a tile reset (R104). -/
def freshCore (c : Core) (ctx : CtxNum) (ck : Nat) : Core :=
  { Core.reset with
    released := c.released, dead := c.dead, stopped := c.stopped, ckBase := c.ckBase, tvec := c.tvec
    tvecKept := c.tvecKept, ctxnum := ctx, icache := c.icache, utlb := c.utlb, atag := c.atag, txn := c.txn
    done := c.done, banks := c.banks, journal := c.journal, srchFrom := ck
    task := { Ctx.reset with pc := c.tvec, status := mkStatus true false false true true, halted := c.task.halted } }

/-- A tile's own hardware state, kept through a switch: keeper and translations. -/
def keepTile (old new : Tile) : Tile :=
  { new with keeper := old.keeper, tlb := old.tlb, map := old.map, dark := old.dark, shadow := old.shadow }

/-- A tile made ready for a context that has no saved state there: nothing that was on its way to another context is left (R8). -/
def freshTile (s : State) (t : TileId) (ctx : CtxNum) : State :=
  let x := tileOf s t
  let s := { s with net := s.net.filter fun q => !goesTo [t] q }
  let s := setTile s t { keepTile x Tile.reset with held := x.held, stale := x.stale, part := x.part, holder := x.holder }
  (coresOfTile t).foldl (fun s k => setCore s k (freshCore (coreOf s k) ctx s.ck)) s

/-- The tiles that hold the state of some partitions are left by them, to be made ready again when a launch comes (R8, R394). -/
def leaveTiles (s : State) (gone : Nat → Bool) : State :=
  ((s.tiles.filter fun x => x.2.holder.any gone).map fun x => BitVec.ofNat 8 x.1).foldl (fun s t =>
    modTile (freshTile s t 0) t fun x => { x with holder := none, held := true, stale := true }) s

/-- A launch of the LDS for a context. -/
def LaunchMsg.isRoot (l : LaunchMsg) (ctx : CtxNum) : Bool := l.ctx == ctx && l.rootQ.isSome

/-- What a core holds under a context number that another process may be given (R8, R394): launches of the LDS not yet accepted,
translations and leaves. -/
def Core.forgetCtx (ctx : CtxNum) (c : Core) : Core :=
  { c with
    launchQ := c.launchQ.filter fun l => !l.isRoot ctx
    utlb := c.utlb.filter fun x => x.ctx != ctx
    icache := c.icache.filter fun l => l.ctx != ctx }

/-- The regions stamped with a context number become as a tile reset leaves them (log 51). -/
def clearStamps (s : State) (ctx : CtxNum) : State :=
  let mine := fun (r : Nat) => SMap.get? s.stamps r == some ctx.toNat
  { s with arr := s.arr.filter fun c => !mine (c.1 / 4096), stamps := s.stamps.filter fun x => x.2 != ctx.toNat }

/-- Does the LDS hold a token of the line of a queue's TAIL (R401)? -/
def hasTailToken (s : State) (q : Nat) (u : UQueue) : Bool := u.tailLine.any fun l => (lineOf s l).plain (ldsReq q) != 0

/-- The token of a queue that is registered no longer goes home. -/
def dropTail (s : State) (q : Nat) (u : UQueue) : State :=
  match u.tailLine with
  | some l => if hasTailToken s q u then setLine s l ((lineOf s l).surrender (ldsReq q)) else s
  | none => s

def modLds (s : State) (f : Lds → Lds) : State := { s with lds := f s.lds }

/-- The lowest number from `lo` below `hi` that is not taken. -/
def lowestFree (taken : Nat → Bool) (lo hi : Nat) : Option Nat := ((upto hi).drop lo).find? fun n => !taken n

/-- The effects of UNREG on a registered context (R394): its tasks die with 0x29 and their notices go to the EVA alone;
queues, folios, reservations, colour, key and log entries go. Nothing that stands under its number, its messages, engine commands and page
requests too, is left to another context (R8; log 68). -/
def unregCtx (s : State) (ctx : CtxNum) : State :=
  let ks := (listedCores s).filter fun k => (coreOf s k).ctxnum == ctx
  let s := ks.foldl (fun s k => (upto 64).foldl (fun s j => killTask s k j 0x29 0) s) s
  let mine := s.lds.parts.filter fun x => x.2.ctx == ctx
  let s : State := mine.foldl (fun s x => match x.2.saved with
    | some sv => sv.cores.foldl (fun s c => recordDeaths s (BitVec.ofNat 10 c.1) c.2 0x29) s
    | none => s) s
  let gone := fun (i : Nat) => mine.any fun x => x.1 == i
  let qs := s.lds.queues.filter fun x => x.2.ctx == ctx
  let s := qs.foldl (fun s x => dropTail s x.1 x.2) s
  let colour := ((SMap.get? s.lds.ctxs ctx.toNat).bind (·.colour)).getD 16
  let s : State := { s with
    core := s.core.forgetCtx ctx
    others := s.others.map fun x => (x.1, x.2.forgetCtx ctx)
    net := s.net.filter fun p => p.ctx != ctx
    taken := s.taken.filter fun x => !ks.contains (BitVec.ofNat 10 (x.1 / 2))
    tiles := s.tiles.map fun x => (x.1, { x.2 with tlb := x.2.tlb.filter fun e => e.ctx != ctx })
    coh := { s.coh with ways := s.coh.ways.filter fun x => x.1 % 16 != colour || colour == 16 }
    logs := s.logs.filter fun x => x.1 % 1024 != ctx.toNat
    tsu := { s.tsu with reqs := s.tsu.reqs.filter fun r => r.ctx != ctx, hashed := s.tsu.hashed.filter fun h => h.1 != ctx, cache := s.tsu.cache.filter fun e => e.ctx != ctx }
    lds := { s.lds with
      ctxs := SMap.del s.lds.ctxs ctx.toNat
      folios := s.lds.folios.filter fun f => f.ctx != ctx
      queues := s.lds.queues.filter fun x => x.2.ctx != ctx
      parts := s.lds.parts.filter fun x => x.2.ctx != ctx
      resvs := s.lds.resvs.filter fun r => r.ctx != ctx
      notices := s.lds.notices.filter fun n => !qs.any fun x => x.2.id == n.1 } }
  let s := leaveTiles s gone
  (s.frames.filter fun f => f.2 == ctx.toNat).foldl (fun s f => scramble s f.1) (clearStamps s ctx)

/-- A translation failure on an area of a context: it is unregistered, with a record (R397); context 0 never is (R391). -/
def areaFails (s : State) (ctx : CtxNum) (va : Word) : State :=
  if ctx = 0 then s
  else sendRec (unregCtx s ctx) (mkRec 1 0xe2 ctx 0xffff (4 * 1024) va 0)

/-! Colours and ended launches (R225, R405, R406). -/

def Rect.overlaps (a b : Rect) : Bool :=
  decide (a.tx0 < b.tx0 + b.w) && decide (b.tx0 < a.tx0 + a.w) && decide (a.ty0 < b.ty0 + b.h) && decide (b.ty0 < a.ty0 + a.h)

/-- A colour for a context that has none (R406); none while all 16 are held. -/
def giveColour (s : State) (ctx : CtxNum) : Option (Nat × State) :=
  match SMap.get? s.lds.ctxs ctx.toNat with
  | none => none
  | some d =>
    match d.colour with
    | some c => some (c, s)
    | none =>
      (lowestFree (fun c => s.lds.ctxs.any fun x => x.2.colour == some c) 0 16).map fun c =>
        (c, modLds s fun l => { l with ctxs := SMap.put l.ctxs ctx.toNat { d with colour := some c } })

/-- The way mask of a colour in the slices of a die: the lowest ways that no other colour has there (R225). -/
def giveWays (s : State) (die colour n : Nat) : State :=
  (upto 32).foldl (fun s i =>
    let sl := 32 * die + i
    let used := (upto 16).foldl (fun (m : BitVec 16) c => if c = colour then m else m ||| (SMap.get? s.coh.ways (16 * sl + c)).getD 0) 0
    let free := ((upto 16).filter fun b => !bit used b).take n
    let m := free.foldl (fun (m : BitVec 16) b => setBit m b true) 0
    { s with coh := { s.coh with ways := SMap.put s.coh.ways (16 * sl + colour) m } }) s

/-- The way masks of a context's reservations, once it has a colour (R225, R398). -/
def setWays (s : State) (ctx : CtxNum) : State :=
  match (SMap.get? s.lds.ctxs ctx.toNat).bind (·.colour) with
  | none => s
  | some c => (s.lds.resvs.filter fun r => r.ctx == ctx).foldl (fun s r => giveWays s (r.rect.ty0 / 8) c r.ways) s

/-- A context holds a colour while a tile holds its state or packets of it are parked; other colours are free (R406). -/
def freeColours (s : State) : State :=
  let held := fun (n : Nat) => s.lds.parts.any fun x => x.2.ctx.toNat == n && (x.2.saved.isNone || !x.2.parked.isEmpty)
  let kept := (s.lds.ctxs.filter fun x => held x.1).filterMap (·.2.colour)
  let s := modLds s fun l => { l with ctxs := l.ctxs.map fun x => (x.1, if held x.1 then x.2 else { x.2 with colour := none }) }
  { s with coh := { s.coh with ways := s.coh.ways.filter fun x => kept.contains (x.1 % 16) } }

/-- Launches that have ended leave the tiles of a rectangle; one that no tile holds any more is gone (R405, R406). -/
def dropEnded (s : State) (r : Rect) : State :=
  let ended := fun (i : Nat) => (SMap.get? s.lds.parts i).any (·.ended)
  let s := { s with tiles := s.tiles.map fun x => (x.1, { x.2 with
    holder := if r.has (BitVec.ofNat 8 x.1) && x.2.holder.any ended then none else x.2.holder }) }
  let left := fun (i : Nat) => s.tiles.any fun x => x.2.holder == some i
  freeColours (modLds s fun l => { l with parts := l.parts.filter fun x => !x.2.ended || left x.1 })

end Sys2Proof.Machine
end

