-- ==== Sys2Proof/Machine/RemoteAcc.lean ====
section
/-!
DEFINITION. Accesses that reach another agent: remote loads and stores at their owner (R130, R206 to R209), answers at
the requester (R209, R211), far atomics and deferred reductions at the home slice (R245, R246, R250, R251), the
invalidations of BIND (R248) and the words of links (R137, R138).
-/
namespace Sys2Proof.Machine

/-- The formed address of a piece of an access. -/
def pieceAddr (addr : Word) (off : Nat) : Word := setFld addr 0 21 off

/-! Local memory at its owner. -/

def isLoad (src k : CoreId) (p : Packet) : Bool :=
  p.src == src && p.dst == k && (match p.body with
    | .load .. => true
    | _ => false)

/-- The reason for which an owner refuses a load: it is one access, so that one window must hold every byte of it that lies
in the core (R207; log 46). -/
def loadRefusal (s : State) (k src : CoreId) (ctx : CtxNum) (ps : List Piece) : Option (BitVec 4) :=
  match ps.findSome? fun q => refusal s k src ctx q.off q.n .rd with
  | some r => some r
  | none => if (coreOf s k).wins.toList.any fun w => ps.all fun q => w.admits src q.off q.n .rd then none else some 1

/-- The offset of the piece that a refusal of a load names: the first that is refused, else the first (R129; log 46). -/
def refusedPiece (s : State) (k src : CoreId) (ctx : CtxNum) (ps : List Piece) : Nat :=
  (((ps.find? fun q => (refusal s k src ctx q.off q.n .rd).isSome).orElse fun _ => ps.head?).map (·.off)).getD 0

/-- Is no region of pieces (offset, length) of a core's local memory being filled (R212)? -/
def piecesFilled (s : State) (k : CoreId) (ps : List (Nat × Nat)) : Bool := ps.all fun q => filled s (lmKey k q.1) q.2

/-- The loads and stores of a core to another that no fill at their target holds back. -/
def unfilled (s : State) (p : Packet) : Bool :=
  match p.body with
  | .load _ ps _ => piecesFilled s p.dst (ps.map fun q => (q.off, q.n))
  | .store _ _ data _ _ => piecesFilled s p.dst (data.map fun q => (q.1, q.2.length))
  | _ => true

/-- The first wanted packet, if it may be taken now. -/
def pickReady (s : State) (want : Packet → Bool) (ok : List Packet → Packet → Bool) : Option (Packet × State) :=
  (pickGo (fun _ => 0) want ok [] [] s.net).map fun x => (x.1, { s with net := x.2 })

/-- A remote load answered or refused (R207, R208); a dark tile does nothing further (R367). -/
def loadAt (s : State) (src k : CoreId) : State :=
  if isDark s (tileOfCore k) then s
  else match pickReady s (isLoad src k) fun pre p => afterStores pre p && !earlierRequest s pre p && unfilled s p with
  | some (⟨_, _, tag, ctx, .load h ps addr⟩, s) =>
    match loadRefusal s k src ctx ps with
    | some r =>
      let a := pieceAddr addr (refusedPiece s k src ctx ps)
      sendAs (coreRec s k 1 0x1a tag (refusalEval a r) 0) k src tag (.loadRefused h r a)
    | none =>
      let bs := ps.flatMap fun q => arrRead s ctx (lmKey k q.off) q.n
      let s := bankPieces s k false 3 (ps.map fun q => (q.off, q.n))
      sendAs s k src tag (.loadReply h bs)
  | _ => s

/-- A release is applied behind every earlier store of its context, wherever it goes (R242, R259). -/
def behindStores (pre : List Packet) (p : Packet) : Bool :=
  match p.body with
  | .store _ h _ _ true => !pre.any fun q => q.src == p.src && (match q.body with
      | .store _ h' _ _ _ => h' == h
      | _ => false)
  | _ => true

/-- A posted store applied as a whole, or refused as a whole with the first failing element's address (R130, R209). -/
def storeAt (s : State) (src k : CoreId) : State :=
  if isDark s (tileOfCore k) then s
  else match pickReady s (isStore src k) fun pre p => !earlierRequest s pre p && behindStores pre p && unfilled s p with
  | some (⟨_, _, tag, ctx, .store j _ data addr _⟩, s) =>
    match data.findSome? fun q => (refusal s k src ctx q.1 q.2.length .wr).map fun r => (q.1, r) with
    | some (off, r) =>
      let a := pieceAddr addr off
      sendAs (coreRec s k 1 0x12 tag (storeEval tag j r a) 0) k src tag (.storeRefused j r a)
    | none =>
      let s := data.foldl (fun s q => arrWrite s ctx (lmKey k q.1) q.2) s
      let s := bankPieces s k true 3 (data.map fun q => (q.1, q.2.length))
      sendAs s k src tag (.storeAck j)
  | _ => s

def isAck (k : CoreId) (p : Packet) : Bool :=
  p.dst == k && (match p.body with
    | .storeAck _ => true
    | _ => false)

def isStoreRefusal (k : CoreId) (p : Packet) : Bool :=
  p.dst == k && (match p.body with
    | .storeRefused .. => true
    | _ => false)

/-- An acknowledgement frees its journal entry (R209). -/
def ackIn (s : State) (k : CoreId) : State :=
  match pick s (isAck k) with
  | some (⟨_, _, _, _, .storeAck j⟩, s) => modCore s k fun c => { c with journal := vset c.journal j none }
  | _ => s

/-- A refusal frees the entry, and becomes event 0x12 or the death of the handler's owner (R211, R345). -/
def storeRefusedIn (s : State) (k : CoreId) : State :=
  match pick s (isStoreRefusal k) with
  | some (⟨_, _, _, _, .storeRefused j reason addr⟩, s) =>
    match vget (coreOf s k).journal j none with
    | none => s
    | some e =>
      let s := modCore s k fun c => { c with journal := vset c.journal j none }
      match e.kind with
      | .task => if e.live then pushEvent s k 0x12 (storeEval e.tag j reason addr) else s
      | .handler => if e.live && e.tag != 0xffff then killTask s (tagCore e.tag) (tagSlot e.tag) 0x12 0 else s
  | _ => s

/-! The home slice. -/

/-- A read by the home slice of a half, under the token rules: it takes back every token, and fetches a half that the DSC lacks (R218,
R227, R264). -/
def readHome (s : State) (c : Option Nat) (pa : Nat) : State :=
  onFabric s (homeRead s c (pa / 128) (pa / 64 % 2 == 1))

/-- The slice of a physical address. -/
def homeOf (s : State) (pa : Nat) : Nat := sliceOf s (bucketOf pa)

/-- The result that a slice has recorded for a requester's tag (R246). -/
def doneFar (s : State) (r : Nat) (t : BitVec 16) : Option Word :=
  (s.coh.done.find? fun x => x.2.1 == r && x.2.2.1 == t).map (·.2.2.2)

/-- A slice's result recorded; the last 16 of each requester are kept, of one tag the last (R246). -/
def addFar (s : State) (sl r : Nat) (t : BitVec 16) (v : Word) : State :=
  let same := fun (x : Nat × Nat × BitVec 16 × Word) => x.1 == sl && x.2.1 == r
  let old := s.coh.done.filter fun x => !(x.2.1 == r && x.2.2.1 == t)
  { s with coh := { s.coh with done := (sl, r, t, v) :: ((old.filter same).take 15 ++ old.filter fun x => !same x) } }

def isFar (src : CoreId) (p : Packet) : Bool :=
  p.src == src && (match p.body with
    | .far .. | .again _ _ _ true => true
    | _ => false)

/-- A request that has come to a slice which no longer owns its bucket is applied nowhere: the tile takes the redirect and
sends the same request to the owner (R223, R224). While a move of the bucket waits, the slice holds it. -/
def redirected (s : State) (src : CoreId) (pa sl : Nat) (send : Nat → State → State) : Option State :=
  let b := bucketOf pa
  if (s.coh.move.map (·.1)) = some b then some (send sl s)
  else if sl = sliceOf s b then none
  else some (send (sliceOf s b) (modTile s (tileOfCore src) fun t => t.redirect b ((SMap.get? s.coh.map b).getD (b % 64, 0))))

/-- A far atomic applied once by the home slice; one that comes again under its tag is answered from the record (R224, R245, R246). -/
def farAt (s : State) (src : CoreId) : State :=
  match pick s (isFar src) with
  | some (⟨_, dst, tag, ctx, .far h pa req seq at_⟩, s) =>
    match redirected s src pa at_ fun sl s => sendPkt s ⟨src, dst, tag, ctx, .far h pa req seq sl⟩ with
    | some s => s
    | none =>
    let sl := homeOf s pa
    let n := req.size
    match poisonIn s pa n with
    | some i => sendAs s src src tag (.farBad h seq i)
    | none =>
      let old := Mem.read s.pmem pa n
      let v := BitVec.ofNat 64 (ofLe old)
      let s := countReq s (pa / 128)
      let s := match req.bytes old with
        | some bs => writeHome s (colourHeld s ctx) pa bs
        | none => readHome s (colourHeld s ctx) pa
      sendAs (addFar s sl src.toNat seq v) src src tag (.farReply h seq old)
  | some (⟨_, _, tag, _, .again h seq n _⟩, s) =>
    match doneFar s src.toNat seq with
    | some v => sendAs s src src tag (.farReply h seq (leBytes n v.toNat))
    | none => s
  | _ => s

/-! Reduction logs (R250, R251). -/

/-- Entries a context has spilled. -/
def spilledOf (s : State) (ctx : CtxNum) : Nat :=
  ((logKeys ctx).map fun key => (((SMap.get? s.logs key).getD []).filter (·.spilled)).length).sum

/-- Entries the spill area of a context holds (R250, R397). -/
def spillRoom (s : State) (ctx : CtxNum) : Nat := ((SMap.get? s.lds.ctxs ctx.toNat).map (·.spsize)).getD 0 / 32

/-- The sequence number of an agent's next entry: its REDs since a MERGE took the last of them (R250). -/
def nextSeq (s : State) (ctx : CtxNum) (e : RedEntry) : Nat :=
  let mine := (logKeys ctx).flatMap fun key =>
    ((SMap.get? s.logs key).getD []).filter fun x => x.requester == e.requester && x.ctx == e.ctx
  mine.foldl (fun n x => max n (x.seq + 1)) 0

/-- An entry appended to its log, none when log and spill area are full (R250); a spill area that cannot be reached
ends the registration (R397). -/
def logAppend (s : State) (ctx : CtxNum) (e : RedEntry) : Option State :=
  let key := homeOf s e.pa * 1024 + ctx.toNat
  let l := (SMap.get? s.logs key).getD []
  let e := { e with seq := nextSeq s ctx e }
  if (l.filter fun x => !x.spilled).length < 4096 then some { s with logs := SMap.put s.logs key (l ++ [e]) }
  else if spilledOf s ctx < spillRoom s ctx then
    let va := ((SMap.get? s.lds.ctxs ctx.toNat).map (·.spill)).getD 0 + BitVec.ofNat 64 (32 * spilledOf s ctx)
    match translate s [] ctx va.toNat .w with
    | .ok _ => some { s with logs := SMap.put s.logs key (l ++ [{ e with spilled := true }]) }
    | _ => some (areaFails s ctx va)
  else none

def isRed (src : CoreId) (p : Packet) : Bool :=
  p.src == src && (match p.body with
    | .red .. => true
    | _ => false)

/-- The answer to a RED at its context, if that still waits for it: an activation may have ended meanwhile. -/
def redDone (t : Nat) (f : State → State) (s : State) : State :=
  match (cx s).wait with
  | .red _ t' => if t' = t then f s else s
  | _ => s

/-- The answer to a RED has come: its context goes on, with the members of its gang where they act together (R146, R266). -/
def redAcked (s : State) (src : CoreId) (h : CtxKind) (t : Nat) : State :=
  resumeAt (asCore s src h (redDone t fun s => setCx s { cx s with wait := .acked })) src h (· == .acked)

/-- The slice appends and acknowledges, or the RED faults (R250, R266); a trap dissolves the gang (R147). -/
def redAt (s : State) (src : CoreId) : State :=
  match pick s (isRed src) with
  | some (⟨_, dst, tag, ctx, .red e t at_⟩, s) =>
    match redirected s src e.pa at_ fun sl s => sendPkt s ⟨src, dst, tag, ctx, .red e t sl⟩ with
    | some s => s
    | none =>
    let s := countReq s (e.pa / 128)
    match logAppend s ctx e with
    | some s => redAcked s src e.ctx t
    | none =>
      let s := asCore s src e.ctx (redDone t fun s => raise (endWait (chunkTrap s s.cur s.kind)) { code := 0x22, eval := e.va })
      match e.ctx with
      | .task => dissolveTrapped s src
      | .handler => s
  | _ => s

/-- Does an entry come before another in the order of R251? -/
def RedEntry.before (a b : RedEntry) : Bool :=
  let ka := [a.pa, a.requester.toNat, ctxCode a.ctx, a.seq]
  let kb := [b.pa, b.requester.toNat, ctxCode b.ctx, b.seq]
  decide (ka < kb)

/-- An entry put into its place. -/
def insertRed (e : RedEntry) : List RedEntry → List RedEntry
  | [] => [e]
  | x :: r => if RedEntry.before e x then e :: x :: r else x :: insertRed e r

def sortRed (l : List RedEntry) : List RedEntry := l.foldr insertRed []

/-- One entry applied to memory (R251). -/
def applyRed (s : State) (c : Option Nat) (e : RedEntry) : State :=
  let n := RedKind.bytes e.k
  let old := ofLe (Mem.read s.pmem e.pa n)
  let v := match e.k with
    | .f => fp32.addC .ne old (fld e.value 0 32)
    | .w => (old + e.value.toNat) % 2 ^ 32
    | .d => (old + e.value.toNat) % 2 ^ 64
  writeHome s c e.pa (leBytes n v)

/-- The entries that a context's MERGE took are applied (R251, R267). -/
def mergeApply (s : State) (k : CoreId) (h : CtxKind) : State :=
  let key := 2 * k.toNat + ctxCode h
  let es := (SMap.get? s.taken key).getD []
  let c := colourHeld s (coreOf s k).ctxnum
  (sortRed es).foldl (fun s e => applyRed s c e) { s with taken := SMap.del s.taken key }

/-! BIND (R248). -/

def isBindInv (k : CoreId) (p : Packet) : Bool :=
  p.dst == k && (match p.body with
    | .bindInv .. => true
    | _ => false)

/-- Does a leaf have a byte in physical pieces? -/
def Leaf.meets (l : Leaf) (pages : List (Nat × Nat)) : Bool :=
  pages.any fun p => decide (l.pa < p.1 + p.2) && decide (p.1 < l.pa + 64)

def bindInvAt (s : State) (k : CoreId) : State :=
  match pick s (isBindInv k) with
  | some (⟨src, _, _, _, .bindInv h t pages⟩, s) =>
    let s := modCore s k fun c => { c with icache := c.icache.filter fun l => !l.meets pages }
    modCore s src fun c => c.modCtx h (bindCount t)
  | _ => s

/-! Links (R137, R138, R140). -/

def modLink (s : State) (k : CoreId) (d : Dir) (f : LinkEnd → LinkEnd) : State :=
  modCore s k fun c => { c with links := c.links.set d (f (c.links.get d)) }

/-- The oldest word in flight toward a core becomes readable, behind no store of its sender (R140). -/
def linkIn (s : State) (k : CoreId) (d : Dir) : State :=
  match neighbour k d with
  | none => s
  | some o =>
    if storeInFlight s o k then s
    else modLink s k d fun e => match e.flight with
      | w :: r => { e with words := e.words ++ [w], flight := r }
      | [] => e

end Sys2Proof.Machine
end

