-- ==== Sys2Proof/Machine/CohEvents.lean ====
section
/-!
DEFINITION. Events of the coherence fabric: tokens and persistent requests (R218 to R222), the rebalancer (R217, R223),
the half-line bridge toward the host (R226 to R229), poison (R230) and device memory (R392).
-/
namespace Sys2Proof.Machine

open Host (Outcome)

/-! Tokens. -/

def retriesOf (x : LineSt) (r : Nat) : Nat := (SMap.get? x.retries r).getD 0

/-- A read request, forwarded by the directory (R222), is answered by the holder of the owner token, which keeps its last
plain token and sends the data, and by the home slice from its own tokens where it is the holder (R220). -/
def answerRead (x : LineSt) (r : Nat) : LineSt :=
  let y := { x with dir := x.dir.add r }
  match x.owner with
  | some o =>
    if o ≠ r ∧ 2 ≤ x.plain o ∧ x.dir.names o = true then
      { y.setPlain o (x.plain o - 1) with flight := x.flight ++ [⟨r, 1, false, false, (x.has o false, x.has o true)⟩] }
    else x
  | none =>
    if x.ownerHome && decide (2 ≤ x.atHome) && someHalf x then { y with flight := x.flight ++ [⟨r, 1, false, false, x.dataOf⟩] } else x

/-- A write request: every other holder that the directory names sends all it has, and the home slice too when the halves
permit it; the data go with the owner token (R218, R220, R222, R226). -/
def answerWrite (x : LineSt) (r : Nat) : LineSt :=
  let far := fun (h : Nat × Nat) => h.1 != r && x.dir.names h.1
  let others := x.hold.filter far
  let sent := others.map fun h =>
    let own := x.owner == some h.1
    (⟨r, h.2, own, own && x.dirty, (own && x.has h.1 false, own && x.has h.1 true)⟩ : TokenMsg)
  let home := if grantsAll x && x.atHome != 0 then [(⟨r, x.atHome, x.ownerHome, false, if x.ownerHome then x.dataOf else (false, false)⟩ : TokenMsg)]
    else []
  let gone := others.any fun h => x.owner == some h.1
  { x with
    hold := x.hold.filter fun h => !far h
    owner := if gone then none else x.owner
    dirty := if gone then false else x.dirty
    valid := x.valid.filter fun v => !(others.any fun h => h.1 == v.1)
    dir := x.dir.add r
    flight := x.flight ++ sent ++ home }

/-- The halves for which the home slice asks the host before it can answer: for a write those that do not permit it; for a read, of a line
that the device holds no part of, both, since the request names none (R226, R227, R229). -/
def lackingHalves (x : LineSt) (w : Bool) : List Bool :=
  let lacks := fun (h : HalfSt) => if w then h != .m && h != .e else h == .i
  if !w && someHalf x then [] else [false, true].filter fun hi => lacks (x.half hi)

/-- Requests to the host for halves of a line, those excepted that stand (R226, R227, R229). -/
def askHost (s : State) (l : Nat) (w : Bool) : State :=
  let x := lineOf s l
  let ask := (lackingHalves x w).filter fun hi => !x.asked.contains (hi, w)
  let msg := fun (hi : Bool) => if w then (halfForWrite (isDevMem s (l * 128)) (BitVec.ofNat 45 l) hi (x.half hi)).2
    else (halfForRead (isDevMem s (l * 128)) (BitVec.ofNat 45 l) hi (x.half hi)).2
  toHostOut (setLine s l { x with asked := x.asked ++ ask.map fun hi => (hi, w) }) (ask.flatMap msg)

/-- A request of a cache for a line comes to the slice that its tile's copy names: one that owns the bucket no longer answers with a
redirect, and one that is about to move it holds the request, which comes again (R217, R223, R224). None where the request is accepted. -/
def turnedAway (s : State) (l r : Nat) : Option State :=
  let b := bucketOf (l * 128)
  let t := tileOfReq r
  if (mapOf (tileOf s t) b).1 ≠ sliceOf s b then some (modTile s t fun x => x.redirect b ((SMap.get? s.coh.map b).getD (b % 64, 0)))
  else if moving s l then some s
  else none

/-- TOKEN_REQUEST (R220): the request reaches every holder; one that is not yet satisfied counts as a request more. While a
persistent request is active, its requester gets what there is, and no other (R221). -/
def execTokenRequest (line : Line) (r : BitVec 11) (w : Bool) (s : State) : Outcome State Fault Refusal :=
  let l := line.toNat
  let x := lineOf s l
  let n := r.toNat
  .next (if 1280 ≤ n then s
    else if satisfied x n w then setLine s l { x with retries := SMap.del x.retries n }
    else match turnedAway s l n with
      | some s => s
      | none =>
        let s := countReq s l
        let s := match x.active with
          | some (a, aw) => if a = n then collectNow s l n aw else s
          | none =>
            let s := if x.ownerHome then askHost (if someHalf x then dscRoom s (colourOfReq s n) l else s) l w else s
            let y := lineOf s l
            setLine s l (if w then answerWrite y n else answerRead y n)
        let y := lineOf s l
        setLine s l { y with retries := SMap.put y.retries n (retriesOf y n + 1) })

/-- Room for a line in the cache of a requester (R213). -/
def cacheRoom (s : State) (r l : Nat) : State :=
  if r % 5 = 0 then tileRoom s r l
  else
    let k := coreOfTile (tileOfReq r) (r % 5 - 1)
    match icacheVictim s k l with
    | some v => icacheDrop s k v
    | none => s

/-- Messages that reach a requester: its tokens, the owner token with the dirty flag, and the data (R218, R220). -/
def LineSt.receive (x : LineSt) (n : Nat) (got : List TokenMsg) : LineSt :=
  let p := (got.map (·.plain)).sum
  let y : LineSt := { x with
    flight := x.flight.filter fun m => m.dest != n
    owner := if got.any (·.owner) then some n else x.owner
    dirty := x.dirty || got.any (·.dirty) }
  (y.setPlain n (x.plain n + p)).give n (got.any (·.data.1), got.any (·.data.2))

/-- TOKEN_RESPONSE (R218, R220): the tokens on their way to a requester reach it, with the data that they carry, and find a place there
(R213). Those that come to a holder while the persistent request of another is active are forwarded to that one (R221). -/
def execTokenResponse (line : Line) (r : BitVec 11) (s : State) : Outcome State Fault Refusal :=
  let l := line.toNat
  let x := lineOf s l
  let n := r.toNat
  let got := x.flight.filter fun m => m.dest == n
  .next (if got.isEmpty then s
    else match x.active with
      | some (a, _) =>
        if a ≠ n then setLine s l { x with flight := x.flight.map fun m => if m.dest = n then { m with dest := a } else m }
        else
          let s := cacheRoom s n l
          setLine s l ((lineOf s l).receive n got)
      | none =>
        let s := cacheRoom s n l
        setLine s l ((lineOf s l).receive n got))

/-- PERSISTENT_REQUEST (R221): sent after 64 retries, the first request being none; redirected and held as any other (R223, R224). -/
def execPersistentRequest (line : Line) (r : BitVec 11) (w : Bool) (s : State) : Outcome State Fault Refusal :=
  let l := line.toNat
  let x := lineOf s l
  let n := r.toNat
  let known := x.waiting.any (fun y => y.1 == n) || (x.active.map (·.1)) == some n
  .next (if retriesOf x n ≤ 64 ∨ known then s
    else match turnedAway s l n with
      | some s => s
      | none => arbitrate (setLine (countReq s l) l { x with waiting := x.waiting ++ [(n, w)] }) l)

/-- PERSISTENT_DEACTIVATION (R221 step 3): a requester that holds what it needs performs its access, keeps the tokens and
ends its request. A move that waited for it is made before the next request is chosen, at the new slice (R223, R224). -/
def execPersistentDeactivation (line : Line) (s : State) : Outcome State Fault Refusal :=
  let l := line.toNat
  let x := lineOf s l
  match x.active with
  | none => .next s
  | some (r, w) => .next (if satisfied x r w then arbitrate (finishMove (endActive s l r w)) l else s)

/-! The rebalancer. -/

def sliceCount (s : State) (sl : Nat) : Nat := ((s.coh.counts.filter fun x => sliceOf s x.1 == sl).map (·.2)).sum

/-- The number below n with the best value, the lowest of equal ones. -/
def argBest (better : Nat → Nat → Bool) (f : Nat → Nat) : List Nat → Option Nat
  | [] => none
  | a :: r => some (r.foldl (fun b x => if better (f x) (f b) then x else b) a)

/-- Rows of buckets reserved for a real-time context are never moved (R223, R225). -/
def bucketReserved (s : State) (b : Nat) : Bool := s.lds.resvs.any fun r => r.rows.contains (b / 32)

/-- REBALANCE_WINDOW_END (R223): time goes on to the end of the window of 65,536 ck; at most one move is in progress. -/
def execRebalanceWindowEnd (s : State) : Outcome State Fault Refusal :=
  let s := elapseTo s (s.coh.winFrom + 65536)
  let total := (s.coh.counts.map (·.2)).sum
  let done := { s with coh := { s.coh with counts := [], winFrom := s.coh.winFrom + 65536 } }
  match argBest (fun x y => decide (y < x)) (sliceCount s) (upto 64), argBest (fun x y => decide (x < y)) (sliceCount s) (upto 64) with
  | some hi, some lo =>
    if 5 * total < 256 * sliceCount s hi ∧ s.coh.move = none then
      let bs := (s.coh.counts.map (·.1)).filter fun b => sliceOf s b == hi && !bucketReserved s b
      match argBest (fun x y => decide (y < x)) (fun b => (SMap.get? s.coh.counts b).getD 0) bs with
      | some b => .next (finishMove { done with coh := { done.coh with move := some (b, lo) } })
      | none => .next done
    else .next done
  | _, _ => .next done

/-- INDIRECTION_UPDATE (R217, R223): a stale entry is not applied. -/
def execIndirectionUpdate (t : TileId) (bucket : BitVec 12) (s : State) : Outcome State Fault Refusal :=
  let b := bucket.toNat
  .next (modTile s t fun x => x.redirect b ((SMap.get? s.coh.map b).getD (b % 64, 0)))

/-! The bridge toward the host. -/

/-- Physical address of a half. -/
def halfPa (line : Line) (half : Bool) : Nat := line.toNat * 128 + half.toNat * 64

/-- A chunk poisoned. -/
def poisonChunk (s : State) (c : Nat) : State := { s with poison := insertNat c s.poison }

/-- The bytes of a half as the host sends them; none: as they stand, with their poison. Whether the host sends it poisoned is a free value
(log 54), and a half that arrives so poisons both of its chunks (R230). -/
def putHalf (s : State) (line : Line) (half : Bool) (data : Option Vec) : State :=
  match data with
  | some v =>
    let t := writePa s (halfPa line half) (leBytes 64 v.toNat)
    { t with
      poison := if Config.hostBad s.fresh then insertNat (halfPa line half / 32 + 1) (insertNat (halfPa line half / 32) t.poison) else t.poison
      fresh := s.fresh + 1 }
  | none => s

def setHalfSt (s : State) (line : Line) (half : Bool) (h : HalfSt) : State :=
  setLine s line.toNat ((lineOf s line.toNat).setHalf half h)

/-- The host has answered a request for a half. -/
def hostAnswered (s : State) (line : Line) (half : Bool) : State :=
  let x := lineOf s line.toNat
  setLine s line.toNat { x with asked := x.asked.filter fun a => a.1 != half }

/-- A half that comes from the host finds its line a way in the slice (R213, R225). -/
def putHalfIn (s : State) (line : Line) (half : Bool) (data : Option Vec) : State :=
  let s := arrive s line.toNat half
  putHalf (dscRoom s (colourOfLine s line.toNat) line.toNat) line half data

def halfSt (s : State) (line : Line) (half : Bool) : HalfSt := (lineOf s line.toNat).half half

def hostHomed (s : State) (line : Line) : Bool := !isDevMem s (line.toNat * 128)

/-- HOST_SNP_DATA (R227): only the snooped half changes its state. -/
def execHostSnpData (line : Line) (half : Bool) (s : State) : Outcome State Fault Refusal :=
  .next (if hostUp s && hostHomed s line then
    let h := halfSt s line half
    let s := backHalf (recallLine s line.toNat) line.toNat half
    if h = .m ∨ h = .e then setHalfSt s line half .s else s
  else s)

/-- HOST_SNP_INV (R227). -/
def execHostSnpInv (line : Line) (half : Bool) (s : State) : Outcome State Fault Refusal :=
  .next (if hostUp s && hostHomed s line then
    setHalfSt (backHalf (recallLine s line.toNat) line.toNat half) line half .i
  else s)

/-- RDOWN_COMPLETE (R227): a half in S or I enters E; one that was in I takes the host's data. -/
def execRdownComplete (line : Line) (half : Bool) (data : Option Vec) (s : State) : Outcome State Fault Refusal :=
  .next (if hostUp s && hostHomed s line then
    let t := hostAnswered s line half
    match halfSt s line half with
    | .i => setHalfSt (putHalfIn t line half data) line half .e
    | .s => setHalfSt t line half .e
    | _ => t
  else s)

/-- RDSHARED_COMPLETE (R227): a half in I enters S, or E when the host grants it. -/
def execRdsharedComplete (line : Line) (half excl : Bool) (data : Option Vec) (s : State) : Outcome State Fault Refusal :=
  .next (if hostUp s && hostHomed s line && halfSt s line half == .i then
    setHalfSt (putHalfIn (hostAnswered s line half) line half data) line half (if excl then .e else .s)
  else s)

/-- Tokens come home when a cache holds all of them: a line with a host copy gives out fewer (R226, R228). -/
def unlend (s : State) (l : Nat) : State := if (lineOf s l).atHome = 0 then recallLine s l else s

/-- A half of device memory that the host has read is sent, poisoned where a chunk is (R230, R391). -/
def sendHalf (s : State) (line : Line) (half : Bool) : State := toHostOut s [.data line half (halfPoisoned s line.toNat half)]

/-- HOST_MEMRD (R229). -/
def execHostMemrd (line : Line) (half : Bool) (s : State) : Outcome State Fault Refusal :=
  .next (if hostUp s && isDevMem s (line.toNat * 128) && halfSt s line half != .i then
    let s := sendHalf (unlend s line.toNat) line half
    match halfSt s line half with
    | .m | .o => setHalfSt s line half .o
    | .e | .s => setHalfSt s line half .s
    | .i => s
  else s)

/-- HOST_READ_OWN (R229). -/
def execHostReadOwn (line : Line) (half : Bool) (s : State) : Outcome State Fault Refusal :=
  .next (if hostUp s && isDevMem s (line.toNat * 128) && halfSt s line half != .i then
    setHalfSt (sendHalf (recallLine s line.toNat) line half) line half .i
  else s)

/-- HOST_WRITEBACK (R229): from I to E, or to M while the DSC keeps the data. -/
def execHostWriteback (line : Line) (half keep : Bool) (data : Vec) (s : State) : Outcome State Fault Refusal :=
  .next (if hostUp s && isDevMem s (line.toNat * 128) && halfSt s line half == .i then
    setHalfSt (putHalf (if keep then dscRoom s (colourOfLine s line.toNat) line.toNat else s) line half (some data)) line half
      (if keep then .m else .e)
  else s)

/-- BISNPINV_COMPLETE (R229). -/
def execBisnpinvComplete (line : Line) (half : Bool) (s : State) : Outcome State Fault Refusal :=
  .next (if hostUp s && isDevMem s (line.toNat * 128) then
    let t := hostAnswered s line half
    match halfSt s line half with
    | .o | .s => setHalfSt t line half .m
    | _ => t
  else s)

/-- BISNPDATA_COMPLETE (R229). -/
def execBisnpdataComplete (line : Line) (half : Bool) (data : Option Vec) (s : State) : Outcome State Fault Refusal :=
  .next (if hostUp s && isDevMem s (line.toNat * 128) && halfSt s line half == .i then
    setHalfSt (putHalfIn (hostAnswered s line half) line half data) line half .s
  else s)

/-- HOST_ATOMIC (R245): applied at the home slice of device memory, on an aligned 8-byte word. -/
def execHostAtomic (pa : PAddr) (op : AmoOp) (v : Word) (s : State) : Outcome State Fault Refusal :=
  let a := pa.toNat
  .next (if hostUp s && isDevMem s a && a % 8 == 0 && (poisonIn s a 8).isNone then
    let old := BitVec.ofNat 64 (ofLe (Mem.read s.pmem a 8))
    let s := writeHome s none a (leBytes 8 (amoVal op old v).toNat)
    { s with hostOut := s.hostOut ++ [.atomic old] }
  else s)

/-- DSC_EVICTION (R218, R227, R229): dirty halves go to their memory; the slice's copy leaves. -/
def execDscEviction (line : Line) (s : State) : Outcome State Fault Refusal :=
  .next (dscDrop s line.toNat)

/-! Poison. -/

/-- POISON_DETECTION (R230, R356). -/
def execPoisonDetection (agent : BitVec 16) (pa : PAddr) (s : State) : Outcome State Fault Refusal :=
  let c := pa.toNat / 32
  .next (sendRec (poisonChunk s c) (mkRec 5 0 0 0xffff agent.toNat (BitVec.ofNat 64 (32 * c)) 0))

/-- LPDDR6_READ_RETURN (R230, R392): an uncorrectable error poisons the chunks it touches; the controller of the
line's channel sends the record. -/
def execLpddr6ReadReturn (line : Line) (bad : BitVec 4) (s : State) : Outcome State Fault Refusal :=
  let l := line.toNat
  .next (if isDevMem s (l * 128) then
    let cs := ((upto 4).filter (bit bad)).map fun i => 4 * l + i
    match cs with
    | [] => s
    | c :: _ => sendRec (cs.foldl poisonChunk s) (mkRec 5 0 0 0xffff (5 * 1024 + l % 24) (BitVec.ofNat 64 (32 * c)) 0)
  else s)

end Sys2Proof.Machine
end

