-- ==== Sys2Proof/Machine/Control.lean ====
section
/-!
DEFINITION. Control transfer (R44, R78, R79, R97 to R99).
-/
namespace Sys2Proof.Machine

open Host (Outcome)

/-- The pc becomes a checked target: a target that fails step 1 or 3 of R44 faults, and the instruction has
no other effect. -/
def jump (s : State) (t : Word) (s' : State) : Res State := do
  checkTarget s t
  pure (retireTo s' t)

/-- A branch on two sources (CB format): field A first (R42). -/
def branchOn2 (s : State) (a b : Spec) (t : Target) (p : Word → Word → Bool) : Outcome State Fault Refusal :=
  finishTo s do
    checkUses [.srcS a, .srcS b]
    checkRoles s [.srcS a, .srcS b]
    let (x, s1) ← readS s a
    let (y, s2) ← readS s1 b
    if p x y then jump s (branchTarget s t) s2 else pure (retire s2)

/-- A branch on field A (C format). -/
def branchOn1 (s : State) (a : Spec) (t : Target) (p : Word → Bool) : Outcome State Fault Refusal :=
  finishTo s do
    checkUses [.srcS a]
    checkRoles s [.srcS a]
    let (x, s1) ← readS s a
    if p x then jump s (branchTarget s t) s1 else pure (retire s1)

/-- A jump through field A (N format). -/
def jumpReg (s : State) (a : Spec) : Outcome State Fault Refusal :=
  finishTo s do
    checkUses [.srcS a]
    checkRoles s [.srcS a]
    let (x, s1) ← readS s a
    jump s x s1

/-- B (R97). -/
def execB (t : Target) (s : State) : Outcome State Fault Refusal :=
  finishTo s (jump s (branchTarget s t) s)

/-- BEQ (R97). -/
def execBeq (a b : Spec) (t : Target) (s : State) : Outcome State Fault Refusal :=
  branchOn2 s a b t condEq

/-- BNE (R97). -/
def execBne (a b : Spec) (t : Target) (s : State) : Outcome State Fault Refusal :=
  branchOn2 s a b t fun x y => !condEq x y

/-- BLT (R97). -/
def execBlt (a b : Spec) (t : Target) (s : State) : Outcome State Fault Refusal :=
  branchOn2 s a b t condLt

/-- BGE (R97). -/
def execBge (a b : Spec) (t : Target) (s : State) : Outcome State Fault Refusal :=
  branchOn2 s a b t fun x y => !condLt x y

/-- BLTU (R97). -/
def execBltu (a b : Spec) (t : Target) (s : State) : Outcome State Fault Refusal :=
  branchOn2 s a b t condLtu

/-- BGEU (R97). -/
def execBgeu (a b : Spec) (t : Target) (s : State) : Outcome State Fault Refusal :=
  branchOn2 s a b t fun x y => !condLtu x y

/-- BZ (R97). -/
def execBz (a : Spec) (t : Target) (s : State) : Outcome State Fault Refusal := branchOn1 s a t fun x => x == 0

/-- BNZ (R97). -/
def execBnz (a : Spec) (t : Target) (s : State) : Outcome State Fault Refusal := branchOn1 s a t fun x => x != 0

/-- CALL: field A receives the successor (R97). -/
def execCall (a : Spec) (t : Target) (s : State) : Outcome State Fault Refusal :=
  finishTo s do
    checkUses [.dstS a]
    checkRoles s [.dstS a]
    let s1 ← writeS s a (cx s).succ
    jump s (branchTarget s t) s1

/-- CALLR: the target is read before the link is written (R97). -/
def execCallr (d a : Spec) (s : State) : Outcome State Fault Refusal :=
  finishTo s do
    checkUses [.dstS d, .srcS a]
    checkRoles s [.srcS a, .dstS d]
    let (x, s1) ← readS s a
    let s2 ← writeS s1 d (cx s).succ
    jump s x s2

/-- LOOP (R99); no queue or link may be the counter (R78). -/
def execLoop (a : Spec) (t : Target) (s : State) : Outcome State Fault Refusal :=
  finishTo s do
    checkUses [.regS a]
    let n := getS s a.toNat - 1
    let s1 := putS s a.toNat n
    if n ≠ 0 then jump s (branchTarget s t) s1 else pure (retire s1)

/-- JR (R97). -/
def execJr (a : Spec) (s : State) : Outcome State Fault Refusal := jumpReg s a

/-- RET has the effect of JR (R97). -/
def execRet (a : Spec) (s : State) : Outcome State Fault Refusal := jumpReg s a

end Sys2Proof.Machine
end

