-- ==== Sys2Proof/Machine/CoreEvents.lean ====
section
/-!
DEFINITION. Events of a core: entries, wake-ups, register writes from outside, time limits and chunk records. An
event whose condition does not hold changes nothing.
-/
namespace Sys2Proof.Machine

open Host (Outcome)

/-- ASYNC_EVENT_ENTRY (R22, R336 to R338). -/
def execAsyncEventEntry (k : CoreId) (s : State) : Outcome State Fault Refusal :=
  .next (asCore s k .task fun s => if taskLive s k && atBoundary s k && mayEnter s then enterAsync s else s)

/-- TIMER_EXPIRY (R17, R20): time reaches TIMECMP, from when STATUS.TP reads 1. -/
def execTimerExpiry (k : CoreId) (s : State) : Outcome State Fault Refusal :=
  let c := coreOf s k
  .next (elapseTo s (c.ckBase + c.timecmp.toNat))

/-- WFE_WAKE (R105). -/
def execWfeWake (k : CoreId) (s : State) : Outcome State Fault Refusal :=
  .next (resumeAt s k .task fun w => w == .wfe)

/-- LEAF_FILL (R30, R32, R215): a leaf that fails its checks is not installed. -/
def execLeafFill (k : CoreId) (h : CtxKind) (va : Word) (s : State) : Outcome State Fault Refusal :=
  .next (asCore s k h fun s =>
    match fetchLeaf s va with
    | .ok f =>
      let s := noteHash s s.core.ctxnum ((leafOf va).toNat / 4096 * 4096) f.pa
      if f.fill then install s k s.core.ctxnum (leafOf va) f.pa f.image else s
    | .error _ => s)

/-- CORE_RELEASE (R26, R430 step 6, R432): the core starts at TVEC in supervisor mode, NEST 1, CAUSE.CODE 0, once every tile is tested
and its TVEC is written; a tile that is not LIT is not released. -/
def execCoreRelease (k : CoreId) (s : State) : Outcome State Fault Refusal :=
  let c := coreOf s k
  .next (if c.released || s.mgmt.boot != .running || !isLit s (tileOfCore k) ||
      !(s.mgmt.linkUp || (allTested s && s.mgmt.tvecs.contains k.toNat)) then s
    else setCore s k { c with
      released := true
      task := { c.task with pc := c.tvec, status := mkStatus true c.task.pie c.task.ie c.task.pprv true, cause := 0 } })

/-- Registers whose writes are events of their own: TIMECMP, QMAP, TKILL and MPROG. -/
def ownBehaviour (n : Nat) : Bool := n == 0x013 || n == 0x020 || n == 0x044 || n == 0x052

/-- CSR_WRITE (R103): write_fields on a register that some instruction may write. -/
def execCsrWrite (k : CoreId) (h : CtxKind) (csr : BitVec 10) (v : Word) (s : State) : Outcome State Fault Refusal :=
  .next (match csrRights csr.toNat with
    | some ⟨_, some _⟩ => if ownBehaviour csr.toNat then s else asCore s k h fun s => csrPut s csr.toNat v
    | _ => s)

/-- TIMECMP_WRITE (R20). -/
def execTimecmpWrite (k : CoreId) (v : Word) (s : State) : Outcome State Fault Refusal :=
  .next (asCore s k .task fun s => csrPut s 0x013 v)

/-- QMAP_WRITE (R133, R134). -/
def execQmapWrite (t : TileId) (v : Word) (s : State) : Outcome State Fault Refusal :=
  .next (putQmap s t v)

/-- TKILL_WRITE (R343, R345). -/
def execTkillWrite (k : CoreId) (v : Word) (s : State) : Outcome State Fault Refusal :=
  .next (asCore s k .task fun s => csrPut s 0x044 v)

/-- DEATH_TRAP_ENTRY (R345 step 1). -/
def execDeathTrapEntry (k : CoreId) (s : State) : Outcome State Fault Refusal :=
  .next (asCore s k .task fun s =>
    match s.core.death with
    | some w => if taskLive s k && atBoundary s k && s.core.task.wait.yields && !entryHeld s then enterDeath s w else s
    | none => s)

/-- MPROG_STOP_REQUEST (R301, R302). -/
def execMprogStopRequest (k : CoreId) (s : State) : Outcome State Fault Refusal :=
  .next (asCore s k .task fun s => csrPut s 0x052 0xc000000000000000)

/-- MPROG_V_CLEAR (R302). -/
def execMprogVClear (k : CoreId) (s : State) : Outcome State Fault Refusal :=
  .next (asCore s k .task fun s => csrPut s 0x052 0)

/-- GANG_FORMATION (R174). -/
def execGangFormation (k : CoreId) (s : State) : Outcome State Fault Refusal :=
  .next (gangForm s k)

/-- BWAIT_RESUME (R143, R170, R194): the BWAIT goes on if it is still what a fetch at its pc gives (R248). -/
def execBwaitResume (k : CoreId) (h : CtxKind) (s : State) : Outcome State Fault Refusal :=
  .next (if sameFetched (focus s k h) then resumeAt s k h fun w => match w with
    | .bwait .. => true
    | _ => false
  else s)

/-- HANDLER_BUDGET_EXPIRY (R158, R159): LEFT reaches zero before HRET. -/
def execHandlerBudgetExpiry (k : CoreId) (s : State) : Outcome State Fault Refusal :=
  match (coreOf s k).act with
  | some a => .next (handlerFault (elapseTo s a.endCk) k 0x25 0)
  | none => .next s

/-- LOAD_COMPLETION (R208, R245, R260): the value, or the refusal, of a load or atomic is known. -/
def execLoadCompletion (k : CoreId) (h : CtxKind) (s : State) : Outcome State Fault Refusal :=
  .next (resumeAt s k h fun w => match w with
    | .remote .. | .gather .. | .far .. | .block .. => true
    | _ => false)

/-- WAITA_REREAD (R269). -/
def execWaitaReread (k : CoreId) (h : CtxKind) (s : State) : Outcome State Fault Refusal :=
  .next (resumeAt s k h fun w => match w with
    | .waita .. => true
    | _ => false)

/-- COMPLETION_DELIVERY (R283, R338). -/
def execCompletionDelivery (k : CoreId) (s : State) : Outcome State Fault Refusal :=
  .next (asCore s k .task fun s =>
    if taskLive s k && atBoundary s k && !mayEnter s then
      match mayDeliver s with
      | some e => deliver s e
      | none => s
    else s)

/-- PAUSE_WINDOW_END (R192). -/
def execPauseWindowEnd (k : CoreId) (h : CtxKind) (s : State) : Outcome State Fault Refusal :=
  let c := coreOf s k
  let x := c.ctx h
  .next (if x.pauseEnd = 0 then s else setCore (elapseTo s x.pauseEnd) k
    ((coreOf (elapseTo s x.pauseEnd) k).modCtx h fun x => { x with pauseEnd := 0 }))

/-- BANK_ARRAY_CYCLE (R204): one ck, in which the bank array of every core serves what it may. -/
def execBankArrayCycle (_ : CoreId) (s : State) : Outcome State Fault Refusal :=
  .next (elapse s 1)

/-- WRITE_BACK_ACCEPTANCE (R271, R272). -/
def execWriteBackAcceptance (k : CoreId) (h : CtxKind) (s : State) : Outcome State Fault Refusal :=
  let s := asCore s k h fun s => if (cx s).wait = .writeBack then setCx s { cx s with wait := .acked } else s
  .next (resumeAt s k h (· == .acked))

/-- STAMP_FILL_COMPLETE (R212): time goes on to the end of the region's fill. -/
def execStampFillComplete (region : Nat) (s : State) : Outcome State Fault Refusal :=
  .next (match SMap.get? s.fills region with
    | none => s
    | some t => { elapseTo s t with fills := SMap.del (elapseTo s t).fills region })

/-- SAMPLE_RECORD (R418). -/
def execSampleRecord (k : CoreId) (s : State) : Outcome State Fault Refusal :=
  .next (sampleRec s k)

/-- CHUNK_END (R419 to R421): the open chunk ends with a cause. In record mode the record of cause 2 or 3 is sent, and the instruction
that ends the chunk holds for the acknowledgement; in replay a chunk whose turn has not come holds. -/
def execChunkEnd (k : CoreId) (h : CtxKind) (cause : BitVec 8) (v : Word) (s : State) : Outcome State Fault Refusal :=
  .next (asCore s k h fun s =>
    let x := cx s
    let asks := cause == 2 || cause == 3
    if chunkOn s.core && decide (1 ≤ cause.toNat) && decide (cause.toNat ≤ 4) then
      if chunkMode s.core == 1 && asks then hold s cause.toNat (x.chunkN + 1) x.succ
      else if mustHold s cause.toNat x.chunkN x.pc then s
      else chunkClose s s.cur s.kind cause (if cause = 3 then v else 0) x.chunkN x.pc
    else s)

/-- CHUNK_RECORD_ACK (R420): the EVA acknowledges the record that it has accepted, and the instruction may issue. -/
def execChunkRecordAck (k : CoreId) (h : CtxKind) (s : State) : Outcome State Fault Refusal :=
  .next { s with eva := { s.eva with grants := s.eva.grants.map fun g => if g.core == k && g.ctx == h then { g with acked := true } else g } }

/-- MANAGEMENT_HALT (R422). -/
def execManagementHalt (s : State) : Outcome State Fault Refusal :=
  .next (stopDevice s)

end Sys2Proof.Machine
end

