-- ==== Sys2Proof/Machine/Switch.lean ====
section
/-!
DEFINITION. The partition switch (R353 to R355, R404 to R406). A step of the switch acts on all the partition's tiles
at once; the event may name any of them. Dark tiles and tiles in ADMIT are skipped in steps 3 to 6 (R373).
-/
namespace Sys2Proof.Machine

open Host (Outcome)

/-- Tiles of partition i that a switch does not skip (R373): no state of it stands on one that has been reset (R394). -/
def liveTiles (s : State) (i : Nat) (p : Part) : List TileId :=
  p.rect.tiles.filter fun t => isLit s t && (tileOf s t).holder == some i

def tileCores (ts : List TileId) : List CoreId := ts.flatMap coresOfTile

/-- Step 1 has finished: activations have ended and issued instructions have completed. -/
def holdDone (s : State) (i : Nat) (p : Part) : Bool :=
  (tileCores (liveTiles s i p)).all fun k => (coreOf s k).act.isNone && !(coreOf s k).task.wait.issued

/-- Step 2 has finished: no MTE computes or writes back. -/
def enginesDone (s : State) (i : Nat) (p : Part) : Bool :=
  (liveTiles s i p).all fun t => (mteOf s t).run.isNone && (mteOf s t).wb.isEmpty

/-- The journals are empty. -/
def journalsDone (s : State) (i : Nat) (p : Part) : Bool :=
  (tileCores (liveTiles s i p)).all fun k => (coreOf s k).journal.toList.all (·.isNone)

/-- SWITCH_ENGINE_STOP (R353 step 2): the engines of every tile stop, a command handed over later with them: MTEs with cause 3
at a slice boundary, MVE and CVE at theirs (R351). -/
def execSwitchEngineStop (t : TileId) (s : State) : Outcome State Fault Refusal :=
  match heldPart s t with
  | none => .next s
  | some (i, p) =>
    .next (if p.step = 1 && holdDone s i p then
      (liveTiles s i p).foldl (fun s t => modTile s t fun x => { x with engStop := some s.ck }) (putPart s i { p with step := 2 })
    else s)

/-- What is on its way to a partition's tiles is parked in its order (R354). -/
def park (s : State) (i : Nat) (p : Part) (ts : List TileId) : State :=
  let s' := putPart s i { p with parked := p.parked ++ s.net.filter (goesTo ts) }
  { s' with net := s.net.filter fun q => !goesTo ts q }

/-- SWITCH_DRAIN (R353 step 3, R354): what is still in flight toward the partition's tiles is parked in its order, but for those
that the switch skips (R373). -/
def execSwitchDrain (t : TileId) (s : State) : Outcome State Fault Refusal :=
  match heldPart s t with
  | none => .next s
  | some (i, p) =>
    .next (if p.step = 2 && enginesDone s i p && journalsDone s i p then
      park s i { p with step := 3 } (liveTiles s i p)
    else s)

/-- Keys of array space that belong to a tile's stores: its cores' local memories and its tile store. -/
def tileKeys (t : TileId) : List (Nat × Nat) := (tsKey t 0, tsSize) :: (coresOfTile t).map fun k => (lmKey k 0, lmSize)

def inRanges (rs : List (Nat × Nat)) (a : Nat) : Bool := rs.any fun r => decide (r.1 ≤ a) && decide (a < r.1 + r.2)

/-- Ranges whose bytes a switch saves: all but the discardable regions (R353 step 4, R400). -/
def savedRanges (p : Part) (ts : List TileId) : List (Nat × Nat) :=
  ts.flatMap fun t =>
    (if p.tsdisc then [] else [(tsKey t 0, tsSize)]) ++
    (coresOfTile t).flatMap fun k => ((upto 12).filter fun r => !bit p.lmdisc r).map fun r => (lmKey k (4096 * r), 4096)

/-- The physical pieces of a tile's part of the switch area, 1 MiB of the context's memory (R397). -/
def areaSegs (s : State) (ctx : CtxNum) (t : TileId) : Res (List (Nat × Nat)) :=
  let at_ := ((SMap.get? s.lds.ctxs ctx.toNat).map (·.switch)).getD 0 + BitVec.ofNat 64 (2 ^ 20 * t.toNat)
  xlatGo s [] ctx .w 258 at_.toNat (2 ^ 20)

/-- The page of a tile's switch area that cannot be written, if there is one. -/
def areaBad (s : State) (ctx : CtxNum) (ts : List TileId) : Option Word :=
  ts.findSome? fun t => match areaSegs s ctx t with
    | .error (.exc e) => some e.eval
    | _ => none

/-- Encrypted bytes written over pieces of memory: no program can predict them (R353 step 4; log 30). -/
def writeSealed (s : State) (segs : List (Nat × Nat)) : State :=
  let s' := segs.foldl (fun t q => (upto ((q.2 + 63) / 64)).foldl (fun t j =>
    let n := min 64 (q.2 - 64 * j)
    writeHome t none (q.1 + 64 * j) ((upto n).map fun i => Config.frameByte s.fresh (q.1 + 64 * j + i))) t) s
  { s' with fresh := s'.fresh + 1 }

/-- The counters of a core that do not run while its context is switched out, brought up to now (R417, R418). -/
def Core.freeze (c : Core) (ck : Nat) : Core :=
  { c.runStop ck with srch := c.srch + (if c.running.isNone then ck - c.srchFrom else 0), srchFrom := ck }

/-- SWITCH_SAVE (R353 step 4, R397). The saved state is held with the partition; the switch area receives it encrypted. Of a
region of another context there is nothing to save: X reads zeros there (R212). The tiles keep nothing of X. -/
def execSwitchSave (t : TileId) (s : State) : Outcome State Fault Refusal :=
  match heldPart s t with
  | none => .next s
  | some (i, p) =>
    .next (if p.step = 3 then
      let ts := liveTiles s i p
      match areaBad s p.ctx ts with
      | some va => areaFails s p.ctx va
      | none =>
        let rs := savedRanges p ts
        let sv : Saved := {
          cores := (tileCores ts).foldl (fun m k => SMap.put m k.toNat ((coreOf s k).freeze s.ck)) []
          tiles := ts.foldl (fun m t => SMap.put m t.toNat (tileOf s t)) []
          arr := s.arr.filter fun c => inRanges rs c.1 && stampOf s (c.1 / 4096) == p.ctx.toNat }
        let s := ts.foldl (fun s t => match areaSegs s p.ctx t with
          | .ok segs => writeSealed s segs
          | .error _ => s) s
        ts.foldl (fun s t => modTile (freshTile s t 0) t fun x => { x with holder := none })
          (park s i { p with step := 4, saved := some sv } ts)
    else s)

/-- A core of a context that comes back: what is not the context's own stays as it is on the tile now: whether the core and its
contexts run at all (R24, R104, R422), the ck at which it left reset (log 51), its caches, and the numbers and records of its requests. -/
def keepCore (old new : Core) (ck : Nat) : Core :=
  { new.runStart ck with
    released := old.released, dead := old.dead, stopped := old.stopped, ckBase := old.ckBase, tvecKept := old.tvecKept
    icache := old.icache, utlb := old.utlb, atag := old.atag, txn := old.txn, done := old.done, banks := old.banks
    srchFrom := ck, task := { new.task with halted := old.task.halted } }

/-- The tiles onto which a saved partition can go back: LIT, and not reset since it left them (R373, R394). -/
def backTiles (s : State) (p : Part) (sv : Saved) : List TileId :=
  p.rect.tiles.filter fun t => isLit s t && (SMap.get? sv.tiles t.toNat).isSome

/-- A saved partition put back onto its tiles; the regions restored take its stamp (R353 step 5). -/
def restorePart (s : State) (i : Nat) (p : Part) (sv : Saved) : State :=
  let ts := backTiles s p sv
  let s := { s with net := s.net.filter fun q => !goesTo ts q }
  let s := ts.foldl (fun s t => match SMap.get? sv.tiles t.toNat with
    | some x => setTile s t { keepTile (tileOf s t) x with holder := some i, held := true, stale := false, part := some p.rect }
    | none => s) s
  let s := (tileCores ts).foldl (fun s k => match SMap.get? sv.cores k.toNat with
    | some c => setCore s k (keepCore (coreOf s k) c s.ck)
    | none => s) s
  let rs := savedRanges p ts
  let arr := (sv.arr.filter fun c => inRanges rs c.1).foldl (fun m c => Mem.set m c.1 c.2) (s.arr.filter fun c => !inRanges rs c.1)
  let regions := rs.flatMap fun r => (upto (r.2 / 4096)).map fun j => r.1 / 4096 + j
  let bare := s.stamps.filter fun c => !inRanges rs (c.1 * 4096)
  let stamps := if p.ctx = 0 then bare else regions.foldl (fun m r => SMap.put m r p.ctx.toNat) bare
  let fills := s.fills.filter fun f => !inRanges rs (f.1 * 4096)
  putPart { s with arr := arr, stamps := stamps, fills := fills } i { p with step := 5, saved := none }

/-- Tiles that hold no state of a context, or only that of a launch that has ended (R405). -/
def tileFree (s : State) (t : TileId) : Bool :=
  isLit s t &&
  (match heldPart s t with
    | none => true
    | some (_, p) => p.ended)

/-- Are the tiles within the class of a partition: does no reservation overlap those of an Interactive or Bulk one (R404)? -/
def stillInClass (s : State) (p : Part) (ts : List TileId) : Bool :=
  decide (p.cls.toNat < 2) || !s.lds.resvs.any fun r => ts.any r.rect.has

/-- SWITCH_RESTORE (R353 step 5, R397, R404, R406): the partition of `ctx` that left these tiles comes back, with a colour for its context;
it waits while all 16 are held, or while its tiles are reserved. Without one, the tile is made ready for a fresh context, which restores no region. -/
def execSwitchRestore (t : TileId) (ctx : CtxNum) (s : State) : Outcome State Fault Refusal :=
  match s.lds.parts.find? fun x => x.2.ctx == ctx && x.2.rect.has t && x.2.saved.isSome && x.2.step == 4 with
  | some (i, p) =>
    match p.saved with
    | some sv =>
      let ts := backTiles s p sv
      .next (if ts.all (tileFree s) && stillInClass s p ts then
        match areaBad s ctx ts with
        | some va => areaFails s ctx va
        | none =>
          match giveColour (dropEnded s p.rect) ctx with
          | none => s
          | some (_, s') => restorePart (setWays s' ctx) i p sv
      else s)
    | none => .next s
  | none =>
    .next (if (tileOf s t).holder.isNone && tileFree s t then freshTile s t ctx else s)

/-- The command that an MTE stopped for the switch is issued again from KDONE, before commands accepted after it, and
without a grant; MPROG.V is cleared and the other fields stay (R353 step 6). -/
def reissue (s : State) (k : CoreId) : State :=
  asCore s k .task fun s =>
    let w := s.core.mprog
    if !bit w 63 || fld w 44 4 != 3 then s
    else
      let t := myTile s
      let q := (mteOf s t).queue
      let kind := kindOfCode (fld w 42 2)
      let ctl := setFld s.core.mprogc 12 12 (fld w 16 12)
      let s1 := { s with core := { s.core with mprog := setBit w 63 false } }
      let s2 := mteAccept s1 kind (BitVec.ofNat 3 (fld w 39 3)) (BitVec.ofNat 3 (fld w 36 3)) (BitVec.ofNat 3 (fld w 33 3)) ctl
      modMte s2 t fun e => { e with queue := ((e.queue.drop q.length).map fun m => { m with noGrant := true }) ++ q }

/-- SWITCH_RESUME (R353 step 6, R354). What is parked for a tile that the switch skips finds its port closed (R365, R373). -/
def execSwitchResume (t : TileId) (s : State) : Outcome State Fault Refusal :=
  match heldPart s t with
  | none => .next s
  | some (i, p) =>
    .next (if p.step = 5 then
      let ts := liveTiles s i p
      let s := { s with net := p.parked.filter (fun q => goesTo ts q) ++ s.net }
      let s := (p.parked.filter fun q => !goesTo ts q).foldl adrift s
      let s := ts.foldl (fun s t => modTile s t fun x => { x with held := false, engStop := none, mte := { x.mte with held := none } }) s
      let s := (tileCores ts).foldl reissue s
      putPart s i { p with step := 0, parked := [], since := s.ck, expired := false, preempt := false }
    else s)

/-- SLICE_EXPIRY (R404, R405): a slice runs from the switch-in. -/
def execSliceExpiry (t : TileId) (s : State) : Outcome State Fault Refusal :=
  match heldPart s t with
  | none => .next s
  | some (i, p) => .next (if p.since + p.slice ≤ s.ck ∧ 2 ≤ p.cls.toNat then putPart s i { p with expired := true } else s)

/-- An Interactive launch waits to be placed. -/
def interactiveWaits (s : State) : Bool :=
  s.lds.queues.any fun q => q.2.pending.isSome && q.2.ctl.toNat % 4 == 2

/-- BULK_PREEMPTION_POINT (R404): 8,000 ck of a Bulk slice have run while an Interactive launch waits, to which it then gives way. -/
def execBulkPreemptionPoint (t : TileId) (s : State) : Outcome State Fault Refusal :=
  match heldPart s t with
  | none => .next s
  | some (i, p) =>
    .next (if p.cls = 3 ∧ p.since + 8000 ≤ s.ck ∧ interactiveWaits s then putPart s i { p with preempt := true } else s)

end Sys2Proof.Machine
end

