-- ==== Sys2Proof/Machine/Keepers.lean ====
section
/-!
DEFINITION. Keepers: beacons (R359), suspicion and votes (R360 to R362, R371), declarations and darkness (R363 to
R367), relight (R368 to R370), and the reset of a tile (R431, R432).
-/
namespace Sys2Proof.Machine

open Host (Outcome)

def keeperOf (s : State) (t : TileId) : Keeper := (tileOf s t).keeper
def modKeeper (s : State) (t : TileId) (f : Keeper → Keeper) : State := modTile s t fun x => { x with keeper := f x.keeper }

def tileDist (a b : TileId) : Nat :=
  (tileX a - tileX b) + (tileX b - tileX a) + (tileY a - tileY b) + (tileY b - tileY a)

/-- Tiles within distance 2, the tile itself included (R362). -/
def tilesNear (t : TileId) : List TileId := allTiles.filter fun x => decide (tileDist t x ≤ 2)

/-- The dark bit of a tile in a keeper's view (R362). -/
def Keeper.sees (kp : Keeper) (x : TileId) : Bool := kp.dark.contains x.toNat

/-- A record of KIND 7 (R374). -/
def keeperRec (s : State) (t : TileId) (code : BitVec 8) (x : TileId) : State :=
  sendRec s (mkRec 7 code 0 0xffff (coreOfTile t 0).toNat (BitVec.ofNat 64 (t.toNat * 256 + x.toNat)) 0)

def sendSide (s : State) (t : TileId) (m : SideMsg) : State := { s with side := s.side ++ [(t, m)] }

/-- The first side-band message to a tile that satisfies a test. -/
def takeSide (s : State) (t : TileId) (p : SideMsg → Bool) : Option (SideMsg × State) :=
  match s.side.find? fun x => x.1 == t && p x.2 with
  | some x => some (x.2, { s with side := s.side.erase x })
  | none => none

/-! Beacons (R359). -/

def beaconWord (s : State) (t : TileId) : BitVec 32 :=
  let kp := keeperOf s t
  let dmap := dirBits fun d => match tileBeside t d with
    | some x => kp.sees x
    | none => false
  let low := tileX t * 2 ^ 12 + tileY t * 2 ^ 8 + kp.state.code * 2 ^ 5 + dmap * 2
  BitVec.ofNat 32 (crc16 (leBytes 2 low) * 2 ^ 16 + low)

/-- The ck of a tile's next beacon: the next multiple of 1,024 ck from its last reset at which it has sent none (R359). -/
def nextBeat (kp : Keeper) (ck : Nat) : Nat :=
  let c := kp.base + 1024 * max 1 ((ck - kp.base + 1023) / 1024)
  if c < kp.beat then c + 1024 else c

/-- BEACON_SEND (R359, R360, R369): a beacon to each neighbour in the ck at which a new period of the keeper begins. -/
def execBeaconSend (t : TileId) (s : State) : Outcome State Fault Refusal :=
  let s := elapseTo s (nextBeat (keeperOf s t) s.ck)
  let w := beaconWord s t
  let s := (tilesBeside t).foldl (fun s x => sendSide s x (.beacon t w)) s
  .next (modKeeper s t fun kp => { kp with
    bad := ⟨0, 0, 0, 0⟩
    beat := s.ck + 1
    sent := if kp.state = .appeal then kp.sent + 1 else kp.sent })

/-! Views (R370). -/

def bcState (w : BitVec 32) : Nat := fld w 5 3
def bcDark (w : BitVec 32) (d : Dir) : Bool :=
  bit w (match d with
    | .north => 1
    | .east => 2
    | .south => 3
    | .west => 4)

/-- A tile that is relit is no longer dark in what a keeper has heard: its last beacon counts as one in ADMIT, and no neighbour's last beacon
names it (R369 step 4, R370). -/
def heardRelit (t x : TileId) (ck : Nat) (kp : Keeper) : Keeper :=
  allDirs.foldl (fun kp d => match tileBeside t d with
    | some y =>
      let w := kp.beacon.get d
      let w := if y = x then BitVec.ofNat 32 (w.toNat - fld w 5 3 * 2 ^ 5 + 3 * 2 ^ 5) else w
      let w := allDirs.foldl (fun (w : BitVec 32) e => if tileBeside y e = some x ∧ bcDark w e = true then
        w - (match e with
          | .north => 2
          | .east => 4
          | .south => 8
          | .west => 16) else w) w
      { kp with beacon := kp.beacon.set d w, good := if y = x then kp.good.set d ck else kp.good }
    | none => kp) kp

/-- The view that a keeper rebuilds from the side band (R370). -/
def rebuildView (s : State) (t : TileId) : List Nat :=
  let kp := keeperOf s t
  let live := fun (d : Dir) => decide (s.ck < kp.good.get d + 4352) && (bcState (kp.beacon.get d) == 0 || bcState (kp.beacon.get d) == 3)
  let near := allDirs.filterMap fun d => match tileBeside t d with
    | some x => if live d then none else some x.toNat
    | none => none
  let far := allDirs.flatMap fun d => match tileBeside t d with
    | some x => if live d then allDirs.filterMap fun e => match tileBeside x e with
        | some y => if y ≠ t ∧ tileDist t y = 2 ∧ bcDark (kp.beacon.get d) e then some y.toNat else none
        | none => none
      else []
    | none => []
  (near ++ far).foldl (fun l a => insertNat a l) []

/-! Votes (R360 to R362). -/

/-- Does a keeper take part in votes and declarations: is its own state LIT or ADMIT (R368, R370)? One that works but has not yet heard
that its tile is dark still does. -/
def keeperWorks (s : State) (t : TileId) : Bool := (keeperOf s t).state == .lit || (keeperOf s t).state == .admitting

/-- A path of n hops, its hops tried in the order north, east, south, west (R361). -/
def pathOfLength (avoid : TileId → Bool) (b : TileId) : Nat → TileId → Option (List TileId)
  | 0, a => if a = b then some [] else none
  | n + 1, a =>
    if n + 1 < tileDist a b then none
    else allDirs.findSome? fun d => match tileBeside a d with
      | some x => if avoid x then none else (pathOfLength avoid b n x).map (x :: ·)
      | none => none

/-- The shortest path of at most 6 hops between two tiles (R361). -/
def pathTo (avoid : TileId → Bool) (a b : TileId) : Option (List TileId) :=
  (upto 6).findSome? fun n => pathOfLength avoid b (n + 1) a

/-- Tiles that a path of a sender about suspect x avoids (R361, R363). -/
def avoids (kp : Keeper) (x : TileId) (y : TileId) : Bool := y == x || kp.sees y

/-- May a vote or a declaration pass between two neighbours: is the port open at both ends (R370)? -/
def sideOpen (s : State) (t x : TileId) : Bool := !portShut s t x

/-- A message goes one hop along its path: `m` is given the hops that are then left. -/
def hop (s : State) (t : TileId) (shutToo : Bool) (path : List TileId) (m : List TileId → SideMsg) : State :=
  match path with
  | [] => s
  | x :: r => if shutToo || sideOpen s t x then sendSide s x (m r) else s

/-- A message sent to a keeper by its path; `none` when there is no path. -/
def sendBy (s : State) (t y : TileId) (avoid : TileId → Bool) (shutToo : Bool) (m : List TileId → SideMsg) : Option State :=
  (pathTo avoid t y).map fun path => hop s t shutToo path m

/-- L and T of R362 in a keeper's view. -/
def liveBeside (kp : Keeper) (x : TileId) : Nat := ((tilesBeside x).filter fun y => !kp.sees y).length
def majority (l : Nat) : Nat := l / 2 + 1

/-- Distinct voters with an unexpired vote whose dark bit is 0 (R362). -/
def tally (kp : Keeper) (x : TileId) (ck : Nat) : Nat :=
  ((tilesBeside x).filter fun y => !kp.sees y && kp.votes.any fun v => v.voter == y && v.suspect == x && v.live ck).length

/-! Reset of a tile (R431, R432). -/

/-- A core after a tile reset; `go` says that it is released at once at its kept TVEC (R26, R432). The numbers of its requests go on, so
that no old answer is taken for a new one (R246). -/
def resetCore (c : Core) (ck : Nat) (go : Bool) : Core :=
  { Core.reset with
    ckBase := ck, tvec := c.tvecKept, tvecKept := c.tvecKept, released := go, atag := c.atag, txn := c.txn
    slots := c.slots.map fun x => { Slot.reset with purging := x.purging }
    srchFrom := ck
    task := if go then { Ctx.reset with pc := c.tvecKept } else Ctx.reset }

/-- A keeper after the reset of its tile (R359, R370): its own ports are closed unless it is LIT (R368). -/
def resetKeeper (ck : Nat) (st : KState) (fails : Nat) : Keeper :=
  let c := st != .lit
  { Keeper.reset with state := st, fails := fails, good := ⟨ck, ck, ck, ck⟩, base := ck, closed := ⟨c, c, c, c⟩ }

/-- What a partition that is switched out holds of a tile is gone: no context's state returns to it (R394). -/
def Saved.without (t : TileId) (sv : Saved) : Saved :=
  let ks := (coresOfTile t).map (·.toNat)
  let rs := tileKeys t
  ⟨sv.cores.filter fun c => !ks.contains c.1, SMap.del sv.tiles t.toNat, sv.arr.filter fun c => !inRanges rs c.1⟩

/-- R431 on a tile whose keeper enters `st`. What a partition saved of a tile before the reset of one that is LIT goes back to it later. A tile that becomes LIT is dark no longer, and its shadow's ports are open (log 27). -/
def resetTile (s : State) (t : TileId) (st : KState) (fails : Nat) (go : Bool) : State :=
  let x := tileOf s t
  let s := setTile s t { Tile.reset with
    keeper := resetKeeper s.ck st fails, map := x.map, dark := st != .lit
    shadow := if st = .lit then Tile.reset.shadow else x.shadow }
  let s := (coresOfTile t).foldl (fun s k => setCore (dissolve s k) k (resetCore (coreOf s k) s.ck go)) s
  let rs := tileKeys t
  { s with
    arr := s.arr.filter fun c => !inRanges rs c.1
    stamps := s.stamps.filter fun c => !inRanges rs (c.1 * 4096)
    fills := s.fills.filter fun r => !inRanges rs (r.1 * 4096)
    lds := if st = .lit then s.lds else { s.lds with parts := s.lds.parts.map fun p => (p.1, { p.2 with saved := p.2.saved.map (·.without t) }) } }

/-! Darkness (R363, R365, R367). -/

/-- The requests of other tiles that have entered a core and still await an answer, as packets: the port that closes answers them
(R365). -/
def heldRequests (s : State) (k : CoreId) : List Packet :=
  let c := coreOf s k
  let pkt := fun (src : CoreId) (tag : BitVec 16) (b : Body) => (⟨src, k, tag, c.ctxnum, b⟩ : Packet)
  let soft := fun (src : CoreId) (hdr : Word) (pay : List Word) => pkt src (BitVec.ofNat 16 (fld hdr 48 16)) (.active hdr pay)
  (c.activeQ.filterMap fun m => match m with
    | .soft src _ hdr pay true => some (soft src hdr pay)
    | .soft _ _ _ _ false => none
    | .arrival .. => none
    | .atomic src h off req _ tag seq addr => some (pkt src tag (.atomic h off req seq addr))
    | .copyx cmd => some (pkt cmd.issuer cmd.owner (.copyx cmd))) ++
  ((c.act.filter (·.mayReply)).map fun a => soft a.src a.hdr []).toList ++
  (upto 8).flatMap fun e =>
    let ent := vget c.streams e StreamEnt.reset
    ent.buf.map fun w => pkt (coreAt (fld ent.word 18 5) (fld ent.word 23 5)) (BitVec.ofNat 16 (fld w.1 48 16)) (.stream w.1 w.2)

/-- The commands of other tiles that a tile's MVE carries out (R315), as requests. -/
def heldCopies (s : State) (t : TileId) : List Packet :=
  ((tileOf s t).mve.filter fun c => tileOfCore c.issuer != t).map fun c =>
    ⟨c.issuer, coreOfTile t 0, c.owner, c.ctx, .copyx { c with kind := .copyx }⟩

/-- Does a command name a tile in array space? -/
def Cmd.names (c : Cmd) (x : TileId) : Bool :=
  let comp := dwordOf c.blk 5
  (compSsp comp && tileOfCore (arrCore (dwordOf c.blk 0)) == x) ||
  (match c.kind with
    | .copym => (maskBits (dwordOf c.blk 3)).any fun b => tileOfCore (maskCore c.issuer b) == x
    | _ => compDsp comp && tileOfCore (arrCore (dwordOf c.blk 1)) == x)

def failDark (x : TileId) (c : Cmd) : Cmd :=
  if c.names x && c.fail.isNone && !c.allLanded then { c with fail := some ⟨0x08, dwordOf c.blk 0, 0⟩ } else c

/-- A machine with the tiles and cores of a partition that is switched out in their places, and its parked packets on their way. -/
def withSaved (s : State) (p : Part) (sv : Saved) : State :=
  let s := sv.tiles.foldl (fun s x => setTile s (BitVec.ofNat 8 x.1) (keepTile (tileOf s (BitVec.ofNat 8 x.1)) x.2)) { s with net := p.parked }
  sv.cores.foldl (fun s x => setCore s (BitVec.ofNat 10 x.1) x.2) s

/-- What a partition's saved state has become in such a machine `t`, and all else of `t` in `s`. -/
def backSaved (s t : State) (i : Nat) (p : Part) (sv : Saved) : State :=
  let sv' : Saved := ⟨sv.cores.map fun x => (x.1, coreOf t (BitVec.ofNat 10 x.1)), sv.tiles.map fun x => (x.1, tileOf t (BitVec.ofNat 8 x.1)), sv.arr⟩
  putPart { t with core := s.core, others := s.others, tiles := s.tiles, net := s.net } i { p with parked := t.net, saved := some sv' }

/-- The tasks that a partition which is switched out has on a dark tile die as those on it do (R367, R394): records and notices are sent, the
failures among their completions go to their parents, and their messages, parked or accepted, are discarded (R345). Nothing of the
tile is left to return to. -/
def darkSaved (x : TileId) (s : State) (i : Nat) : State :=
  match SMap.get? s.lds.parts i with
  | none => s
  | some p =>
    match p.saved with
    | none => s
    | some sv =>
      let ks := (coresOfTile x).filter fun k => (SMap.get? sv.cores k.toNat).isSome
      if ks.isEmpty then s
      else
        let t := ks.foldl (fun t k => (upto 64).foldl (fun t j => purge (killTask t k j 0x08 2) (tagOf k j)) t) (withSaved s p sv)
        let s' := backSaved s t i p sv
        { s' with lds := { s'.lds with parts := s'.lds.parts.map fun q =>
          if q.1 = i then (q.1, { q.2 with saved := q.2.saved.map (·.without x) }) else q } }

/-- A tile becomes dark, in the ck of the first declaration: its tasks die with notice KIND 2, its cores and engines do nothing further, and
work elsewhere that names it fails (R363, R365, R367). Its shadow closes its ports in the next ck. -/
def darken (s : State) (x : TileId) : State :=
  if isDark s x then s
  else
    let ks := coresOfTile x
    let s := modTile s x fun t => { t with dark := true, shadow := { t.shadow with due := some (s.ck + 1, true) } }
    let inside := ks.flatMap (heldRequests s) ++ heldCopies s x
    let s := ks.foldl dissolve s
    let s := ks.foldl (fun s k => (upto 64).foldl (fun s j => killTask s k j 0x08 2) s) s
    let s := (s.lds.parts.map (·.1)).foldl (darkSaved x) s
    let s := ks.foldl (fun s k => modCore s k fun c => { c with activeQ := [], launchQ := [], act := none }) s
    let own := fun (p : Packet) => tileOfCore p.src == x && goesTo [x] p
    let s := { s with
      net := s.net.filter (fun p => !own p) ++ inside.filter fun p => !own p
      tiles := s.tiles.map fun y =>
        if y.1 = x.toNat then y else (y.1, { y.2 with mve := y.2.mve.map (failDark x), cve := y.2.cve.map (failDark x) }) }
    failRect s x

/-- The keeper of a dark tile that hears of it enters DARK: the tile is reset, to be tested (R363, R368). -/
def enterDark (s : State) (x : TileId) : State :=
  if (keeperOf s x).state = .lit ∨ (keeperOf s x).state = .admitting then resetTile s x .dark (keeperOf s x).fails false else s

/-- A keeper sets the dark bit of a tile: the tile's own votes leave its tallies (R371), and its port toward the tile, if there is one,
closes in the next ck and what it has received there counts no more (R363, R369). -/
def setDark (s : State) (t x : TileId) : State :=
  modKeeper s t fun kp =>
    let kp := { kp with dark := insertNat x.toNat kp.dark, votes := kp.votes.filter fun v => v.voter != x }
    match dirTo t x with
    | some d => if kp.closed.get d then kp else { kp with due := kp.due.set d (some (s.ck + 1, true)), row := kp.row.set d 0 }
    | none => kp

/-- A keeper declares a neighbour dark (R362, R363): the declaration goes to every keeper within distance 2 by the paths of R361, and to the
tile itself over the link between them. -/
def declareDark (s : State) (t x : TileId) : State :=
  let kp := keeperOf s t
  let s := keeperRec (setDark s t x) t 3 x
  let s := (tilesNear x).foldl (fun s y =>
    if y = t then s
    else if y = x then hop s t false [x] fun r => .declare r x
    else (sendBy s t y (avoids kp x) false fun r => .declare r x).getD s) s
  darken s x

/-- Does a keeper count a majority against a neighbour (R362)? -/
def mustDeclare (s : State) (t x : TileId) : Bool :=
  let kp := keeperOf s t
  let l := liveBeside kp x
  keeperWorks s t && (tilesBeside t).contains x && !kp.sees x && decide (1 ≤ l) && decide (majority l ≤ tally kp x s.ck)

/-- Every majority that a keeper now counts is declared. -/
def countAll (s : State) (t : TileId) : State :=
  (tilesBeside t).foldl (fun s x => if mustDeclare s t x then declareDark s t x else s) s

/-- A keeper votes against a neighbour (R360, R361). -/
def castVote (s : State) (t x : TileId) (reason : BitVec 2) : State :=
  let kp := keeperOf s t
  if !keeperWorks s t || kp.sees x || kp.votes.any (fun v => v.voter == t && v.suspect == x && v.live s.ck) then s
  else
    let v : Vote := ⟨t, x, reason, s.ck⟩
    let s := modKeeper s t fun kp => { kp with votes := kp.votes ++ [v] }
    let s := keeperRec s t (reason.setWidth 8) x
    let s := (tilesBeside x).foldl (fun s y =>
      if y = t then s
      else (sendBy s t y (avoids kp x) false fun r => .vote r v).getD (keeperRec s t 8 x)) s
    countAll s t

/-- A malformed flit from a neighbour (R360): the run of good beacons breaks; the fourth of a period makes a suspect. -/
def malformed (s : State) (t : TileId) (d : Dir) (x : TileId) : State :=
  let n := (keeperOf s t).bad.get d + 1
  let s := modKeeper s t fun kp => { kp with bad := kp.bad.set d n, row := kp.row.set d 0 }
  if 4 ≤ n then castVote s t x 2 else s

/-- A relight declaration to every keeper within distance 2, by the paths of R363 (R369 step 4). -/
def floodRelight (s : State) (t : TileId) : State :=
  let kp := keeperOf s t
  (tilesNear t).foldl (fun s y => if y = t then s else (sendBy s t y kp.sees true fun r => .relight r t).getD s) s

/-- The tile is relit, and no answer to what it asked before it was dark reaches it: in ADMIT its own ports are open but toward tiles that are dark in its view, and its shadow reopens its ports in the
next ck (R368, R369 step 4). -/
def relit (s : State) (t : TileId) : State :=
  let toDark := fun (kp : Keeper) (d : Dir) => match tileBeside t d with
    | some x => kp.sees x
    | none => false
  let old := fun (p : Packet) => tileOfCore p.dst == t && isAnswer p
  let s := modTile { s with net := s.net.filter fun p => !old p } t fun x => { x with
    dark := false
    shadow := { x.shadow with due := some (s.ck + 1, false) }
    keeper := { x.keeper with
      state := .admitting, appealCk := none
      closed := ⟨toDark x.keeper .north, toDark x.keeper .east, toDark x.keeper .south, toDark x.keeper .west⟩ } }
  keeperRec (floodRelight s t) t 5 t

/-- A tile whose keeper holds T acceptances of its view within 8,192 ck of its appeal is relit (R369 step 4): with each acceptance, and with
each change of the view (R370). -/
def tryRelit (s : State) (t : TileId) : State :=
  let kp := keeperOf s t
  match kp.state, kp.appealCk with
  | .appeal, some c => if majority (liveBeside kp t) ≤ kp.accepted.length ∧ s.ck < c + 8192 then relit s t else s
  | _, _ => s

/-- BEACON_RECEIVE (R359, R360, R369, R370): `w` is what the port receives. Good beacons are in a row while none of a period is missing,
with the 256 ck of grace that R360 gives (log 27). -/
def execBeaconReceive (t : TileId) (d : Dir) (w : BitVec 32) (s : State) : Outcome State Fault Refusal :=
  match tileBeside t d with
  | none => .next s
  | some x =>
    let s := match takeSide s t (fun m => match m with
        | .beacon y _ => y == x
        | _ => false) with
      | some (_, s) => s
      | none => s
    let low := fld w 0 16
    .next (if fld w 16 16 ≠ crc16 (leBytes 2 low) then
      modKeeper s t fun kp => { kp with row := kp.row.set d 0 }
    else if fld w 12 4 ≠ tileX x ∨ fld w 8 4 ≠ tileY x ∨ 4 < bcState w then malformed s t d x
    else
      let s := modKeeper s t fun kp => { kp with
        good := kp.good.set d s.ck, beacon := kp.beacon.set d w
        row := kp.row.set d (if s.ck ≤ kp.good.get d + 1280 then kp.row.get d + 1 else 1) }
      if (keeperOf s t).state = .appeal then
        let v := rebuildView s t
        tryRelit (modKeeper s t fun kp => { kp with dark := v }) t
      else s)

/-- SILENCE_TIMEOUT (R360): no good beacon for 4,352 ck. -/
def execSilenceTimeout (t : TileId) (d : Dir) (s : State) : Outcome State Fault Refusal :=
  match tileBeside t d with
  | none => .next s
  | some x => .next (if (keeperOf s t).good.get d + 4352 ≤ s.ck then castVote s t x 1 else s)

/-- MALFORMED_FLIT (R360): a data flit sent without a credit makes a suspect at once. -/
def execMalformedFlit (t : TileId) (d : Dir) (credit : Bool) (s : State) : Outcome State Fault Refusal :=
  match tileBeside t d with
  | none => .next s
  | some x =>
    .next (if credit then castVote (modKeeper s t fun kp => { kp with row := kp.row.set d 0 }) t x 2 else malformed s t d x)

/-- VOTE_RELAY (R361, R371): a vote that is to go on is relayed; the time it has been held is part of its age. One that has come is counted,
unless its voter is dark in this view or it is too old. -/
def execVoteRelay (t : TileId) (s : State) : Outcome State Fault Refusal :=
  match takeSide s t (fun m => match m with
      | .vote .. => true
      | _ => false) with
  | some (.vote path v, s) =>
    .next (if !keeperWorks s t then s
      else if !path.isEmpty then hop s t false path fun r => .vote r v
      else if (keeperOf s t).sees v.voter || !v.live s.ck then s
      else countAll (modKeeper s t fun kp => { kp with
        votes := (kp.votes.filter fun u => !(u.voter == v.voter && u.suspect == v.suspect)) ++ [v] }) t)
  | _ => .next s

/-- VOTE_EXPIRY (R361). -/
def execVoteExpiry (t : TileId) (s : State) : Outcome State Fault Refusal :=
  .next (modKeeper s t fun kp => { kp with votes := kp.votes.filter fun v => v.live s.ck })

/-- DARK_DECLARATION (R363, R370, R371): a declaration received binds the keeper, or is relayed; S's own keeper enters DARK. -/
def execDarkDeclaration (t : TileId) (s : State) : Outcome State Fault Refusal :=
  match takeSide s t (fun m => match m with
      | .declare .. => true
      | _ => false) with
  | some (.declare path x, s) =>
    .next (if !keeperWorks s t then s
      else if !path.isEmpty then hop s t false path fun r => .declare r x
      else if t = x then enterDark (darken s x) x
      else if (keeperOf s t).sees x then s
      else countAll (darken (setDark s t x) x) t)
  | _ => .next s

/-- PORT_CLOSE (R363, R365): the next ck, in which the port that a declaration closes is closed. -/
def execPortClose (t : TileId) (d : Dir) (s : State) : Outcome State Fault Refusal :=
  .next (match (keeperOf s t).due.get d with
    | some (c, true) => elapseTo s c
    | _ => s)

/-! Relight (R368 to R370). -/

/-- A tile placed in FENCED: its ports are closed and its cores held (R368, R374). -/
def fence (s : State) (t : TileId) : State :=
  let s := modKeeper s t fun kp => { kp with state := .fenced, sent := 0, appealCk := none, accepted := [], closed := ⟨true, true, true, true⟩ }
  keeperRec (modTile s t fun x => { x with dark := true, shadow := ⟨true, true, none⟩ }) t 7 t

/-- A failed relight: DARK again, with its reset and its test, or FENCED (R368, R369 step 5, R370). -/
def failedRelight (s : State) (t : TileId) : State :=
  let n := (keeperOf s t).fails + 1
  let s := keeperRec s t 6 t
  if n < 3 then resetTile s t .dark n false else fence (modKeeper s t fun kp => { kp with fails := n }) t

/-- SELF_TEST_DONE (R368 to R370): the self-test takes 163,840 ck from the reset. A tile that fails the self-test of
bring-up, which begins when every tile has been reset, is placed in FENCED (R430 step 5). -/
def execSelfTestDone (t : TileId) (pass : Bool) (s : State) : Outcome State Fault Refusal :=
  .next (if (keeperOf s t).state = .dark then
    let s := elapseTo s ((keeperOf s t).base + 163840)
    if pass then
      let v := rebuildView s t
      modKeeper s t fun kp => { kp with state := .appeal, dark := v, votes := [], sent := 0, appealCk := none, accepted := [] }
    else failedRelight s t
  else if s.mgmt.boot = .running ∧ !s.mgmt.linkUp ∧ (keeperOf s t).state = .lit ∧
      (coresOfTile t).all (fun k => !(coreOf s k).released) ∧ allReset s ∧ !s.mgmt.tested.contains t.toNat then
    let s := elapseTo s ((keeperOf s t).base + 163840)
    let s := { s with mgmt := { s.mgmt with tested := insertNat t.toNat s.mgmt.tested } }
    if pass then s else fence s t
  else s)

/-- RELIGHT_APPEAL (R369 step 2). -/
def execRelightAppeal (t : TileId) (s : State) : Outcome State Fault Refusal :=
  let kp := keeperOf s t
  .next (if kp.state = .appeal ∧ 4 ≤ kp.sent ∧ kp.appealCk = none then
    let ys := (tilesBeside t).filter fun y => !kp.sees y
    let s := ys.foldl (fun s y => sendSide s y (.appeal t)) s
    let s := modKeeper s t fun kp => { kp with appealCk := some s.ck, accepted := [] }
    if ys.isEmpty then s else keeperRec s t 4 t
  else s)

/-- APPEAL_RECEIPT (R369 step 3): S's last four beacons are good and in a row while none that is due is missing (log 27). -/
def execAppealReceipt (t : TileId) (d : Dir) (s : State) : Outcome State Fault Refusal :=
  match tileBeside t d with
  | none => .next s
  | some x =>
    match takeSide s t (fun m => m == .appeal x) with
    | none => .next s
    | some (_, s) =>
      let kp := keeperOf s t
      .next (if (kp.state = .lit ∨ kp.state = .admitting) ∧ kp.sees x ∧ 4 ≤ kp.row.get d ∧ s.ck ≤ kp.good.get d + 1280 then sendSide s x (.accept t) else s)

/-- ACCEPTANCE_RECEIPT (R369 step 4): with T acceptances in time the tile is relit. -/
def execAcceptanceReceipt (t : TileId) (d : Dir) (s : State) : Outcome State Fault Refusal :=
  match tileBeside t d with
  | none => .next s
  | some x =>
    match takeSide s t (fun m => m == .accept x) with
    | none => .next s
    | some (_, s) =>
      let kp := keeperOf s t
      .next (if kp.state = .appeal ∧ kp.appealCk.isSome = true then
        tryRelit (modKeeper s t fun kp => { kp with accepted := insertNat x.toNat kp.accepted }) t
      else s)

/-- RELIGHT_DECLARATION (R369 step 4, R370): relayed, or the dark bit is cleared, in what the keeper has heard too, and the port reopens in the
next ck. -/
def execRelightDeclaration (t : TileId) (s : State) : Outcome State Fault Refusal :=
  match takeSide s t (fun m => match m with
      | .relight .. => true
      | _ => false) with
  | some (.relight path x, s) =>
    .next (if !path.isEmpty then hop s t true path fun r => .relight r x
      else tryRelit (modKeeper s t fun kp =>
        let kp := heardRelit t x s.ck { kp with dark := kp.dark.filter (· != x.toNat) }
        match dirTo t x with
        | some d => if keeperWorks s t then { kp with due := kp.due.set d (some (s.ck + 1, false)) } else kp
        | none => kp) t)
  | _ => .next s

/-- APPEAL_TIMEOUT (R369 step 5). -/
def execAppealTimeout (t : TileId) (s : State) : Outcome State Fault Refusal :=
  let kp := keeperOf s t
  match kp.state, kp.appealCk with
  | .appeal, some c => .next (if c + 8192 ≤ s.ck then failedRelight s t else s)
  | _, _ => .next s

end Sys2Proof.Machine
end

