-- ==== Sys2Proof/Machine/TransEvents.lean ====
section
/-!
DEFINITION. Events of the translation service, of the event arbiter and of the link (R346 to R352, R356, R357, R416).
-/
namespace Sys2Proof.Machine

open Host (Outcome)

/-! Translations. -/

/-- An entry put into a cache of n entries; the oldest leaves. -/
def putXlat (n : Nat) (x : Xlat) (l : List Xlat) : List Xlat :=
  (x :: l.filter fun y => !(y.ctx == x.ctx && y.va == x.va && y.lg == x.lg)).take n

/-- An entry put into the caches of all three levels (R347). -/
def fillXlat (s : State) (k : CoreId) (x : Xlat) : State :=
  let s := modCore s k fun c => { c with utlb := putXlat 32 x c.utlb }
  let s := modTile s (tileOfCore k) fun t => { t with tlb := putXlat 256 x t.tlb }
  { s with tsu := { s.tsu with cache := putXlat 16384 x s.tsu.cache } }

/-- TRANSLATION_RESPONSE (R347, R348). -/
def execTranslationResponse (k : CoreId) (va : Word) (s : State) : Outcome State Fault Refusal :=
  match tsuXlat s (coreOf s k).ctxnum va.toNat .r with
  | some x => .next (fillXlat s k x)
  | none => .next s

/-- A command that waited for a page goes on, or fails (R351). -/
def answerCmd (r : PageReq) (ok : Bool) (c : Cmd) : Cmd :=
  if c.ptag = some r.ptag then
    { c with ptag := none, fail := if ok then c.fail else some ⟨if r.perm then 0x02 else 0x01, r.va, 0⟩ }
  else c

/-- The host's tables with a page: it replaces what it covers. -/
def hostPut (l : List HostPage) (p : HostPage) : List HostPage :=
  p :: l.filter fun q => !(q.pasid == p.pasid && q.va == p.va)

/-- Event 0x17 for the context that faulted, in the event queue of the partition that asked while that is switched out (R339, R349). -/
def pageEvent (s : State) (r : PageReq) (w : Word) : State :=
  match savedOf s r.part r.core with
  | some (i, p, sv, c) =>
    if c.eventQ.length < 32 then
      putPart s i { p with saved := some { sv with cores := SMap.put sv.cores r.core.toNat { c with eventQ := c.eventQ ++ [⟨0x17, w⟩] } } }
    else sendRec s (mkRec 8 0x17 r.ctx (c.runTag r.core) r.core.toNat w 0)
  | none => if (coreOf s r.core).ctxnum = r.ctx then pushEvent s r.core 0x17 w else s

/-- PAGE_RESPONSE (R349, R351): event 0x17, or the answer to a waiting engine. `page` is what the host now maps. -/
def execPageResponse (ptag : BitVec 16) (ok : Bool) (page : Option HostPage) (s : State) : Outcome State Fault Refusal :=
  match (if hostUp s then s.tsu.reqs.find? fun r => r.ptag == ptag else none) with
  | none => .next s
  | some r =>
    let host := match ok, page with
      | true, some p => hostPut s.tsu.host p
      | _, _ => s.tsu.host
    let s := { s with tsu := { s.tsu with reqs := s.tsu.reqs.erase r, host := host } }
    if r.engine then
      let ans := fun (t : Tile) => { t with mve := t.mve.map (answerCmd r ok), cve := t.cve.map (answerCmd r ok) }
      .next { s with
        tiles := s.tiles.map fun x => (x.1, ans x.2)
        lds := { s.lds with parts := s.lds.parts.map fun x => (x.1, { x.2 with
          saved := x.2.saved.map fun sv => { sv with tiles := sv.tiles.map fun y => (y.1, ans y.2) } }) } }
    else .next (pageEvent s r (BitVec.ofNat 64 (r.tag.toNat * 2 ^ 48 + ok.toNat * 2 ^ 16 + ptag.toNat)))

/-- The PASID of a context (R397; context 0 as PASID 0, log 11). -/
def pasidOf (s : State) (ctx : CtxNum) : BitVec 20 := ((SMap.get? s.lds.ctxs ctx.toNat).map (·.pasid)).getD 0

/-- Entries that an invalidation leaves. -/
def keepXlat (s : State) (pasid : BitVec 20) (va len : Nat) (l : List Xlat) : List Xlat :=
  l.filter fun x => !(pasidOf s x.ctx == pasid && decide (x.va < va + len) && decide (va < x.va + 4096 * 2 ^ x.lg))

/-- Physical ranges of the entries of a list that an invalidation removes. -/
def goneXlat (f : List Xlat → List Xlat) (l : List Xlat) : List (Nat × Nat) :=
  (l.filter fun x => !(f l).contains x).map fun x => (x.pa, 4096 * 2 ^ x.lg)

/-- The physical range of a page of the host's that an invalidation covers: an access may have been translated by it. -/
def hostGone (pasid : BitVec 20) (va len : Nat) (h : HostPage) : Option (Nat × Nat) :=
  if h.pasid = pasid ∧ h.va.toNat < va + len ∧ va < h.va.toNat + 4096 * 2 ^ h.lg.toNat then some (h.pa.toNat, 4096 * 2 ^ h.lg.toNat) else none

/-- The commands of a tile, of whose pages the host takes back the physical ranges `rs` (R279). -/
def Tile.unmap (s : State) (near : List Xlat) (rs : List (Nat × Nat)) (t : Tile) : Tile :=
  { t with mve := t.mve.map (Cmd.unmap s near rs), cve := t.cve.map (Cmd.unmap s near rs) }

/-- ATS_INVALIDATION_REQUEST (R350, R352): every entry that overlaps leaves all three levels, and page results end. -/
def execAtsInvalidationRequest (pasid : BitVec 20) (va len : Word) (s : State) : Outcome State Fault Refusal :=
  if !hostUp s then .next s
  else
  let f := keepXlat s pasid va.toNat len.toNat
  let gone := (goneXlat f s.tsu.cache ++ s.tsu.host.filterMap (hostGone pasid va.toNat len.toNat) ++ goneXlat f s.core.utlb ++ s.others.flatMap (fun x => goneXlat f x.2.utlb) ++
    s.tiles.flatMap (fun x => goneXlat f x.2.tlb)).eraseDups
  .next { s with
    core := { s.core with utlb := f s.core.utlb }
    others := s.others.map fun x => (x.1, { x.2 with utlb := f x.2.utlb })
    tiles := s.tiles.map fun x => (x.1, { x.2.unmap s x.2.tlb gone with tlb := f x.2.tlb })
    lds := { s.lds with parts := s.lds.parts.map fun x => (x.1, { x.2 with
      saved := x.2.saved.map fun sv => { sv with tiles := sv.tiles.map fun y => (y.1, y.2.unmap s [] gone) } }) }
    tsu := { s.tsu with
      cache := f s.tsu.cache
      host := s.tsu.host.filter fun h => !(h.pasid == pasid && decide (h.va.toNat < va.toNat + len.toNat) && decide (va.toNat < h.va.toNat + 4096 * 2 ^ h.lg.toNat))
      hashed := s.tsu.hashed.filter fun h => !(pasidOf s h.1 == pasid && decide (h.2.1 < va.toNat + len.toNat) && decide (va.toNat < h.2.1 + 4096))
      inval := s.tsu.inval ++ [gone] } }

/-- A request on its way with an address of some ranges: a far atomic, a RED or a BIND. -/
def Packet.uses (rs : List (Nat × Nat)) (p : Packet) : Bool :=
  match p.body with
  | .far _ pa .. => inPieces rs pa
  | .red e _ _ => inPieces rs e.pa
  | .bindInv _ _ pages => pages.any fun q => inPieces rs q.1
  | _ => false

/-- Entries of a MERGE that has translated its range (R251). -/
def takenUses (s : State) (rs : List (Nat × Nat)) : Bool := s.taken.any fun x => x.2.any fun e => inPieces rs e.pa

/-- A STREL that waits with its translation made. -/
def Wait.uses (rs : List (Nat × Nat)) : Wait → Bool
  | .strel _ segs _ => segs.any fun q => inPieces rs q.1
  | _ => false

/-- Does an access that used an entry of some ranges remain to be performed (R350)? Every other access and every engine chunk is
performed in the step that translates, and an entry of a reduction log was performed with its append (log 63). -/
def stillUsed (s : State) (rs : List (Nat × Nat)) : Bool :=
  s.net.any (Packet.uses rs) || takenUses s rs || s.lds.parts.any (fun x => x.2.parked.any (Packet.uses rs)) ||
    (listedCores s).any fun k => (coreOf s k).task.wait.uses rs || (coreOf s k).hand.wait.uses rs

/-- ATS_INVALIDATION_COMPLETE (R350): one completion for each request, in their order. -/
def execAtsInvalidationComplete (s : State) : Outcome State Fault Refusal :=
  .next (match s.tsu.inval with
    | rs :: r => if stillUsed s rs || !hostUp s then s else { s with tsu := { s.tsu with inval := r }, hostOut := s.hostOut ++ [.invalDone] }
    | [] => s)

/-- PAGE_HASH_CHECK (R352). -/
def execPageHashCheck (ctx : CtxNum) (page : Word) (s : State) : Outcome State Fault Refusal :=
  let va := page.toNat / 4096 * 4096
  match translate s [] ctx va .x with
  | .ok pa => .next (noteHash s ctx va pa)
  | _ => .next s

/-! Records and notices. -/

/-- Bytes written by the base die into a context's memory (R399); nothing where a page is not writable. -/
def ldsWrite (s : State) (ctx : CtxNum) (va : Word) (bs : List Byte) : State :=
  match translate s [] ctx va.toNat .w with
  | .ok pa => writeHome s (colourHeld s ctx) pa bs
  | _ => s

/-- A root task's notice written to the page of its queue, while that is registered (R403). -/
def notePage (s : State) (q : Nat) (w : Word) : State :=
  match s.lds.queues.find? fun x => x.2.id == q with
  | none => s
  | some (i, u) =>
    let n := u.ncount + 1
    let s := { s with lds := { s.lds with queues := SMap.put s.lds.queues i { u with ncount := n } } }
    ldsWrite (ldsWrite s u.ctx (u.page + 0x90) (leBytes 8 w.toNat)) u.ctx (u.page + 0x98) (leBytes 8 n)

/-- A record gets its SEQ and goes to the ring; a root task's notice goes on to its queue (R346, R356, R403, R416). -/
def recvRec (s : State) (r : Rec) (rest : List Rec) : State :=
  let i := s.eva.seq
  let bs := r.bytes ++ leBytes 8 i.toNat
  let s := { s with eva := { s.eva with inbox := rest, seq := i + 1 } }
  let s := writeHome s none (ringAt s i.toNat) bs
  match s.lds.notices.find? fun n => n.2 == r.d1 && (fld r.d0 56 8 == 2 || fld r.d0 56 8 == 3) with
  | some n => notePage { s with lds := { s.lds with notices := s.lds.notices.erase n } } n.1 n.2
  | none => s

/-- The context that waits for the acknowledgement of a record (R420). -/
def asker (s : State) (r : Rec) : Option (CoreId × CtxKind) :=
  if r.asks then s.eva.asked.find? fun x => x.1.toNat == r.agent else none

/-- Is an accepted record still that of a context which waits with it, or whose instruction has yet to complete (R420)? -/
def grantStands (s : State) (g : ChunkGrant) : Bool := coreLive s g.core && ((coreOf s g.core).ctx g.ctx).chunkHeld

/-- Do two task contexts execute one instruction, as members of a gang or in forming one (R146, R174)? -/
def oneInstr (s : State) (a b : CoreId) : Bool :=
  match (coreOf s a).gang, (coreOf s b).gang with
  | some g, some g' => g.leader == g'.leader
  | none, none =>
    match (coreOf s a).task.wait, (coreOf s b).task.wait with
    | .gang n, .gang n' => n == n' && gangLeader a n == gangLeader b n
    | _, _ => false
  | _, _ => false

/-- May the EVA accept a record now: one at a time of those that it acknowledges, the next only when the instruction of the one before
has completed (R420)? The records of a gang's one instruction count as one (log 71). -/
def accepts (s : State) (r : Rec) : Bool :=
  match asker s r with
  | none => true
  | some (k, h) => (s.eva.grants.filter (grantStands s)).all fun g => h == .task && g.ctx == .task && oneInstr s k g.core

/-- A record received: one that asks is accepted under its SEQ (R356, R416, R420). -/
def receive (s : State) (r : Rec) (rest : List Rec) : State :=
  match asker s r with
  | none => recvRec s r rest
  | some (k, h) =>
    let i := s.eva.seq
    let s := recvRec s r rest
    { s with eva := { s.eva with
      asked := s.eva.asked.erase (k, h)
      grants := (s.eva.grants.filter fun g => grantStands s g && !(g.core == k && g.ctx == h)) ++ [⟨k, h, i, false⟩] } }

/-- RECORD_RECEIVE (R356, R416, R420): the oldest record that the EVA may accept. -/
def execRecordReceive (s : State) : Outcome State Fault Refusal :=
  match takeFirst (accepts s) s.eva.inbox with
  | some (r, rest) => .next (receive s r rest)
  | none => .next s

/-- A notice whose record the EVA has received (R346). -/
def noticeReady (s : State) (w : Word) : Bool :=
  !s.eva.inbox.any fun r => r.d1 == w && (fld r.d0 56 8 == 2 || fld r.d0 56 8 == 3)

/-- NOTICE_ARRIVAL (R336, R346). -/
def execNoticeArrival (k : CoreId) (s : State) : Outcome State Fault Refusal :=
  match pick s (fun p => p.dst == k && (match p.body with
      | .notice w => noticeReady s w
      | _ => false)) with
  | some (⟨_, _, _, _, .notice w⟩, s) => .next (pushEvent s k 0x16 w)
  | _ => .next s

/-! The link (R357). -/

/-- LINK_FLIT_ERROR (R357): the flit is replayed; what it carries neither is lost nor comes twice (log 66). -/
def execLinkFlitError (_ _ : CoreId) (s : State) : Outcome State Fault Refusal :=
  .next s

/-- A transaction of `src` with `dst`, or with a home slice when they are one, whose result is on its way and is lost: the requester sends
the atomic again under its tag (R246, R357). -/
def reissued (src dst : CoreId) (p : Packet) : Packet :=
  if p.dst ≠ src ∨ p.src ≠ dst then p
  else match p.body with
    | .atomicReply h t bs => ⟨src, dst, p.tag, p.ctx, .again h t bs.length false⟩
    | .farReply h t bs => ⟨src, dst, p.tag, p.ctx, .again h t bs.length true⟩
    | _ => p

/-- LINK_LOSS (R246, R357): the transactions of the window are reissued under their tags. Those not yet applied stay in flight; an atomic
that has been applied comes again, and is answered from its record. The loss is recorded by the router of the sender's supergroup (log 66). -/
def execLinkLoss (src dst : CoreId) (s : State) : Outcome State Fault Refusal :=
  .next (sendRec { s with net := s.net.map (reissued src dst) } (mkRec 6 1 0 0xffff (2 * 1024 + sgOf src) 0 0))

end Sys2Proof.Machine
end

