-- ==== Sys2Proof/Machine/Dispatcher.lean ====
section
/-!
DEFINITION. The mailbox and the launch dispatcher: registration (R394 to R398), user queues (R399 to R402), placement
and its ends (R403 to R406).
-/
namespace Sys2Proof.Machine

open Host (Outcome)

/-! The mailbox (R394). -/

/-- The result of a command: RES, and A0 and A1 where they are given. -/
def mbEnd (s : State) (res : BitVec 8) (as : List Word) : State :=
  { s with lds := { s.lds with mbRes := res, mbA := ((upto as.length).zip as).foldl (fun v p => vset v p.1 p.2) s.lds.mbA } }

/-- A write of OP, with its operands written before, starts a command while the dispatcher is enabled and BUSY is 0 (R394, R430 step 7).
A command is one step, at the end of which BUSY is 0 again (log 53). -/
def mailbox (s : State) (op : BitVec 8) (args : List Word) (f : State → State) : Outcome State Fault Refusal :=
  .next (if hostUp s && s.lds.enabled && !s.lds.mbBusy then
    f (mbEnd { s with lds := { s.lds with mbOp := op } } s.lds.mbRes args)
  else s)

/-- A context descriptor (R397). -/
def descOf (ws : List Word) : CtxDesc where
  pasid := BitVec.ofNat 20 (fld (dwordOf ws 0) 0 20)
  walk := BitVec.ofNat 2 (fld (dwordOf ws 0) 20 2)
  root := fld (dwordOf ws 1) 12 44
  switch := dwordOf ws 2
  spill := dwordOf ws 3
  spsize := fld (dwordOf ws 4) 0 32
  vbase := dwordOf ws 5
  colour := none

/-- REGCTX (R394, R397). -/
def execRegctx (a0 : Word) (s : State) : Outcome State Fault Refusal :=
  mailbox s 1 [a0] fun s =>
    let d := descOf (blkWords (Mem.read s.pmem a0.toNat 64))
    if a0.toNat % 64 ≠ 0 ∨ d.walk = 3 then mbEnd s 2 []
    else
      match lowestFree (fun n => (SMap.get? s.lds.ctxs n).isSome) 1 1024 with
      | none => mbEnd s 1 []
      | some n => mbEnd (modLds s fun l => { l with ctxs := SMap.put l.ctxs n d }) 0 [BitVec.ofNat 64 n]

/-- UNREG (R394). -/
def execUnreg (a0 : Word) (s : State) : Outcome State Fault Refusal :=
  mailbox s 2 [a0] fun s =>
    if a0 = 0 then mbEnd s 2 []
    else if (SMap.get? s.lds.ctxs a0.toNat).isNone then mbEnd s 3 []
    else mbEnd (unregCtx s (BitVec.ofNat 10 a0.toNat)) 0 []

/-- n bytes of a context's memory, none when a page is not readable. -/
def ldsRead (s : State) (ctx : CtxNum) (va : Word) (n : Nat) : Option (List Byte) :=
  match xlatGo s [] ctx .r (n / 4096 + 2) va.toNat n with
  | .ok segs => some (readSegs s.pmem segs)
  | .error _ => none

/-- Consecutive pieces of n bytes. -/
def piecesOf (n : Nat) : Nat → List Byte → List (List Byte)
  | 0, _ => []
  | k + 1, bs => bs.take n :: piecesOf n k (bs.drop n)

/-- A handler record (R396), none when it breaks the layout. -/
def handlerOf (bs : List Byte) : Option HEntry :=
  let ws := blkWords bs
  let budget := fld (dwordOf ws 1) 0 16
  let rs := (upto 4).map fun i =>
    let w := dwordOf ws (2 + i)
    (⟨fld w 0 16, fld w 16 16, bit w 32⟩ : Region)
  let bad := (budget != 0 && decide (budget < 64)) || rs.any fun r =>
    r.base % 64 != 0 || r.len % 64 != 0 || (r.len != 0 && decide (0xc000 < r.base + r.len))
  if bad then none else some ⟨setBit (dwordOf ws 0) 0 false, budget, none, rs⟩

/-- Does every element answer? -/
def allSome {α β : Type} (f : α → Option β) : List α → Option (List β)
  | [] => some []
  | a :: r =>
    match f a, allSome f r with
    | some b, some bs => some (b :: bs)
    | _, _ => none

/-- The folio that a manifest describes, none when a check of R395 fails. -/
def folioOf (s : State) (ctx : CtxNum) (handle : BitVec 16) (va : Word) : Option Folio :=
  match ldsRead s ctx va 64 with
  | none => none
  | some hd =>
    let ws := blkWords hd
    let mark := fld (dwordOf ws 0) 0 16
    let mver := fld (dwordOf ws 0) 16 16
    let gbase := dwordOf ws 2 &&& 0xfffffffffffff000
    let npage := fld (dwordOf ws 3) 0 32
    let nent := fld (dwordOf ws 3) 32 8
    let nhnd := fld (dwordOf ws 3) 40 5
    let ohash := fld (dwordOf ws 4) 0 32
    let oent := fld (dwordOf ws 5) 0 32
    let ohnd := fld (dwordOf ws 6) 0 32
    if va.toNat % 64 ≠ 0 ∨ mark ≠ 0x6f66 ∨ mver ≠ 1 ∨ ohash % 64 ≠ 0 ∨ oent % 8 ≠ 0 ∨ ohnd % 64 ≠ 0 ∨
        npage = 0 ∨ nent = 0 ∨ 16 < nhnd then none
    else
      match ldsRead s ctx (va + BitVec.ofNat 64 ohash) (64 * npage), ldsRead s ctx (va + BitVec.ofNat 64 oent) (8 * nent),
          ldsRead s ctx (va + BitVec.ofNat 64 ohnd) (64 * nhnd) with
      | some hs, some es, some ns =>
        let entries := (piecesOf 8 nent es).map fun b => BitVec.ofNat 64 (ofLe b)
        if entries.any fun e => !(decide (gbase.toNat ≤ e.toNat) && decide (e.toNat < gbase.toNat + 4096 * npage)) then none
        else
          (allSome handlerOf (piecesOf 64 nhnd ns)).map fun hn =>
            ⟨ctx, handle, gbase, (piecesOf 64 npage hs).map imageOf, entries, hn⟩
      | _, _, _ => none

/-- REGFOLIO (R394 to R396). -/
def execRegfolio (a0 a1 : Word) (s : State) : Outcome State Fault Refusal :=
  mailbox s 3 [a0, a1] fun s =>
    let ctx : CtxNum := BitVec.ofNat 10 a0.toNat
    if 1024 ≤ a0.toNat ∨ (SMap.get? s.lds.ctxs a0.toNat).isNone then mbEnd s 3 []
    else
      match lowestFree (fun n => s.lds.folios.any fun f => f.handle.toNat == n) 0 65536 with
      | none => mbEnd s 1 []
      | some h =>
        match folioOf s ctx (BitVec.ofNat 16 h) a1 with
        | none => mbEnd s 2 []
        | some f => mbEnd (modLds s fun l => { l with folios := l.folios ++ [f] }) 0 [BitVec.ofNat 64 h]

/-! Reservations (R225, R398, R406). -/

def ctlClass (w : Word) : Nat := fld w 0 2
def ctlSlice (w : Word) : Nat := fld w 6 24
def ctlRect (w : Word) : Rect := ⟨fld w 36 4, fld w 40 4, fld w 44 4 + 1, fld w 48 4 + 1⟩
def ctlRows (w : Word) : Nat := fld w 52 8
def ctlWays (w : Word) : Nat := fld w 60 4

def Rect.inGrid (r : Rect) : Bool := decide (r.tx0 + r.w ≤ 16) && decide (r.ty0 + r.h ≤ 16)
/-- The context whose state a tile holds. -/
def tileCtx (s : State) (t : TileId) : Option CtxNum := (heldPart s t).map fun x => x.2.ctx

/-- Rows pinned to the slices of a die by moves (R223, R398). -/
def pinRows (s : State) (die : Nat) (rows : List Nat) : State :=
  rows.foldl (fun s r => (upto 32).foldl (fun s i => pinBucket s (32 * r + i) (32 * die + i)) s) s

/-- The ways per slice of a die that a context's reservations give its colour: those of the last one there (R398). -/
def waysOf (s : State) (ctx : CtxNum) (die : Nat) : Nat :=
  (((s.lds.resvs.filter fun r => r.ctx == ctx && r.rect.ty0 / 8 == die).getLast?).map (·.ways)).getD 0

/-- Ways per slice of a die that other contexts have reserved. -/
def waysTaken (s : State) (ctx : CtxNum) (die : Nat) : Nat :=
  ((((s.lds.resvs.map (·.ctx)).eraseDups.filter (· != ctx))).map fun c => waysOf s c die).sum

/-- A bitmap of rows: 0 to 63, and 64 to 127. -/
def rowMaps (rows : List Nat) : List Word :=
  [rows.foldl (fun m r => if r < 64 then setBit m r true else m) 0, rows.foldl (fun m r => if 64 ≤ r then setBit m (r - 64) true else m) 0]

/-- A real-time reservation made, or that of the same context and rectangle shared (R398). -/
def reserve (s : State) (ctx : CtxNum) (ctl : Word) : Option (List Nat × State) :=
  let r := ctlRect ctl
  match s.lds.resvs.find? fun x => x.ctx == ctx && x.rect == r with
  | some x => some (x.rows, s)
  | none =>
    let rows := ((upto 128).filter fun i => !s.lds.resvs.any fun x => x.rows.contains i).take (ctlRows ctl)
    if s.lds.resvs.any (fun x => x.ctx != ctx && x.rect.overlaps r) || r.tiles.any (fun t => match tileCtx s t with
        | some c => c != ctx
        | none => false) || decide (rows.length < ctlRows ctl) || decide (16 < waysTaken s ctx (r.ty0 / 8) + ctlWays ctl) then none
    else
      let s := modLds s fun l => { l with resvs := l.resvs ++ [⟨ctx, r, rows, ctlWays ctl⟩] }
      some (rows, setWays (pinRows s (r.ty0 / 8) rows) ctx)

/-- The page of a queue is mapped readable and writable. -/
def pageUsable (s : State) (ctx : CtxNum) (va : Word) : Bool :=
  match translate s [] ctx va.toNat .rw with
  | .ok _ => true
  | _ => false

def newQueue (id : Nat) (ctx : CtxNum) (page ctl : Word) : UQueue := ⟨id, ctx, page, ctl, 0, 0, 0, 0, false, none, none, [], 0⟩

/-- The LDS takes a token of a line for a queue of a context, as a reader does (R220, R401). -/
def ldsTouch (s : State) (ctx : CtxNum) (q l : Nat) : State :=
  let t := hostRead (drainLine (dscRoom (countReq s l) (colourHeld s ctx) l) l) l false
  let x := (lineOf t l).takeOne (ldsReq q)
  setLine t l (x.give (ldsReq q) x.dataOf).trim

/-- The LDS reads TAIL of a queue, and then holds a token of its line (R401). -/
def takeTail (s : State) (q : Nat) (u : UQueue) : State × UQueue :=
  match translate s [] u.ctx u.page.toNat .r with
  | .ok pa => (ldsTouch s u.ctx q (pa / 128), { u with tailLine := some (pa / 128) })
  | _ => (s, u)

/-- A queue registered, in the place it had or in the lowest free one; its page begins with four zeros (R399), and the LDS takes
its token of the line of TAIL (R401). -/
def putQueueReg (s : State) (ctx : CtxNum) (page ctl : Word) : State :=
  let (i, id) := match s.lds.queues.find? fun x => x.2.ctx == ctx && x.2.page == page with
    | some x => (x.1, x.2.id)
    | none => ((lowestFree (fun n => (SMap.get? s.lds.queues n).isSome) 0 (s.lds.queues.length + 1)).getD 0, s.lds.nextQ)
  let (s, u) := takeTail s i (newQueue id ctx page ctl)
  let s := modLds s fun l => { l with queues := SMap.put l.queues i u, nextQ := max l.nextQ (id + 1) }
  ldsWrite s ctx (page + 0x80) (List.replicate 32 0)

/-- REGQUEUE (R394, R398, R399). -/
def execRegqueue (a0 a1 a2 : Word) (s : State) : Outcome State Fault Refusal :=
  mailbox s 4 [a0, a1, a2] fun s =>
    let ctx : CtxNum := BitVec.ofNat 10 a0.toNat
    let rt := decide (ctlClass a2 < 2)
    let slice := ctlSlice a2
    if 1024 ≤ a0.toNat ∨ (SMap.get? s.lds.ctxs a0.toNat).isNone then mbEnd s 3 []
    else if a1.toNat % 4096 ≠ 0 ∨ !pageUsable s ctx a1 ∨ (slice ≠ 0 ∧ (slice < 8000 ∨ 8000000 < slice)) then mbEnd s 2 []
    else if rt && (ctlWays a2 == 0 || decide (127 < ctlRows a2) || !(ctlRect a2).inGrid) then mbEnd s 2 []
    else if rt then
      match reserve s ctx a2 with
      | none => mbEnd s 1 []
      | some (rows, s) => mbEnd (putQueueReg s ctx a1 a2) 0 (rowMaps rows)
    else mbEnd (putQueueReg s ctx a1 a2) 0 [0, 0]

/-- UNREGQUEUE (R394). -/
def execUnregqueue (a0 a1 : Word) (s : State) : Outcome State Fault Refusal :=
  mailbox s 5 [a0, a1] fun s =>
    match s.lds.queues.find? fun x => x.2.ctx.toNat == a0.toNat && x.2.page == a1 with
    | none => mbEnd s 3 []
    | some x => mbEnd (modLds (dropTail s x.1 x.2) fun l => { l with
        queues := SMap.del l.queues x.1, notices := l.notices.filter fun n => n.1 != x.2.id }) 0 []

/-- A core released at its TVEC (R26, R432). -/
def releaseCore (s : State) (k : CoreId) : State :=
  modCore s k fun c => if c.released then c else { c with
    released := true
    task := { c.task with pc := c.tvec, status := mkStatus true c.task.pie c.task.ie c.task.pprv true, cause := 0 } }

/-- READMIT (R368, R394, R432). -/
def execReadmit (a0 : Word) (s : State) : Outcome State Fault Refusal :=
  mailbox s 6 [a0] fun s =>
    let t : TileId := BitVec.ofNat 8 a0.toNat
    if 256 ≤ a0.toNat then mbEnd s 2 []
    else if (keeperOf s t).state ≠ .admitting then mbEnd s 4 []
    else mbEnd ((coresOfTile t).foldl releaseCore (modKeeper s t fun kp => { kp with state := .lit })) 0 []

/-- SETOWN (R393, R394). -/
def execSetown (a0 a1 a2 : Word) (s : State) : Outcome State Fault Refusal :=
  mailbox s 7 [a0, a1, a2] fun s =>
    let ctx : CtxNum := BitVec.ofNat 10 a0.toNat
    if a0 ≠ 0 ∧ (1024 ≤ a0.toNat ∨ (SMap.get? s.lds.ctxs a0.toNat).isNone) then mbEnd s 3 []
    else if a1.toNat % 4096 ≠ 0 ∨ a1.toNat < s.mgmt.hdmBase ∨ s.mgmt.hdmBase + hdmSize s < a1.toNat + 4096 * a2.toNat then mbEnd s 2 []
    else mbEnd ((upto a2.toNat).foldl (fun s i => giveFrame s (a1.toNat / 4096 + i) ctx) s) 0 []

/-! User queues (R399 to R402). -/

def modQueue (s : State) (q : Nat) (u : UQueue) : State := modLds s fun l => { l with queues := SMap.put l.queues q u }

/-- A host write takes every token of the line and both copies of the half; the half goes to the host where it is dirty (R227, R229). -/
def hostStore (s : State) (pa : Nat) (bs : List Byte) : State :=
  let s := backHalf (recallLine s (pa / 128)) (pa / 128) (pa / 64 % 2 == 1)
  let s := setLine s (pa / 128) ((lineOf s (pa / 128)).setHalf (pa / 64 % 2 == 1) .i)
  writePa s pa bs

/-- DOORBELL (R401): the host stores TAIL, and with it takes the dispatcher's token of the line. -/
def execDoorbell (q : Nat) (tail : Word) (s : State) : Outcome State Fault Refusal :=
  match (if hostUp s then SMap.get? s.lds.queues q else none) with
  | none => .next s
  | some u =>
    match translate s [] u.ctx u.page.toNat .r with
    | .ok pa => .next (hostStore s pa (leBytes 8 tail.toNat))
    | _ => .next s

/-- QERR with one more error (R399, R402). -/
def qerrOf (old : Word) (code index : Nat) : Word :=
  BitVec.ofNat 64 (index % 2 ^ 32 * 2 ^ 32 + code * 2 ^ 24 + (fld old 0 16 + 1) % 2 ^ 16)

/-- HEAD and QERR written to the page. -/
def writeHead (s : State) (u : UQueue) : State :=
  ldsWrite (ldsWrite s u.ctx (u.page + 0x80) (leBytes 8 u.head)) u.ctx (u.page + 0x88) (leBytes 8 u.qerr.toNat)

/-- How far a number of records lies ahead of HEAD. -/
def UQueue.ahead (u : UQueue) (n : Nat) : Nat := (n + 2 ^ 64 - u.head) % 2 ^ 64

/-- TAIL read as t: the records up to it have come, those that an earlier read had not shown at this ck (R404; log 32). -/
def UQueue.sawTail (u : UQueue) (t ck : Nat) : UQueue :=
  let first := ((u.arrivals.find? fun m => decide (u.ahead t ≤ u.ahead m.1)).map (·.2)).getD ck
  { u with
    tail := t
    arrivals := (u.arrivals.filter fun m => decide (u.ahead m.1 < u.ahead t)) ++ if u.ahead t = 0 then [] else [(t, first)] }

/-- TAIL_READ (R401, R402): the LDS reads TAIL with a token of its line, which it takes again when it has lost it; a TAIL more than 60
above HEAD stops the queue with code 7. -/
def execTailRead (q : Nat) (s : State) : Outcome State Fault Refusal :=
  match SMap.get? s.lds.queues q with
  | none => .next s
  | some u =>
    match u.stopped, ldsRead s u.ctx u.page 8 with
    | false, some bs =>
      let t := ofLe bs
      let (s, u) := if hasTailToken s q u then (s, u) else takeTail s q u
      .next (if 60 < u.ahead t then
        let u := { u with stopped := true, qerr := qerrOf u.qerr 7 u.head }
        writeHead (modQueue s q u) u
      else modQueue s q (u.sawTail t s.ck))
    | _, _ => .next s

/-- The fields of a launch record (R400). -/
def recW (r : List Word) : Nat := fld (dwordOf r 4) 0 4 + 1
def recH (r : List Word) : Nat := fld (dwordOf r 4) 4 4 + 1
def recFix (r : List Word) : Bool := bit (dwordOf r 4) 8
def recOrigin (r : List Word) : Nat × Nat := (fld (dwordOf r 4) 12 4, fld (dwordOf r 4) 16 4)
def recMode (r : List Word) : Nat := fld (dwordOf r 4) 20 2
def recTcore (r : List Word) : Nat := fld (dwordOf r 4) 22 2
def recRoot (r : List Word) : Nat × Nat := (fld (dwordOf r 4) 24 4, fld (dwordOf r 4) 28 4)
def recFolio (r : List Word) : Nat := fld (dwordOf r 4) 32 16
def recEntry (r : List Word) : Word := setBit (dwordOf r 0) 0 false

def folioFor (s : State) (u : UQueue) (r : List Word) : Option Folio :=
  s.lds.folios.find? fun f => f.ctx == u.ctx && f.handle.toNat == recFolio r

def resvOf (s : State) (u : UQueue) : Option Reservation :=
  s.lds.resvs.find? fun x => x.ctx == u.ctx && x.rect == ctlRect u.ctl

def isRt (u : UQueue) : Bool := decide (ctlClass u.ctl < 2)

/-- The rectangles of a shape, ordered by row, then column. -/
def rectsOf (w h : Nat) : List Rect :=
  ((upto 16).flatMap fun y => (upto 16).map fun x => (⟨x, y, w, h⟩ : Rect)).filter Rect.inGrid

/-- A rectangle within its class's tiles (R404). -/
def inClass (s : State) (u : UQueue) (r : Rect) : Bool :=
  if isRt u then
    match resvOf s u with
    | some x => decide (x.rect.tx0 ≤ r.tx0) && decide (r.tx0 + r.w ≤ x.rect.tx0 + x.rect.w) &&
        decide (x.rect.ty0 ≤ r.ty0) && decide (r.ty0 + r.h ≤ x.rect.ty0 + x.rect.h)
    | none => false
  else !s.lds.resvs.any fun x => x.rect.overlaps r

/-- The rectangle of a record with FIX = 1, which real-time classes ignore (R400). -/
def fixedRect (u : UQueue) (r : List Word) : Option Rect :=
  if recFix r && !isRt u then some ⟨(recOrigin r).1, (recOrigin r).2, recW r, recH r⟩ else none

/-- The rectangles of its shape within its class's tiles that a launch may take: its own when FIX holds (R405). -/
def rectsFor (s : State) (u : UQueue) (r : List Word) : List Rect :=
  (match fixedRect u r with
    | some own => [own].filter Rect.inGrid
    | none => rectsOf (recW r) (recH r)).filter (inClass s u)

/-- Check 5 of R402: W × H fits nowhere in the class's tiles, or the fixed rectangle lies beyond the grid. -/
def noPlace (s : State) (u : UQueue) (r : List Word) : Bool :=
  !(rectsOf (recW r) (recH r)).any (inClass s u) || (match fixedRect u r with
    | some own => !own.inGrid
    | none => false)

/-- The code of the first check of R402 that a record fails, 0 for none. -/
def recCheck (s : State) (u : UQueue) (r : List Word) : Nat :=
  match folioFor s u r with
  | none => 1
  | some f =>
    if !f.entries.any (fun e => setBit e 0 false == recEntry r) then 2
    else if 64 < widthSum (dwordOf r 2) 6 then 3
    else if recMode r = 3 ∨ (recMode r = 1 ∧ (recW r ≤ (recRoot r).1 ∨ recH r ≤ (recRoot r).2)) then 4
    else if noPlace s u r then 5
    else if isRt u && (ctlRect u.ctl).tiles.any (fun t => !isLit s t) then 6
    else 0

/-! Placement (R403, R405). -/

/-- Window 0 as a record gives it (R206, R400): a rectangle whose last column and row lie before its first admits no requester. -/
def rectWord (x0 y0 x1 y1 : Nat) : Word := BitVec.ofNat 64 (y1 * 2 ^ 15 + x1 * 2 ^ 10 + y0 * 2 ^ 5 + x0)

def window0 (r : List Word) (p : Rect) (k : CoreId) : Window :=
  let w := dwordOf r 6
  let rect := match fld w 36 2 with
      | 0 => rectWord 31 31 0 0
      | 1 => rectWord (coreX k / 2 * 2) (coreY k / 2 * 2) (coreX k / 2 * 2 + 1) (coreY k / 2 * 2 + 1)
      | 2 => rectWord (coreX k / 4 * 4) (coreY k / 4 * 4) (coreX k / 4 * 4 + 3) (coreY k / 4 * 4 + 3)
      | _ => rectWord (2 * p.tx0) (2 * p.ty0) (2 * (p.tx0 + p.w) - 1) (2 * (p.ty0 + p.h) - 1)
  ⟨BitVec.ofNat 64 (fld w 0 10 * 64), BitVec.ofNat 64 (min (fld w 16 10) 0x300 * 64), BitVec.ofNat 64 (fld w 32 3), rect⟩

/-- The handler table of a folio (R155, R396). -/
def handlerTable (f : Folio) : Vector (Option HEntry) 16 :=
  ((upto 16).zip f.handlers).foldl (fun v p => vset v p.1 (some p.2)) (Vector.replicate 16 none)

/-- Steps 2 and 3 of R403 on a core. -/
def configCore (r : List Word) (p : Rect) (d : CtxDesc) (ctx : CtxNum) (f : Folio) (k : CoreId) (c : Core) : Core :=
  { c with
    ctxnum := ctx
    wins := #v[window0 r p k, Window.reset, Window.reset, Window.reset]
    vsave := (d.vbase + BitVec.ofNat 64 (147456 * k.toNat)) &&& 0xfffffffffffff000
    handlers := handlerTable f
    slotCnt := Vector.replicate 64 4 }

/-- The cores that receive a task, with p of R400. -/
def launchCores (r : List Word) (p : Rect) : List (CoreId × Nat) :=
  let cs := (upto (2 * p.h)).flatMap fun y => (upto (2 * p.w)).map fun x => (coreAt (2 * p.tx0 + x) (2 * p.ty0 + y), y * (2 * p.w) + x)
  match recMode r with
  | 0 => cs
  | 1 => [(coreOfTile (tileAt (p.tx0 + (recRoot r).1) (p.ty0 + (recRoot r).2)) (recTcore r), 0)]
  | _ => (cs.filter fun x => tcore x.1 == recTcore r).map fun x =>
      (x.1, (coreY x.1 / 2 - p.ty0) * p.w + (coreX x.1 / 2 - p.tx0))

/-- One launch message of the LDS (R403 step 4); its packet bears STAG 0xffff. -/
def launchMsg (s : State) (q : Nat) (ctx : CtxNum) (r : List Word) (x : CoreId × Nat) : State :=
  let l : LaunchMsg := ⟨recEntry r, dwordOf r 1 + BitVec.ofNat 64 x.2, BitVec.ofNat 64 (fld (dwordOf r 2) 0 42),
    BitVec.ofNat 2 (fld (dwordOf r 2) 48 2), 0xffff, dwordOf r 3, ctx, some q⟩
  sendPkt s ⟨x.1, x.1, 0xffff, ctx, .launch l⟩

/-- Does a tile hold what another context, or one whose registration has ended, left there? A launch then finds it as steps 5 and 6 of R353
leave it for a fresh context (R8, R403; log 31). -/
def mustFreshen (s : State) (ctx : CtxNum) (t : TileId) : Bool :=
  (tileOf s t).held || (tileOf s t).stale || (tileCtx s t).any (· != ctx)

/-- Is every tile of a rectangle free (R405)? -/
def rectFree (s : State) (r : Rect) : Bool := r.tiles.all (tileFree s)

/-- A launch placed on a rectangle (R353 steps 5 and 6, R403). What an ended launch of the same context left in its tiles, queue entries and
link words too, stays (R136; log 60). -/
def placeOn (s : State) (q : Nat) (u : UQueue) (r : List Word) (f : Folio) (d : CtxDesc) (p : Rect) : Option State :=
  let new := p.tiles.filter (mustFreshen s u.ctx)
  let s := dropEnded s p
  match giveColour s u.ctx with
  | none => none
  | some (_, s) =>
    let s := setWays s u.ctx
    let i := (lowestFree (fun n => (SMap.get? s.lds.parts n).isSome) 0 (s.lds.parts.length + 1)).getD 0
    let slice := if ctlSlice u.ctl = 0 then 80000 else ctlSlice u.ctl
    let part : Part := ⟨u.ctx, p, BitVec.ofNat 2 (ctlClass u.ctl), s.ck, slice, false, false, false,
      BitVec.ofNat 12 (fld (dwordOf r 7) 0 12), bit (dwordOf r 7) 12, 0, none, []⟩
    let s := putPart s i part
    let qmap : Word := if bit (dwordOf r 5) 63 then BitVec.ofNat 64 (fld (dwordOf r 5) 0 40) else 0x000000e4dcb74321
    let s := p.tiles.foldl (fun s t =>
      let s := if new.contains t then freshTile s t u.ctx else s
      let s := putQmap (modTile s t fun x => { x with holder := some i, held := false, stale := false, part := some p }) t qmap
      (coresOfTile t).foldl (fun s k => modCore s k (configCore r p d u.ctx f k)) s) s
    let s := (launchCores r p).foldl (fun s x => launchMsg s u.id u.ctx r x) s
    some (modQueue s q { u with pending := none })

/-- What waits at the head of a queue, placed; none while it finds no free rectangle or no colour (R405, R406). -/
def launchAt (s : State) (q : Nat) (u : UQueue) : Option State :=
  match u.pending with
  | none => none
  | some r =>
    match folioFor s u r, SMap.get? s.lds.ctxs u.ctx.toNat, (rectsFor s u r).find? (rectFree s) with
    | some f, some d, some p => placeOn s q u r f d p
    | _, _, _ => none

/-! The two lanes (R404). -/

/-- The record at HEAD of a queue, where there is one to take. -/
def nextRecord (s : State) (u : UQueue) : Option (List Byte) :=
  if u.stopped || u.pending.isSome || u.head == u.tail then none
  else ldsRead s u.ctx (u.page + BitVec.ofNat 64 (0x100 + 64 * (u.head % 60))) 64

/-- The ck at which the record at HEAD came. -/
def UQueue.headArrived (u : UQueue) : Nat := (u.arrivals.head?.map (·.2)).getD 0

/-- Does a record of `a` that came at ck ta go before one of `b` that came at ck tb, in one lane: the lower class first, in the
shared lane then the earlier? -/
def laneBefore (a b : UQueue) (ta tb : Nat) : Bool :=
  isRt a == isRt b &&
  (decide (ctlClass a.ctl < ctlClass b.ctl) || (ctlClass a.ctl == ctlClass b.ctl && !isRt a && decide (ta < tb)))

/-- A lane reads one record at a time: no launch of it can be placed, and no record that goes before is there (R404, R405; log 32). -/
def mayTake (s : State) (u : UQueue) : Bool :=
  s.lds.queues.all fun x =>
    !(isRt x.2 == isRt u && (launchAt s x.1 x.2).isSome) &&
    !((nextRecord s x.2).isSome && laneBefore x.2 u x.2.headArrived u.headArrived)

/-- No launch that goes before could be placed. -/
def mayPlace (s : State) (u : UQueue) : Bool :=
  s.lds.queues.all fun x => !((launchAt s x.1 x.2).isSome && laneBefore x.2 u x.2.arrived u.arrived)

/-- RECORD_TAKE (R402, R404): the record at HEAD, when it is its lane's turn. -/
def execRecordTake (q : Nat) (s : State) : Outcome State Fault Refusal :=
  match SMap.get? s.lds.queues q with
  | none => .next s
  | some u =>
    match nextRecord s u, mayTake s u with
    | some bs, true =>
      let r := blkWords bs
      let code := recCheck s u r
      let head := (u.head + 1) % 2 ^ 64
      let u' : UQueue := { u with
        head := head
        qerr := if code = 0 then u.qerr else qerrOf u.qerr code u.head
        pending := if code = 0 then some r else none
        arrived := u.headArrived
        arrivals := u.arrivals.filter fun m => m.1 != head }
      .next (writeHead (modQueue s q u') u')
    | _, _ => .next s

/-- LAUNCH_PLACEMENT (R403 to R406): the first free rectangle in order; without one, or without a colour, the launch
goes on waiting at the head of its queue. -/
def execLaunchPlacement (q : Nat) (s : State) : Outcome State Fault Refusal :=
  match SMap.get? s.lds.queues q with
  | none => .next s
  | some u => .next (if mayPlace s u then (launchAt s q u).getD s else s)

/-! Which partitions are switched out (R404, R405). -/

/-- A launch of class `cls` may have this partition switched out: it is not real-time, and its slice has ended, or it is Bulk and past its
pre-emption point and the launch Interactive (R404). One that has ended, or leaves already, is in no launch's way. -/
def Part.givesWay (p : Part) (cls : Nat) : Bool :=
  p.ended || (decide (1 ≤ p.step) && decide (p.step ≤ 4)) ||
    (p.step == 0 && decide (2 ≤ p.cls.toNat) && (p.expired || (p.preempt && cls == 2)))

/-- Does every partition that holds one of these tiles give way to a class? -/
def tilesGive (s : State) (cls : Nat) (ts : List TileId) : Bool :=
  ts.all fun t => isLit s t && (match heldPart s t with
    | none => true
    | some (_, p) => p.givesWay cls)

/-- The rectangle that an Interactive or Bulk launch without a free one takes: the lowest whose every holder gives way (R405 step 3). -/
def wantedBy (s : State) (u : UQueue) : List TileId :=
  match u.pending with
  | none => []
  | some r =>
    let rs := rectsFor s u r
    if isRt u || rs.any (rectFree s) then [] else ((rs.find? fun p => tilesGive s (ctlClass u.ctl) p.tiles).map Rect.tiles).getD []

/-- The tiles that a partition switched out waits for, as a launch with FIX = 1 does (R405). -/
def wantedBack (s : State) (p : Part) : List TileId :=
  match p.saved with
  | none => []
  | some sv =>
    let ts := backTiles s p sv
    if p.step == 4 && !ts.all (tileFree s) && stillInClass s p ts && tilesGive s p.cls.toNat ts then ts else []

/-- Must partition i make room (log 25), for a launch, for a partition that comes back, or for the reset of a tile (R431)? -/
def mustLeave (s : State) (i : Nat) : Bool :=
  let mine := fun (ts : List TileId) => ts.any fun t => (tileOf s t).holder == some i
  mine (s.mgmt.wanted.map (BitVec.ofNat 8)) || (s.lds.queues.any fun x => mine (wantedBy s x.2)) || s.lds.parts.any fun x => mine (wantedBack s x.2)

/-- SWITCH_HOLD (R353 step 1, R404, R405): a partition whose slice has ended is switched out as a whole when its tiles are wanted, a
real-time one never, and a launch that has ended needs no switch. -/
def execSwitchHold (t : TileId) (s : State) : Outcome State Fault Refusal :=
  match heldPart s t with
  | none => .next s
  | some (i, p) =>
    .next (if p.step = 0 && (p.expired || p.preempt) && !p.ended && decide (2 ≤ p.cls.toNat) && mustLeave s i then
      (liveTiles s i p).foldl (fun s t => modTile s t fun x => { x with held := true }) (putPart s i { p with step := 1 })
    else s)

/-- A launch has ended: every slot FREE and its purge done, nothing on its way to the cores, every engine idle (R345, R403). -/
def launchEnded (s : State) (p : Part) : Bool :=
  let ks := tileCores p.rect.tiles
  let engines := p.rect.tiles.all fun t =>
    let x := tileOf s t
    x.mve.isEmpty && x.cve.isEmpty && x.mte.queue.isEmpty && x.mte.run.isNone && x.mte.wb.isEmpty
  engines && ks.all (fun k => (coreOf s k).launchQ.isEmpty && (coreOf s k).slots.toList.all fun x => x.st == .free && !x.purging) &&
  !s.net.any fun x => (match x.body with
    | .launch _ => ks.contains x.dst
    | _ => false)

/-- LAUNCH_END_SAMPLE (R403). -/
def execLaunchEndSample (s : State) : Outcome State Fault Refusal :=
  .next (modLds s fun l => { l with parts := l.parts.map fun x =>
    (x.1, if x.2.step = 0 ∧ x.2.saved = none ∧ launchEnded s x.2 then { x.2 with ended := true } else x.2) })

/-- MODULE_TRAINING_FAIL (R390): the link runs on the other module, and a link-loss record is sent. -/
def execModuleTrainingFail (m : Bool) (s : State) : Outcome State Fault Refusal :=
  .next (sendRec { s with mgmt := if m then { s.mgmt with mod1 := false } else { s.mgmt with mod0 := false } }
    (mkRec 6 0 0 0xffff 0 0 0))

end Sys2Proof.Machine
end

