-- ==== Sys2Proof/Machine/EngineEvents.lean ====
section
/-!
DEFINITION. Events of the engines: landings, conversions, reports (R278 to R288), grants of the slew governor (R307,
R308), slices, streams and write-backs of the matrix engine (R295 to R305).
-/
namespace Sys2Proof.Machine

open Host (Outcome)

/-! MVE and CVE. -/

def cmdAt (s : State) (t : TileId) (cve : Bool) (i : Nat) : Option Cmd :=
  if cve then (tileOf s t).cve[i]? else (tileOf s t).mve[i]?

def putCmd (s : State) (t : TileId) (cve : Bool) (i : Nat) (c : Cmd) : State :=
  modTile s t fun x => if cve then { x with cve := x.cve.set i c } else { x with mve := x.mve.set i c }

def dropCmd (s : State) (t : TileId) (cve : Bool) (i : Nat) : State :=
  modTile s t fun x => if cve then { x with cve := x.cve.eraseIdx i } else { x with mve := x.mve.eraseIdx i }

/-- A command that still moves data (R284, R351, R367). -/
def Cmd.moving (c : Cmd) : Bool := c.fail.isNone && c.ptag.isNone

/-- May a command of tile t make its next accesses: the tile is not dark, no switch has stopped its engines (R353), and the
stores that its issuer made before it have been answered (R239, R242, R244)? -/
def cmdGoes (s : State) (t : TileId) (c : Cmd) : Bool :=
  c.moving && !isDark s t && (tileOf s t).engStop.isNone && answered s c.issuer c.by_ c.after

/-- CHUNK_LANDING (R278, R281, R286, R314, R316): receivers of COPYM are served in ascending mask bit. -/
def execChunkLanding (t : TileId) (i c : Nat) (s : State) : Outcome State Fault Refusal :=
  match cmdAt s t false i with
  | none => .next s
  | some m =>
    let n := (receivers m).length
    let turn := c % (max n 1) == 0 || m.landed.contains (c - 1)
    .next (if cmdGoes s t m && decide (c < chunkCount m) && !m.landed.contains c && turn then
      let (m', s') := landOne s t m c
      putCmd s' t false i m'
    else s)

/-- CVE_BLOCK_CONVERT (R288 to R290, R318). -/
def execCveBlockConvert (t : TileId) (i : Nat) (s : State) : Outcome State Fault Refusal :=
  match cmdAt s t true i with
  | none => .next s
  | some m =>
    .next (if cmdGoes s t m && !m.allLanded then
      let (m', s') := convBlock s t m
      putCmd s' t true i m'
    else s)

/-- The stream word, then the completion entry; the command leaves its slot when both are away, else it waits for
a credit or a place (R178, R281, R283). -/
def report (s : State) (t : TileId) (cve : Bool) (i : Nat) (c : Cmd) (err : BitVec 8) (reason : BitVec 4) (last : State → State) : State :=
  match sendStream s c err reason with
  | none => s
  | some (c', s1) =>
    match queueEntry s1 c' err with
    | none => putCmd s1 t cve i c'
    | some s2 => last (dropCmd s2 t cve i)

/-- COMMAND_COMPLETION (R281, R283, R287). -/
def execCommandCompletion (t : TileId) (cve : Bool) (i : Nat) (s : State) : Outcome State Fault Refusal :=
  match cmdAt s t cve i with
  | none => .next s
  | some c =>
    .next (if c.moving && c.allLanded && !isDark s t && (tileOf s t).engStop.isNone then report s t cve i c 0 0 id else s)

/-- COMMAND_FAILURE (R284, R285, R287). -/
def execCommandFailure (t : TileId) (cve : Bool) (i : Nat) (s : State) : Outcome State Fault Refusal :=
  match cmdAt s t cve i with
  | none => .next s
  | some c =>
    match c.fail with
    | none => .next s
    | some f => .next (if isDark s t || (tileOf s t).engStop.isSome then s else report s t cve i c f.code f.reason fun s => failReports s c f)

/-! The slew governor (R307, R308). -/

/-- Tile j of a supergroup. -/
def sgTile (sg j : Nat) : TileId := tileAt (sg % 4 * 4 + j % 4) (sg / 4 * 4 + j / 4)

/-- Is an MTE running at a ck, for the count of R307: it computes, runs down, or is held for a rectangle? -/
def mteRunning (ck : Nat) (e : Mte) : Bool := e.run.isSome || decide (ck < e.filler) || e.granted

/-- The ck since which an MTE waits for a grant (R307, R333): it holds an accepted command that needs one, accepted in an
earlier ck, and is not running. The engines of a tile that a switch has stopped ask for none (R353), nor does a dark tile (R367). -/
def waitsSince (s : State) (t : TileId) : Option Nat :=
  let e := mteOf s t
  let since := fun (m : MCmd) => if m.noGrant ∨ s.ck < m.acceptCk + 1 then none else some m.acceptCk
  if mteRunning s.ck e || engStopped s t || isDark s t then none
  else
    match e.rect with
    | some corner => ((mteOf s corner).queue.head?).bind since
    | none => (e.queue.find? fun m => m.kind != .mzero).bind since

/-- A tile put into the order of grants: longest waiting first, then tile number. -/
def insertWait (a : Nat × Nat) : List (Nat × Nat) → List (Nat × Nat)
  | [] => [a]
  | x :: r => if a.1 < x.1 ∨ (a.1 = x.1 ∧ a.2 < x.2) then a :: x :: r else x :: insertWait a r

/-- One grant: the command starts; a tile of a rectangle is held until its last grant (R307), and a command behind an MZERO
until that has ended (log 50). -/
def grantOne (s : State) (t : TileId) : State :=
  match (mteOf s t).rect with
  | none => if computing (mteOf s t) then modMte s t fun e => { e with granted := true } else startRun s t
  | some corner =>
    let s := modMte s t fun e => { e with granted := true }
    match (mteOf s corner).queue with
    | m :: _ => if (cmdTiles corner m).all fun p => (mteOf s p.1).granted then startRun s corner else s
    | [] => s

/-- A command that starts at a step boundary without a grant: accepted in ramp-down and before this ck, or resumed after a
switch (R308, R353). -/
def startsFree (ck : Nat) (e : Mte) : Bool :=
  e.run.isNone && (match e.queue with
    | m :: _ => m.noGrant && decide (m.acceptCk < ck)
    | [] => false)

/-- ck to the next step boundary at which a supergroup has not yet acted (R307). -/
def toBoundary (s : State) (sg : Nat) : Nat :=
  if s.ck % 4 = 0 ∧ SMap.get? s.sgvAt sg = some (s.ck + 1) then 4 else (4 - s.ck % 4) % 4

/-- SGV_STEP (R307, R308): one step at one boundary. -/
def execSgvStep (sg : BitVec 4) (s : State) : Outcome State Fault Refusal :=
  let s := elapse s (toBoundary s sg.toNat)
  let s := { s with sgvAt := SMap.put s.sgvAt sg.toNat (s.ck + 1) }
  let ts := (upto 16).map (sgTile sg.toNat)
  let running := (ts.filter fun t => mteRunning s.ck (mteOf s t)).length
  let waits := (upto 16).filterMap fun j => (waitsSince s (sgTile sg.toNat j)).map fun c => (c, j)
  let order := waits.foldr insertWait []
  let g := min waits.length (fld (rampOf s sg.toNat).1 (4 * min running 15) 4)
  let free := ts.filter fun t => startsFree s.ck (mteOf s t) && !engStopped s t && !isDark s t
  let s := (order.take g).foldl (fun s x => grantOne s (sgTile sg.toNat x.2)) s
  .next (free.foldl startRun s)

/-! The matrix engine. -/

/-- MTE_SLICE_END (R295, R300, R301, R305). -/
def execMteSliceEnd (t : TileId) (s : State) : Outcome State Fault Refusal :=
  .next (if isDark s t then s else sliceStep s t)

/-- MTE_WRITEBACK_COMPLETE (R296, R302, R304, R305). -/
def execMteWritebackComplete (t : TileId) (s : State) : Outcome State Fault Refusal :=
  .next (if isDark s t then s else wbStep s t)

/-- MZERO_COMPLETE (R297). -/
def execMzeroComplete (t : TileId) (s : State) : Outcome State Fault Refusal :=
  .next (if isDark s t then s else mzeroStep s t)

/-- The pieces of slice k of an MMAS stream: address and bytes, rows first, then for MX formats the scale bytes of
each row (R299). -/
def streamPieces (v : View) (k : Nat) : List (Word × Nat) :=
  let f := vFmt v
  let rows := [(v.b + BitVec.ofNat 64 (6144 * k), 6144)]
  if codeMx f then rows ++ (upto 64).map fun j => (v.x + BitVec.ofNat 64 (512 * k + 8 * j), 768 / codeBits f / 32) else rows

/-- The bytes of pieces in order, each piece filled up to its place in the arrived slice. -/
def streamRead (s : State) (t : TileId) (ctx : CtxNum) : List (Word × Nat) → Res (List Byte × List (Word × Bool) × State)
  | [] => .ok ([], [], s)
  | (a, n) :: r => do
    let segs ← xlatGo s (tileOf s t).tlb ctx .r (n / 4096 + 2) a.toNat n
    let bad := match poisonSegs s 0 segs with
      | some i => [(a + BitVec.ofNat 64 i, true)]
      | none => []
    let bs := readSegs s.pmem segs
    let fill := if n = 6144 then [] else List.replicate (8 - n) (0 : Byte)
    let (x, y, s2) ← streamRead (touchSegs s (tileReq t) segs) t ctx r
    pure (bs ++ fill ++ x, bad ++ y, s2)

/-- The stream bytes of the next slice arrive, stop the command, or fail it (R299, R301, R305, R351); a stop that stands at the boundary
comes first. -/
def streamStep (s : State) (t : TileId) : State :=
  match (mteOf s t).run with
  | none => s
  | some r =>
    let m := r.cmd
    if m.kind ≠ .mmas ∨ r.stream.isSome ∨ answered s m.issuer m.by_ m.after = false then s
    else if let some c := waitStop s t r then endRun s t r (some (c, 0, r.k)) 0
    else
      match streamRead s t m.ctx (streamPieces m.b r.k) with
      | .ok (bs, [], s1) => modMte s1 t fun e => { e with run := some { r with stream := some bs } }
      | .ok (_, (a, _) :: _, _) => endRun s t r (some (4, 6, r.k)) a
      | .error (.exc e) =>
        let s1 := if canonical (walkOf s m.ctx) e.eval then (sendPageReq s m.issuer e.eval false (e.code == 0x0d) m.tag m.ctx).1 else s
        endRun s1 t r (some (1, 0, r.k)) e.eval
      | .error _ => s

/-- MMAS_STREAM_ARRIVAL (R299, R301, R305). -/
def execMmasStreamArrival (t : TileId) (s : State) : Outcome State Fault Refusal :=
  .next (if isDark s t then s else streamStep s t)

/-- MTE_FAILURE (R305): poison in the stream (0x06) or a dark tile of the rectangle (0x08) ends the command. -/
def execMteFailure (t : TileId) (err : BitVec 8) (s : State) : Outcome State Fault Refusal :=
  match (mteOf s t).run with
  | none => .next (if err = 8 && !isDark s t then failQueued s t else s)
  | some r =>
    .next (if isDark s t then s
      else if err = 8 then
        match darkTile s t r.cmd with
        | some x => endRun s t r (some (4, 8, r.k)) (coreAddr (coreOfTile x 0))
        | none => s
      else if err = 6 && r.cmd.kind == .mmas && r.stream.isNone && (waitStop s t r).isNone then
        match streamRead s t r.cmd.ctx (streamPieces r.cmd.b r.k) with
        | .ok (_, (a, _) :: _, _) => endRun s t r (some (4, 6, r.k)) a
        | _ => s
      else s)

end Sys2Proof.Machine
end

