-- ==== Sys2Proof/Machine/Integer.lean ====
section
/-!
DEFINITION. Integer arithmetic, bit manipulation, constants and address instructions (R77 to R90).
-/
namespace Sys2Proof.Machine

open Host (Outcome)

/-- ADD (R81). -/
def execAdd (d a b : Spec) (s : State) : Outcome State Fault Refusal :=
  opR s d a b (· + ·)

/-- SUB (R81). -/
def execSub (d a b : Spec) (s : State) : Outcome State Fault Refusal :=
  opR s d a b (· - ·)

/-- AND (R81). -/
def execAnd (d a b : Spec) (s : State) : Outcome State Fault Refusal :=
  opR s d a b (· &&& ·)

/-- OR (R81). -/
def execOr (d a b : Spec) (s : State) : Outcome State Fault Refusal :=
  opR s d a b (· ||| ·)

/-- XOR (R81). -/
def execXor (d a b : Spec) (s : State) : Outcome State Fault Refusal :=
  opR s d a b (· ^^^ ·)

/-- SHL (R81, R82). -/
def execShl (d a b : Spec) (s : State) : Outcome State Fault Refusal :=
  opR s d a b shlW

/-- SHR (R81, R82). -/
def execShr (d a b : Spec) (s : State) : Outcome State Fault Refusal :=
  opR s d a b shrW

/-- SAR (R81, R82). -/
def execSar (d a b : Spec) (s : State) : Outcome State Fault Refusal :=
  opR s d a b sarW

/-- MIN (R81). -/
def execMin (d a b : Spec) (s : State) : Outcome State Fault Refusal :=
  opR s d a b minS

/-- MAX (R81). -/
def execMax (d a b : Spec) (s : State) : Outcome State Fault Refusal :=
  opR s d a b maxS

/-- MINU (R81). -/
def execMinu (d a b : Spec) (s : State) : Outcome State Fault Refusal :=
  opR s d a b minU

/-- MAXU (R81). -/
def execMaxu (d a b : Spec) (s : State) : Outcome State Fault Refusal :=
  opR s d a b maxU

/-- SEQ (R81). -/
def execSeq (d a b : Spec) (s : State) : Outcome State Fault Refusal :=
  opR s d a b fun x y => boolW (condEq x y)

/-- SNE (R81). -/
def execSne (d a b : Spec) (s : State) : Outcome State Fault Refusal :=
  opR s d a b fun x y => boolW (!condEq x y)

/-- SLT (R81). -/
def execSlt (d a b : Spec) (s : State) : Outcome State Fault Refusal :=
  opR s d a b fun x y => boolW (condLt x y)

/-- SLTU (R81). -/
def execSltu (d a b : Spec) (s : State) : Outcome State Fault Refusal :=
  opR s d a b fun x y => boolW (condLtu x y)

/-- ADDI (R81). -/
def execAddi (d a : Spec) (i : BitVec 10) (s : State) : Outcome State Fault Refusal :=
  opR1 s d a fun x => x + simm i

/-- ANDI (R81). -/
def execAndi (d a : Spec) (i : BitVec 10) (s : State) : Outcome State Fault Refusal :=
  opR1 s d a fun x => x &&& simm i

/-- ORI (R81). -/
def execOri (d a : Spec) (i : BitVec 10) (s : State) : Outcome State Fault Refusal :=
  opR1 s d a fun x => x ||| simm i

/-- XORI (R81). -/
def execXori (d a : Spec) (i : BitVec 10) (s : State) : Outcome State Fault Refusal :=
  opR1 s d a fun x => x ^^^ simm i

/-- SLTI (R81). -/
def execSlti (d a : Spec) (i : BitVec 10) (s : State) : Outcome State Fault Refusal :=
  opR1 s d a fun x => boolW (condLt x (simm i))

/-- SHLI (R81, R82). -/
def execShli (d a : Spec) (i : BitVec 10) (s : State) : Outcome State Fault Refusal :=
  opR1 s d a fun x => shlW x (i.setWidth 64)

/-- SHRI (R81, R82). -/
def execShri (d a : Spec) (i : BitVec 10) (s : State) : Outcome State Fault Refusal :=
  opR1 s d a fun x => shrW x (i.setWidth 64)

/-- SARI (R81, R82). -/
def execSari (d a : Spec) (i : BitVec 10) (s : State) : Outcome State Fault Refusal :=
  opR1 s d a fun x => sarW x (i.setWidth 64)

/-- MUL (R83). -/
def execMul (d a b : Spec) (s : State) : Outcome State Fault Refusal :=
  opR s d a b (· * ·)

/-- MULH (R83). -/
def execMulh (d a b : Spec) (s : State) : Outcome State Fault Refusal :=
  opR s d a b mulhS

/-- MULHU (R83). -/
def execMulhu (d a b : Spec) (s : State) : Outcome State Fault Refusal :=
  opR s d a b mulhU

/-- DIV (R83). -/
def execDiv (d a b : Spec) (s : State) : Outcome State Fault Refusal :=
  opR s d a b divS

/-- DIVU (R83). -/
def execDivu (d a b : Spec) (s : State) : Outcome State Fault Refusal :=
  opR s d a b divU

/-- REM (R83). -/
def execRem (d a b : Spec) (s : State) : Outcome State Fault Refusal :=
  opR s d a b remS

/-- REMU (R83). -/
def execRemu (d a b : Spec) (s : State) : Outcome State Fault Refusal :=
  opR s d a b remU

/-- CLZ (R84). -/
def execClz (d a : Spec) (s : State) : Outcome State Fault Refusal :=
  opR1 s d a clzW

/-- CTZ (R84). -/
def execCtz (d a : Spec) (s : State) : Outcome State Fault Refusal :=
  opR1 s d a ctzW

/-- POPC (R84). -/
def execPopc (d a : Spec) (s : State) : Outcome State Fault Refusal :=
  opR1 s d a popcW

/-- BREV (R84). -/
def execBrev (d a : Spec) (s : State) : Outcome State Fault Refusal :=
  opR1 s d a brevW

/-- BSWAP (R84). -/
def execBswap (d a : Spec) (s : State) : Outcome State Fault Refusal :=
  opR1 s d a bswapW

/-- SEXT (R84). -/
def execSext (fn : ExtW) (d a : Spec) (s : State) : Outcome State Fault Refusal :=
  opR1 s d a (sextTo (extBits fn))

/-- ZEXT (R84). -/
def execZext (fn : ExtW) (d a : Spec) (s : State) : Outcome State Fault Refusal :=
  opR1 s d a (zextTo (extBits fn))

/-- BFX (R85). -/
def execBfx (d a b : Spec) (s : State) : Outcome State Fault Refusal :=
  opR s d a b bfxW

/-- BFXU (R85). -/
def execBfxu (d a b : Spec) (s : State) : Outcome State Fault Refusal :=
  opR s d a b bfxuW

/-- BFI reads and writes the register of field A, which no queue or link may be (R78, R85). -/
def execBfi (d a b : Spec) (s : State) : Outcome State Fault Refusal :=
  finish s do
    checkUses [.regS d, .srcS a, .srcS b]
    checkRoles s [.srcS a, .srcS b]
    let old := getS s d.toNat
    let (x, s1) ← readS s a
    let (y, s2) ← readS s1 b
    writeS s2 d (bfiW old x y)

/-- MOV (R86). -/
def execMov (d a : Spec) (s : State) : Outcome State Fault Refusal := opR1 s d a id

/-- LDI (R86). -/
def execLdi (d : Spec) (i : BitVec 32) (s : State) : Outcome State Fault Refusal := opD s d (simm i)

/-- LDIH (R78, R86). -/
def execLdih (d : Spec) (i : BitVec 32) (s : State) : Outcome State Fault Refusal :=
  finish s do
    checkUses [.regS d]
    writeS s d (i ++ (getS s d.toNat).extractLsb' 0 32)

/-- SEL reads all three sources (R86). -/
def execSel (d a b c : Spec) (s : State) : Outcome State Fault Refusal :=
  opR3 s d a b c fun x y z => if x ≠ 0 then y else z

/-- LEA (R87). -/
def execLea (d : Spec) (m : MemOp) (s : State) : Outcome State Fault Refusal :=
  opR1 s d m.a fun x => formAddr m.sp x m.off

/-- ADDRA (R88). -/
def execAddra (d a b : Spec) (s : State) : Outcome State Fault Refusal := opR s d a b addraW

/-- COORD (R89). -/
def execCoord (d a : Spec) (i : BitVec 10) (s : State) : Outcome State Fault Refusal :=
  opR1 s d a fun x => coordW (coreX s.cur) (coreY s.cur) x i

/-- WIDX reads the register of field a and the next one (R90). -/
def execWidx (d a : Spec) (i : BitVec 10) (s : State) : Outcome State Fault Refusal :=
  finish s do
    checkUses [.dstS d]
    need (decide (a.toNat ≤ 30)) 0x02 (a.setWidth 64)
    checkRoles s [.dstS d]
    writeS s d (widxW (getS s a.toNat) (getS s (a.toNat + 1)) (fld i 0 3))

end Sys2Proof.Machine
end

