-- ==== Sys2Proof/Machine/Mgmt.lean ====
section
/-!
DEFINITION. The management core: boot and measurements (R423 to R425), power (R426 to R428), reset and bring-up (R430
to R432). An event whose condition does not hold changes nothing.
-/
namespace Sys2Proof.Machine

open Host (Outcome)

/-! Boot and measurements. -/

/-- The bytes of a digest. -/
def digestBytes (d : BitVec 512) : List Byte := leBytes 64 d.toNat

/-- Extension of MR[i] (R424). -/
def Mgmt.extend (m : Mgmt) (i : Nat) (d : BitVec 512) : Mgmt :=
  { m with mr := vset m.mr i (Config.sha512 (digestBytes (vget m.mr i 0) ++ digestBytes d)) }

/-- Does the first stage pass step 3 of R423: its key is that of the fuses and its signature verifies? -/
def firstOk (b : BootImage) : Bool :=
  decide (Config.sha512 b.key = Config.fuseKey) && Config.rsaOk b.key (Config.sha512 b.image) b.sig

/-- The later stages, checked with the firmware's own key; a stage that fails ends the boot in recovery (R423). -/
def bootLater (key : List Byte) : Mgmt → List BootImage → Mgmt
  | m, [] => { m with boot := .running }
  | m, b :: r =>
    if Config.rsaOk key (Config.sha512 b.image) b.sig then bootLater key (m.extend 1 (Config.sha512 b.image)) r
    else { m with boot := .recovery }

/-- The boot chain after MR0 has been extended with the ROM's digest (R423, R424). -/
def bootChain (m : Mgmt) : List BootImage → Mgmt
  | [] => { m with boot := .recovery }
  | b :: r =>
    if firstOk b then bootLater (Config.imageKey b.image) ((m.extend 1 (Config.sha512 b.image)).extend 3 Config.fuseDigest) r
    else { m with boot := .recovery }

/-- POWER_ON_RESET (R423, R424): the whole device is reset and the boot chain runs. What the host holds stays: its
memory, its tables and what it has been sent (log 38). -/
def execPowerOnReset (rom : BitVec 512) (stages : List BootImage) (s : State) : Outcome State Fault Refusal :=
  .next { State.reset with
    agenda := s.agenda, fresh := s.fresh, hostOut := s.hostOut
    pmem := s.pmem.filter fun c => !isDevMem s c.1
    poison := s.poison.filter fun c => !isDevMem s (c * 32)
    tsu := { State.reset.tsu with host := s.tsu.host }
    mgmt := bootChain (State.reset.mgmt.extend 0 rom) stages }

/-- Does the firmware run and the link carry CXL.io? -/
def spdmOpen (s : State) : Bool := s.mgmt.boot == .running && s.mgmt.linkUp

/-- A signed SPDM response: the signature is over the requester's nonce, where the request has one, and the data (R425). -/
def spdmSign (s : State) (kind : Nat) (nonce data : List Byte) : State :=
  if spdmOpen s then
    { s with
      hostOut := s.hostOut ++ [.spdm kind data (Config.spdmSign s.fresh (nonce ++ data))]
      fresh := s.fresh + 1 }
  else s

/-- The response to a request without a nonce (R425). -/
def spdmPlain (s : State) (kind : Nat) : State := spdmSign s kind [] (Config.spdmBody kind)

/-- The response to a request with a nonce (R425). -/
def spdmSigned (s : State) (kind : Nat) (nonce : BitVec 256) (data : List Byte) : State := spdmSign s kind (leBytes 32 nonce.toNat) data

/-- GET_VERSION (R425). -/
def execGetVersion (s : State) : Outcome State Fault Refusal := .next (spdmPlain s 0)

/-- GET_CAPABILITIES (R425). -/
def execGetCapabilities (s : State) : Outcome State Fault Refusal := .next (spdmPlain s 1)

/-- NEGOTIATE_ALGORITHMS (R425). -/
def execNegotiateAlgorithms (s : State) : Outcome State Fault Refusal := .next (spdmPlain s 2)

/-- GET_DIGESTS (R425). -/
def execGetDigests (s : State) : Outcome State Fault Refusal := .next (spdmPlain s 3)

/-- GET_CERTIFICATE (R425). -/
def execGetCertificate (s : State) : Outcome State Fault Refusal := .next (spdmPlain s 4)

/-- CHALLENGE (R425). -/
def execChallenge (nonce : BitVec 256) (s : State) : Outcome State Fault Refusal :=
  .next (spdmSigned s 5 nonce (Config.spdmBody 5))

/-- Every measurement in order, index k + 1 being MR[k]: each its index and its digest (R425; log 38). -/
def measurements (m : Mgmt) : List Byte :=
  (upto 8).flatMap fun k => BitVec.ofNat 8 (k + 1) :: digestBytes (vget m.mr k 0)

/-- The measurement of an index: k + 1 is MR[k], as a digest (R425). Any other index gets a free body (log 38). -/
def measurement (m : Mgmt) (index : BitVec 8) : List Byte :=
  if 1 ≤ index.toNat ∧ index.toNat ≤ 8 then digestBytes (vget m.mr (index.toNat - 1) 0)
  else Config.spdmBody (6 + 256 * (index.toNat + 1))

/-- GET_MEASUREMENTS of one index (R425). -/
def measureOne (index : BitVec 8) (nonce : BitVec 256) (s : State) : State := spdmSigned s 6 nonce (measurement s.mgmt index)

/-- GET_MEASUREMENTS of every index (R425). -/
def execGetMeasurements (nonce : BitVec 256) (s : State) : Outcome State Fault Refusal :=
  .next (spdmSigned s 6 nonce (measurements s.mgmt))

/-- MEASUREMENT_EXTENSION (R424): MR4 to MR7, at most 256 extensions each. -/
def execMeasurementExtension (i : BitVec 2) (d : BitVec 512) (s : State) : Outcome State Fault Refusal :=
  let n := vget s.mgmt.exts i.toNat 0
  .next (if s.mgmt.boot = .running ∧ n < 256 then
    { s with mgmt := { s.mgmt.extend (4 + i.toNat) d with exts := vset s.mgmt.exts i.toNat (n + 1) } }
  else s)

/-- DOE_DISCOVERY (R423, R430): answered in recovery too, once the link carries CXL.io. -/
def execDoeDiscovery (s : State) : Outcome State Fault Refusal :=
  .next (if (s.mgmt.boot = .recovery ∧ s.mgmt.linkUp) ∨ spdmOpen s then { s with hostOut := s.hostOut ++ [.doe] } else s)

/-! Power. -/

/-- PSTAT, which the host reads (R428). -/
def pstat (s : State) : Word :=
  BitVec.ofNat 64 (s.mgmt.tj.toNat * 2 ^ 32 + s.mgmt.cap.toNat * 2 ^ 16 + s.mgmt.freq.toNat)

/-- The first boundary of the SGV's steps from a ck on (R307). -/
def stepBoundary (ck : Nat) : Nat := (ck + 3) / 4 * 4

/-- A change of ck takes effect at a step boundary; ck rises only while every sensor reads below 100 °C (R426, R427). -/
def setFreq (s : State) (f : Nat) : State :=
  let now := s.mgmt.freq.toNat
  let f := if s.mgmt.tj.toNat < 100 then f else min f now
  if f = now then s
  else
    let s := elapseTo s (stepBoundary s.ck)
    { s with mgmt := { s.mgmt with freq := BitVec.ofNat 4 f } }

/-- POWER_CAP_SET (R426): a cap of 90 to 240 W; the frequency chosen to hold it is a free value (log 13). -/
def execPowerCapSet (watts : BitVec 8) (s : State) : Outcome State Fault Refusal :=
  .next (if 90 ≤ watts.toNat ∧ watts.toNat ≤ 240 then
    let f := 4 + Config.ckFor s.fresh watts % 5
    setFreq { s with mgmt := { s.mgmt with cap := watts, capCk := BitVec.ofNat 4 f }, fresh := s.fresh + 1 } f
  else s)

/-- FREQUENCY_CHANGE (R426): a ck that holds the cap. -/
def execFrequencyChange (f : BitVec 4) (s : State) : Outcome State Fault Refusal :=
  .next (if 4 ≤ f.toNat ∧ f.toNat ≤ s.mgmt.capCk.toNat then setFreq s f.toNat else s)

/-- The ck of 1 ms at the present frequency (log 13). -/
def msCk (s : State) : Nat := 100000 * s.mgmt.freq.toNat

/-- A line of which a tile's cache held the tokens, when the caches have lost their power: the tokens are home again (log 27). -/
def LineSt.lost (x : LineSt) : LineSt :=
  { x with hold := [], owner := none, dirty := false, valid := [], flight := [], retries := [], active := none, waiting := [] }

/-- The compute dies lose their power, and with it their state; what their caches alone held of a dirty line is lost (R427; log 27). What
the base die holds stays. -/
def powerOff (s : State) : State :=
  let dirty := s.coh.lines.filter fun x => x.2.dirty
  let s1 := dirty.foldl (fun t x => { t with pmem := Mem.write t.pmem (128 * x.1) ((upto 128).map fun i => Config.frameByte s.fresh (128 * x.1 + i)) }) s
  { s1 with
    core := Core.reset, others := [], tiles := [], arr := [], stamps := [], fills := [], net := [], side := []
    fresh := s.fresh + 1
    coh := { s.coh with lines := s.coh.lines.map fun x => (x.1, x.2.lost) }
    mgmt := { s.mgmt with powered := false } }

/-- THERMAL_STEP (R427): a reading of the hottest sensor 1 ms or more after the one before, and the step that follows from it. -/
def execThermalStep (tj : BitVec 8) (s : State) : Outcome State Fault Refusal :=
  let s := elapseTo s (s.mgmt.thermAt + msCk s)
  let s := { s with mgmt := { s.mgmt with tj := tj, thermAt := s.ck } }
  let f := s.mgmt.freq.toNat
  .next (if 115 ≤ tj.toNat then powerOff s
    else if 105 ≤ tj.toNat then setFreq s (max 4 (f - 1))
    else if tj.toNat < 100 then setFreq s (min s.mgmt.capCk.toNat (f + 1))
    else s)

/-- OVERTEMP_POWER_OFF (R427): the compute dies lose their power and with it their state. -/
def execOvertempPowerOff (tj : BitVec 8) (s : State) : Outcome State Fault Refusal :=
  .next (if 115 ≤ tj.toNat then powerOff { s with mgmt := { s.mgmt with tj := tj } } else s)

/-! Bring-up. -/

/-- LPDDR_TRAINING (R392, R430 step 3): 48, 96 or 192 GiB at a rate of R392; the owner table is zeroed. -/
def execLpddrTraining (rate : BitVec 2) (gib : BitVec 8) (s : State) : Outcome State Fault Refusal :=
  .next (if s.mgmt.boot = .running ∧ s.mgmt.memGib = 0 ∧ rate.toNat < 3 ∧ (gib = 48 ∨ gib = 96 ∨ gib = 192) then
    { s with mgmt := { s.mgmt with memRate := rate, memGib := gib.toNat }, frames := [] }
  else s)

/-- The configuration that MR2 measures: every RAMP, the data rate, the ring's base and size (R424). -/
def bringupConfig (s : State) : List Word :=
  ((upto 16).map fun g => (rampOf s g).1) ++ [BitVec.ofNat 64 s.mgmt.memRate.toNat, BitVec.ofNat 64 s.eva.base, BitVec.ofNat 64 s.eva.size]

/-- Is every RAMP locked? -/
def rampsLocked (s : State) : Bool := (upto 16).all fun g => (rampOf s g).2

/-- The management core sets the ring's base and its size, a power of two of at least 4,096 entries, in device memory, before MR2 is
extended (R416, R430 step 4; log 39). -/
def setRing (base size : Nat) (s : State) : State :=
  if s.mgmt.boot = .running ∧ s.mgmt.memGib ≠ 0 ∧ !rampsLocked s ∧ 4096 ≤ size ∧ 2 ^ Nat.log2 size = size ∧
      base % 32 = 0 ∧ s.mgmt.hdmBase ≤ base ∧ base + 32 * size ≤ s.mgmt.hdmBase + hdmSize s then
    { s with eva := { s.eva with base := base, size := size } }
  else s

/-- System software names the SEQ that a replay starts from (R421; log 72). -/
def nameReplay (seq : Word) (s : State) : State := { s with eva := { s.eva with named := seq } }

/-- What BAR 0 reads at an offset: the mailbox (R394), the SEQ that the next record receives (R416) and PSTAT (R428). -/
def barValue (s : State) (off : Nat) : Word :=
  if off = 0x1000 then s.lds.mbOp.setWidth 64
  else if off = 0x1008 then setBit (s.lds.mbRes.setWidth 64) 63 s.lds.mbBusy
  else if 0x1010 ≤ off ∧ off ≤ 0x1038 ∧ off % 8 = 0 then vget s.lds.mbA ((off - 0x1010) / 8) 0
  else if off = 0x2000 then s.eva.seq
  else if off = 0x3000 then pstat s
  else Config.barFree off

/-- The host reads BAR 0 (R394, R416, R428). -/
def barRead (off : BitVec 16) (s : State) : State :=
  if hostUp s then { s with hostOut := s.hostOut ++ [.bar (barValue s off.toNat)] } else s

/-- RAMP_WRITE (R307, R416, R430 step 4): with the last lock MR2 is extended. -/
def execRampWrite (sg : BitVec 4) (v : Word) (lock : Bool) (s : State) : Outcome State Fault Refusal :=
  .next (if s.mgmt.boot = .running ∧ s.mgmt.memGib ≠ 0 ∧ !(rampOf s sg.toNat).2 then
    let s := { s with ramp := SMap.put s.ramp sg.toNat (rampStore v, lock) }
    if rampsLocked s then
      { s with mgmt := s.mgmt.extend 2 (Config.configDigest (bringupConfig s)) }
    else s
  else s)

/-- TVEC_BRINGUP_WRITE (R26, R430 step 6, R432): the value is kept, and used from the next release. -/
def execTvecBringupWrite (k : CoreId) (v : Word) (s : State) : Outcome State Fault Refusal :=
  let w := setBit v 0 false
  .next (if s.mgmt.boot = .running ∧ (s.mgmt.linkUp ∨ allTested s) then
    modCore { s with mgmt := { s.mgmt with tvecs := insertNat k.toNat s.mgmt.tvecs } } k fun c => { c with tvecKept := w, tvec := if c.released then c.tvec else w }
  else s)

/-- Does a tile hold a context's state: that of a launch which has not ended, on a tile that is not dark (R431)? -/
def holdsState (s : State) (t : TileId) : Bool := !isDark s t && (heldPart s t).any fun x => !x.2.ended

/-- The reset of a tile that holds no context's state (R430 step 5, R431, R432). In bring-up its test follows, and its cores wait for their
release; after it a tile that is LIT is released at once; one reset in DARK, or before its keeper has heard that it is dark (log 27), is
dark and tested. -/
def resetNow (s : State) (t : TileId) : State :=
  let kp := keeperOf s t
  let s := { s with mgmt := { s.mgmt with
    wanted := s.mgmt.wanted.filter (· != t.toNat)
    resets := if s.mgmt.linkUp then s.mgmt.resets else insertNat t.toNat s.mgmt.resets
    tested := if s.mgmt.linkUp then s.mgmt.tested else s.mgmt.tested.filter (· != t.toNat) } }
  if kp.state = .dark ∨ ((tileOf s t).dark = true ∧ keeperWorks s t = true) then resetTile s t .dark kp.fails false
  else resetTile s t .lit 0 s.mgmt.linkUp

/-- TILE_RESET (R430 step 5, R431): once every RAMP is locked; the request for a tile that holds a context's state waits until the LDS has
switched the tile out. -/
def execTileReset (t : TileId) (s : State) : Outcome State Fault Refusal :=
  .next (if s.mgmt.boot ≠ .running ∨ (!s.mgmt.linkUp && !rampsLocked s) then s
    else if holdsState s t then { s with mgmt := { s.mgmt with wanted := insertNat t.toNat s.mgmt.wanted } }
    else resetNow s t)

/-- The resets whose tiles have been switched out meanwhile (R431). -/
def serveResets (s : State) : State :=
  (s.mgmt.wanted.map (BitVec.ofNat 8)).foldl (fun s t => if holdsState s t then s else resetNow s t) s

/-- Has step 6 of R430 been done on every tile that is not fenced? -/
def arrayReleased (s : State) : Bool :=
  allTiles.all fun t => isDark s t || (coresOfTile t).all fun k => (coreOf s k).released

/-- LINK_TRAINING (R390, R391, R423, R430 step 7): the last step of bring-up; context 0 is registered, and the LDS is enabled. In
recovery the link carries CXL.io alone. -/
def execLinkTraining (s : State) : Outcome State Fault Refusal :=
  .next (if !(s.mgmt.mod0 || s.mgmt.mod1) then s
  else if s.mgmt.boot = .recovery then { s with mgmt := { s.mgmt with linkUp := true } }
  else if s.mgmt.boot = .running ∧ s.mgmt.memGib ≠ 0 ∧ rampsLocked s ∧ arrayReleased s then
    { s with
      mgmt := { s.mgmt with linkUp := true }
      lds := { s.lds with enabled := true, ctxs := SMap.put s.lds.ctxs 0 (descOf []) } }
  else s)

end Sys2Proof.Machine
end

