-- ==== Sys2Proof/Machine/NetEvents.lean ====
section
/-!
DEFINITION. Events of the core-to-core networks, of the inboxes, of the home slices and of links.
-/
namespace Sys2Proof.Machine

open Host (Outcome)

/-- LINK_WORD_ARRIVAL (R137, R138, R140). -/
def execLinkWordArrival (k : CoreId) (d : Dir) (s : State) : Outcome State Fault Refusal :=
  .next (linkIn s k d)

/-- LINK_SLOT_RETURN (R138). -/
def execLinkSlotReturn (k : CoreId) (d : Dir) (s : State) : Outcome State Fault Refusal :=
  .next (modLink s k d fun e => { e with returning := e.returning - 1 })

/-- LAUNCH_ACCEPT (R148, R153, R155, R187): launches enter the launch queue, and its head enters the ready queue as this ck ends. -/
def execLaunchAccept (k : CoreId) (s : State) : Outcome State Fault Refusal :=
  .next (modCore ((upto 4).foldl (fun s _ => launchIn s k) s) k fun c => { c with launchDue := true })

/-- ACTIVE_MESSAGE_ARRIVAL (R148, R151, R155, R156). -/
def execActiveMessageArrival (src k : CoreId) (s : State) : Outcome State Fault Refusal :=
  .next (activeIn s src k)

/-- REMOTE_ATOMIC_APPLY (R156, R206 to R208, R245, R246). -/
def execRemoteAtomicApply (k : CoreId) (s : State) : Outcome State Fault Refusal :=
  match (coreOf s k).activeQ with
  | .atomic src h off req ctx tag seq addr :: _ =>
    .next (if !(coreOf s k).dead && filled s (lmKey k off) req.size then applyAtomic (popActive s k) k src h off req ctx tag seq addr else s)
  | _ => .next s

/-- BARRIER_ARRIVAL (R156, R169, R195). -/
def execBarrierArrival (k : CoreId) (s : State) : Outcome State Fault Refusal :=
  match (coreOf s k).activeQ with
  | .arrival src b tag :: _ => .next (if (coreOf s k).dead then s else applyArrival (popActive s k) k src b tag)
  | _ => .next s

/-- COPYX_REQUEST (R156, R315). -/
def execCopyxRequest (k : CoreId) (s : State) : Outcome State Fault Refusal :=
  match (coreOf s k).activeQ with
  | .copyx c :: _ => .next (if (coreOf s k).dead then s else applyCopyx (popActive s k) k c)
  | _ => .next s

/-- HANDLER_ACTIVATION (R156, R159, R164). -/
def execHandlerActivation (k : CoreId) (s : State) : Outcome State Fault Refusal :=
  .next (activate s k)

/-- STREAM_WORD_ARRIVAL (R160, R161). -/
def execStreamWordArrival (src k : CoreId) (s : State) : Outcome State Fault Refusal :=
  .next (streamIn s src k)

/-- STREAM_REDUCE_APPLY (R161 to R163, R344). -/
def execStreamReduceApply (k : CoreId) (e : BitVec 3) (s : State) : Outcome State Fault Refusal :=
  .next (streamReduce s k e.toNat)

/-- STREAM_EOS_ACTIVATION (R164). -/
def execStreamEosActivation (k : CoreId) (e : BitVec 3) (s : State) : Outcome State Fault Refusal :=
  .next (streamEos s k e.toNat)

/-- STREAM_CREDIT_RETURN (R162, R178). -/
def execStreamCreditReturn (k : CoreId) (s : State) : Outcome State Fault Refusal :=
  match pick s (fun p => p.dst == k && (match p.body with
      | .credit .. => true
      | _ => false)) with
  | some (⟨_, _, _, _, .credit dst e eos⟩, s) => .next (modCore s k fun c => creditBack c dst e eos)
  | _ => .next s

/-- MESSAGE_REFUSAL_ARRIVAL (R155, R166, R178, R336). -/
def execMessageRefusalArrival (k : CoreId) (s : State) : Outcome State Fault Refusal :=
  match pick s (fun p => p.dst == k && (match p.body with
      | .refused .. => true
      | _ => false)) with
  | some (⟨_, _, _, _, .refused w resv cr⟩, s) =>
    let s := if resv then freeResv s k else s
    let s := match cr with
      | some (dst, e, eos) => modCore s k fun c => creditBack c dst e eos
      | none => s
    .next (pushEvent s k 0x13 w)
  | _ => .next s

/-- The index of a core in its supergroup, as a COPYM mask bit (R278). -/
def sgIndex (k : CoreId) : Nat := coreY k % 8 * 8 + coreX k % 8

/-- SLOT_RETURN_ARRIVAL (R182, R280). One from a core of another supergroup, for which there is no counter, changes nothing (log 69). -/
def execSlotReturnArrival (k : CoreId) (s : State) : Outcome State Fault Refusal :=
  match pick s (fun p => p.dst == k && (match p.body with
      | .slotReturn => true
      | _ => false)) with
  | some (p, s) =>
    let n := vget (coreOf s k).slotCnt (sgIndex p.src) 0
    .next (if sgOf p.src ≠ sgOf k then s
      else if n = 15 then coreRec s k 1 0xe1 p.tag (p.src.setWidth 64) 0
      else modCore s k fun c => { c with slotCnt := vset c.slotCnt (sgIndex p.src) (n + 1) })
  | none => .next s

/-- RESERVATION_RELEASE (R166). -/
def execReservationRelease (k : CoreId) (s : State) : Outcome State Fault Refusal :=
  match pick s (fun p => p.dst == k && (match p.body with
      | .resvRelease => true
      | _ => false)) with
  | some (_, s) => .next (freeResv s k)
  | none => .next s

/-- DEATH_PURGE_COMPLETE (R345 steps 2 and 3). -/
def execDeathPurgeComplete (tag : BitVec 16) (s : State) : Outcome State Fault Refusal :=
  .next (purge s tag)

/-- REMOTE_LOAD_REQUEST (R206 to R208). -/
def execRemoteLoadRequest (src k : CoreId) (s : State) : Outcome State Fault Refusal :=
  .next (loadAt s src k)

/-- REMOTE_STORE_ARRIVAL (R130, R206, R207, R209). -/
def execRemoteStoreArrival (src k : CoreId) (s : State) : Outcome State Fault Refusal :=
  .next (storeAt s src k)

/-- STORE_ACK_ARRIVAL (R209). -/
def execStoreAckArrival (k : CoreId) (s : State) : Outcome State Fault Refusal :=
  .next (ackIn s k)

/-- STORE_REFUSAL_ARRIVAL (R209, R211). -/
def execStoreRefusalArrival (k : CoreId) (s : State) : Outcome State Fault Refusal :=
  .next (storeRefusedIn s k)

/-- FAR_ATOMIC_APPLY (R224, R245, R246). -/
def execFarAtomicApply (src : CoreId) (s : State) : Outcome State Fault Refusal :=
  .next (farAt s src)

/-- RED_LOG_APPEND (R250, R266). -/
def execRedLogAppend (src : CoreId) (s : State) : Outcome State Fault Refusal :=
  .next (redAt s src)

/-- MERGE_APPLICATION (R251, R267). -/
def execMergeApplication (k : CoreId) (h : CtxKind) (s : State) : Outcome State Fault Refusal :=
  .next (mergeApply s k h)

/-- BIND_INVALIDATION (R248). -/
def execBindInvalidation (k : CoreId) (s : State) : Outcome State Fault Refusal :=
  .next (bindInvAt s k)

end Sys2Proof.Machine
end

