-- ==== Sys2Proof/Machine/ScalarFloat.lean ====
section
/-!
DEFINITION. Scalar floating point (R91 to R96).
-/
namespace Sys2Proof.Machine

open Host (Outcome)

/-- The FP32 operand of a scalar (R91). -/
def f32 (x : Word) : Nat := fld x 0 32

/-- A result code in the low bits of a scalar (R91). -/
def ofCode (c : Nat) : Word := BitVec.ofNat 64 c

/-- FADD (R92). -/
def execFadd (fn : Rnd) (d a b : Spec) (s : State) : Outcome State Fault Refusal :=
  opR s d a b fun x y => ofCode (fp32.addC (Rnd.mode fn) (f32 x) (f32 y))

/-- FSUB (R92). -/
def execFsub (fn : Rnd) (d a b : Spec) (s : State) : Outcome State Fault Refusal :=
  opR s d a b fun x y => ofCode (fp32.subC (Rnd.mode fn) (f32 x) (f32 y))

/-- FMUL (R92). -/
def execFmul (fn : Rnd) (d a b : Spec) (s : State) : Outcome State Fault Refusal :=
  opR s d a b fun x y => ofCode (fp32.mulC (Rnd.mode fn) (f32 x) (f32 y))

/-- FFMA (R92). -/
def execFfma (fn : Rnd) (d a b c : Spec) (s : State) : Outcome State Fault Refusal :=
  opR3 s d a b c fun x y z => ofCode (fp32.fmaC (Rnd.mode fn) (f32 x) (f32 y) (f32 z))

/-- FDIV (R92). -/
def execFdiv (fn : Rnd) (d a b : Spec) (s : State) : Outcome State Fault Refusal :=
  opR s d a b fun x y => ofCode (fp32.divC (Rnd.mode fn) (f32 x) (f32 y))

/-- FSQRT (R92). -/
def execFsqrt (fn : Rnd) (d a : Spec) (s : State) : Outcome State Fault Refusal :=
  opR1 s d a fun x => ofCode (fp32.sqrtC (Rnd.mode fn) (f32 x))

/-- FMIN (R93). -/
def execFmin (d a b : Spec) (s : State) : Outcome State Fault Refusal :=
  opR s d a b fun x y => ofCode (fp32.minMax false (f32 x) (f32 y))

/-- FMAX (R93). -/
def execFmax (d a b : Spec) (s : State) : Outcome State Fault Refusal :=
  opR s d a b fun x y => ofCode (fp32.minMax true (f32 x) (f32 y))

/-- FCMP (R94). -/
def execFcmp (fn : FRel) (d a b : Spec) (s : State) : Outcome State Fault Refusal :=
  opR s d a b fun x y => boolW (fp32.rel fn (f32 x) (f32 y))

/-- FCVT (R95). -/
def execFcvt (fn : FCvt) (d a : Spec) (s : State) : Outcome State Fault Refusal := opR1 s d a (fcvt fn)

/-- FCLASS (R96). -/
def execFclass (d a : Spec) (s : State) : Outcome State Fault Refusal :=
  opR1 s d a fun x => ofCode (fp32.classOf (f32 x))

end Sys2Proof.Machine
end

