-- ==== Sys2Proof/Machine/System.lean ====
section
/-!
DEFINITION. System instructions (R79, R80, R100 to R106) and the trap of an unassigned opcode (R57).
-/
namespace Sys2Proof.Machine

open Host (Outcome)

/-- TRAP (R100): the kernel is entered at once, with EPC at the successor. -/
def execTrap (i : BitVec 6) (s : State) : Outcome State Fault Refusal :=
  let s := dissolveMine s
  .next (raiseAt s { code := 0x09, eval := i.setWidth 64 } (cx s).succ)

/-- BRK (R100): EPC is the BRK itself. -/
def execBrk (i : BitVec 6) (s : State) : Outcome State Fault Refusal :=
  .next (raise (dissolveMine s) { code := 0x0a, eval := i.setWidth 64 })

/-- ERET (R101). -/
def execEret (s : State) : Outcome State Fault Refusal :=
  let s := dissolveMine s
  finishTo s do
    needS s
    pure (returnSeq s)

/-- HALT (R104): the context stops for good, its state kept. -/
def execHalt (s : State) : Outcome State Fault Refusal :=
  let s := dissolveMine s
  finishTo s do
    needS s
    pure (setCx s { cx s with halted := true, last := .retired })

/-- WFE (R80, R105): a NOP in the handler context. -/
def execWfe (s : State) : Outcome State Fault Refusal :=
  let s := dissolveMine s
  match s.kind with
  | .handler => .next (retire s)
  | .task =>
    if eventPending s s.cur || (deliverable s s.cur).isSome then .next (retire s)
    else .next (waiting s .wfe)

/-- CSRD (R102). -/
def execCsrd (d : Spec) (csr : BitVec 10) (a : Spec) (s : State) : Outcome State Fault Refusal :=
  csrOp s d csr a none

/-- CSWR (R102). -/
def execCswr (d : Spec) (csr : BitVec 10) (a : Spec) (s : State) : Outcome State Fault Refusal :=
  csrOp s d csr a (some fun _ x => x)

/-- CSSET (R102). -/
def execCsset (d : Spec) (csr : BitVec 10) (a : Spec) (s : State) : Outcome State Fault Refusal :=
  csrOp s d csr a (some fun old x => old ||| x)

/-- CSCLR (R102). -/
def execCsclr (d : Spec) (csr : BitVec 10) (a : Spec) (s : State) : Outcome State Fault Refusal :=
  csrOp s d csr a (some fun old x => old &&& ~~~x)

/-- NOP (R106). -/
def execNop (s : State) : Outcome State Fault Refusal := .next (retire s)

/-- A hint executes as NOP (R45, R58). -/
def execHint (_ : BitVec 4) (s : State) : Outcome State Fault Refusal := .next (retire s)

/-- An unassigned opcode takes the illegal-instruction trap (R38, R57). -/
def execUnassignedOpcode (_ : BitVec 8) (s : State) : Outcome State Fault Refusal :=
  .next (raise s { code := 0x01, eval := (cx s).raw })

end Sys2Proof.Machine
end

