-- ==== Sys2Proof/Machine/Special.lean ====
section
/-!
DEFINITION. The special functions (R125 to R127). Each result is one of the values R125 allows: the
exact value is enclosed in fixed point, which gives the two neighbouring FP32 values, and the free
choice of Config says which of them the part returns (log 5).
-/
namespace Sys2Proof.Machine

/-- Fractional bits of the enclosures. -/
abbrev fxP : Nat := 320

/-- floor(π × 2^360) and floor(ln 2 × 2^360). -/
def piFx : Nat := 0x3243f6a8885a308d313198a2e03707344a4093822299f31d0082efa98ec4e6c89452821e638d01377be5466cf34
def ln2Fx : Nat := 0xb17217f7d1cf79abc9e3b39803f2f6af40f343267298b62d8a0d175b8baafa2be7b876206debac98559552fb4a

/-- Taylor sum of sin: `t` the current term, `y2` the square of the argument, `k` its index. -/
def sinGo (y2 : Nat) : Nat → Nat → Nat → Int → Int
  | 0, _, _, acc => acc
  | n + 1, k, t, acc =>
    let t' := (t * y2) >>> fxP
    let t'' := t' / ((k + 1) * (k + 2))
    sinGo y2 n (k + 2) t'' (acc + (if k % 4 = 1 then -(t'' : Int) else t''))

/-- sin(2π × num / 2^k) × 2^fxP for an argument in (0, 1/4). -/
def sinTurn (num k : Nat) : Nat :=
  let y := ((2 * piFx * num) >>> (360 - fxP)) >>> k
  (sinGo ((y * y) >>> fxP) 45 1 y y).toNat

/-- Taylor sum of exp at y, in fixed point. -/
def expGo (y : Nat) : Nat → Nat → Nat → Nat → Nat
  | 0, _, _, acc => acc
  | n + 1, k, t, acc =>
    let t' := ((t * y) >>> fxP) / k
    expGo y n (k + 1) t' (acc + t')

/-- e^y × 2^fxP. -/
def expFx (y : Nat) : Nat := expGo y 160 1 (2 ^ fxP) (2 ^ fxP)

/-- Series of 2 atanh w. -/
def atanhGo (w2 : Nat) : Nat → Nat → Nat → Nat → Nat
  | 0, _, _, acc => acc
  | n + 1, k, t, acc =>
    let t' := (t * w2) >>> fxP
    atanhGo w2 n (k + 2) t' (acc + t' / k)

/-- ln z × 2^fxP for z = num / 2^k in [1, 2). -/
def lnFx (num k : Nat) : Nat :=
  let w := ((num - 2 ^ k) <<< fxP) / (num + 2 ^ k)
  2 * atanhGo ((w * w) >>> fxP) 105 3 w w

/-- Half width of the enclosures in units of 2^-fxP. -/
def fxErr : Nat := 2 ^ 40

/-- FP32 code of a positive fixed-point number, cut toward zero. -/
def fxCode (v : Nat) (e : Int) : Nat :=
  if v = 0 then 0 else roundTo fp32 .rz false (.fin false v (e - fxP) true)

/-- A faithful result (R125) from an enclosure of a positive value (v ± fxErr) × 2^(e - fxP). -/
def faithful (op : Nat) (arg : BitVec 32) (v : Nat) (e : Int) : Nat :=
  fxCode (v - fxErr) e + (if Config.pickHi op arg then 1 else 0)

/-- |x| mod 1 as numerator and k, the value num / 2^k. -/
def fracTurn (m : Nat) (e : Int) : Nat × Nat :=
  if 0 ≤ e then (0, 0) else (m % 2 ^ (-e).toNat, (-e).toNat)

/-- VSIN on a code (R126). -/
def vsinC (c : Nat) : Nat :=
  match fp32.decode c with
  | .nan | .inf _ => fp32.nan
  | .fin neg m e _ =>
    let (f, k) := fracTurn m e
    let arg := BitVec.ofNat 32 (c % 2 ^ 31)
    if 2 * f = 0 ∨ 2 * f = 2 ^ k then fp32.sign neg
    else if 4 * f = 2 ^ k then fp32.sign neg + 0x3f800000
    else if 4 * f = 3 * 2 ^ k then fp32.sign (!neg) + 0x3f800000
    else
      let up := decide (2 * f < 2 ^ k)
      let g := if up then f else f - 2 ^ (k - 1)
      let h := if 4 * g < 2 ^ k then g else 2 ^ (k - 1) - g
      fp32.sign (neg != !up) + faithful 0 arg (sinTurn h k) 0

/-- VCOS on a code (R126). -/
def vcosC (c : Nat) : Nat :=
  match fp32.decode c with
  | .nan | .inf _ => fp32.nan
  | .fin _ m e _ =>
    let (f, k) := fracTurn m e
    let arg := BitVec.ofNat 32 (c % 2 ^ 31)
    if 2 * f = 0 then 0x3f800000
    else if 2 * f = 2 ^ k then 0xbf800000
    else if 4 * f = 2 ^ k ∨ 4 * f = 3 * 2 ^ k then 0
    else
      let g := if 2 * f < 2 ^ k then f else 2 ^ k - f
      if 4 * g < 2 ^ k then faithful 1 arg (sinTurn (2 ^ k - 4 * g) (k + 2)) 0
      else fp32.sign true + faithful 1 arg (sinTurn (4 * g - 2 ^ k) (k + 2)) 0

/-- VEXP2 on a code (R127). -/
def vexp2C (c : Nat) : Nat :=
  match fp32.decode c with
  | .nan => fp32.nan
  | .inf neg => if neg then 0 else fp32.infCode
  | .fin neg m e _ =>
    let k := (-e).toNat
    let num : Int := signed neg (m <<< e.toNat)
    let n : Int := num / (2 ^ k : Nat)
    let f := (num % (2 ^ k : Nat)).toNat
    if 128 ≤ n then fp32.infCode
    else if f = 0 ∧ -149 ≤ n then roundTo fp32 .ne false (.fin false 1 n false)
    else if n < -150 ∨ (n = -150 ∧ f = 0) then 0
    else if n = -150 then 1
    else
      let y := ((ln2Fx * f) >>> (360 - fxP)) >>> k
      faithful 2 (BitVec.ofNat 32 c) (expFx y) n

/-- VLOG2 on a code (R127). -/
def vlog2C (c : Nat) : Nat :=
  match fp32.decode c with
  | .nan => fp32.nan
  | .inf neg => if neg then fp32.nan else fp32.infCode
  | .fin neg m e _ =>
    if m = 0 then fp32.sign true + fp32.infCode
    else if neg then fp32.nan
    else
      let b := lg2 m
      let ex : Int := (b : Int) + e
      if m = 2 ^ b then roundTo fp32 .ne false (XVal.ofInt ex)
      else
        let l := (lnFx m b <<< 360) / ln2Fx
        let v : Int := (l : Int) + ex * (2 ^ fxP : Nat)
        fp32.sign (decide (v < 0)) + faithful 3 (BitVec.ofNat 32 c) v.natAbs 0

/-- VRCP on a code (R125, R127): correctly rounded. -/
def vrcpC (c : Nat) : Nat := roundTo fp32 .ne false (XVal.div (.fin false 1 0 false) (fp32.decode c))

/-- VRSQ on a code (R125, R127): correctly rounded. -/
def vrsqC (c : Nat) : Nat :=
  match fp32.decode c with
  | .nan => fp32.nan
  | .inf neg => if neg then fp32.nan else 0
  | .fin neg m e _ =>
    if m = 0 then fp32.sign neg + fp32.infCode
    else if neg then fp32.nan
    else
      let m' := if e % 2 = 0 then m else 2 * m
      let e' := if e % 2 = 0 then e else e - 1
      let h := 64 + lg2 m'
      let r := isqrt (2 ^ (2 * h) / m')
      roundTo fp32 .ne false (.fin false r (-(e' / 2) - h) (r * r * m' != 2 ^ (2 * h)))

/-- A finite positive FP32 code in fixed point. -/
def fxOf (c : Nat) : Nat :=
  match fp32.decode c with
  | .fin _ m e _ => if 0 ≤ e then m <<< (e.toNat + fxP) else (m <<< fxP) >>> (-e).toNat
  | _ => 0

/-- The ulp of R76 of a finite positive code, in fixed point. -/
def fxUlp (c : Nat) : Nat := fxOf (max (c / 2 ^ 23) 1 * 2 ^ 23 + 1) - fxOf (max (c / 2 ^ 23) 1 * 2 ^ 23)

/-- The codes within 2 ulp of an exact value v ± fxErr (R76, R125). -/
def within2 (v : Nat) : List Nat :=
  let lo := fxCode (v - fxErr) 0
  let u := fxUlp lo
  ((upto 9).map fun i => lo + i - 4).filter fun y =>
    decide (fxOf y ≤ v + 2 * u - fxErr) && decide (v + fxErr ≤ fxOf y + 2 * u)

/-- VTANH on a code (R125, R127): a value within 2 ulp, chosen by Config. -/
def vtanhC (c : Nat) : Nat :=
  match fp32.decode c with
  | .nan => fp32.nan
  | .inf neg => fp32.sign neg + 0x3f800000
  | .fin neg m e _ =>
    if m = 0 then fp32.sign neg
    else if fp32.val 0x41100000 ≤ fp32.val (c % 2 ^ 31) then fp32.sign neg + 0x3f800000
    else
      let x := if 0 ≤ e then m <<< (e.toNat + fxP) else (m <<< fxP) >>> (-e).toNat
      let q := expFx (2 * x)
      let t := ((q - 2 ^ fxP) <<< fxP) / (q + 2 ^ fxP)
      let ys := within2 t
      fp32.sign neg + (ys[Config.tanhPick (BitVec.ofNat 32 (c % 2 ^ 31)) % ys.length]?.getD (fxCode t 0))

end Sys2Proof.Machine
end

