-- ==== Sys2Proof/Machine/VectorFloat.lean ====
section
/-!
DEFINITION. Floating-point lane operations, conversions, reductions, dot products and special functions
(R75, R115, R116, R122 to R127).
-/
namespace Sys2Proof.Machine

open Host (Outcome)

/-- Lane width of a floating type. -/
def ftyBits (t : FTy) : Nat := (ftyFmt t).width

/-- A function on codes as a function on lanes. -/
def onCode {w : Nat} (f : Nat → Nat) (a : BitVec w) : BitVec w := BitVec.ofNat w (f a.toNat)
def onCode2 {w : Nat} (f : Nat → Nat → Nat) (a b : BitVec w) : BitVec w := BitVec.ofNat w (f a.toNat b.toNat)
def onCode3 {w : Nat} (f : Nat → Nat → Nat → Nat) (a b c : BitVec w) : BitVec w := BitVec.ofNat w (f a.toNat b.toNat c.toNat)

/-- VFADD (R115). -/
def execVfadd (fn : FTy) (d a b : Spec) (rx : RX) (s : State) : Outcome State Fault Refusal :=
  lanes2 s d a b rx .vec (ftyBits fn) (onCode2 ((ftyFmt fn).addC .ne))

/-- VFADD, scalar b (R51) (R115). -/
def execVfaddTwin (fn : FTy) (d a b : Spec) (rx : RX) (s : State) : Outcome State Fault Refusal :=
  lanes2 s d a b rx .scal (ftyBits fn) (onCode2 ((ftyFmt fn).addC .ne))

/-- VFSUB (R115). -/
def execVfsub (fn : FTy) (d a b : Spec) (rx : RX) (s : State) : Outcome State Fault Refusal :=
  lanes2 s d a b rx .vec (ftyBits fn) (onCode2 ((ftyFmt fn).subC .ne))

/-- VFSUB, scalar b (R51) (R115). -/
def execVfsubTwin (fn : FTy) (d a b : Spec) (rx : RX) (s : State) : Outcome State Fault Refusal :=
  lanes2 s d a b rx .scal (ftyBits fn) (onCode2 ((ftyFmt fn).subC .ne))

/-- VFMUL (R115). -/
def execVfmul (fn : FTy) (d a b : Spec) (rx : RX) (s : State) : Outcome State Fault Refusal :=
  lanes2 s d a b rx .vec (ftyBits fn) (onCode2 ((ftyFmt fn).mulC .ne))

/-- VFMUL, scalar b (R51) (R115). -/
def execVfmulTwin (fn : FTy) (d a b : Spec) (rx : RX) (s : State) : Outcome State Fault Refusal :=
  lanes2 s d a b rx .scal (ftyBits fn) (onCode2 ((ftyFmt fn).mulC .ne))

/-- VFMA (R115). -/
def execVfma (fn : FTy) (d a b : Spec) (rx : RX) (s : State) : Outcome State Fault Refusal :=
  lanes3 s d a b rx .vec (ftyBits fn) (onCode3 ((ftyFmt fn).fmaC .ne))

/-- VFMA, scalar b (R51) (R115). -/
def execVfmaTwin (fn : FTy) (d a b : Spec) (rx : RX) (s : State) : Outcome State Fault Refusal :=
  lanes3 s d a b rx .scal (ftyBits fn) (onCode3 ((ftyFmt fn).fmaC .ne))

/-- VFMS (R115). -/
def execVfms (fn : FTy) (d a b : Spec) (rx : RX) (s : State) : Outcome State Fault Refusal :=
  lanes3 s d a b rx .vec (ftyBits fn) (onCode3 ((ftyFmt fn).fmsC .ne))

/-- VFMS, scalar b (R51) (R115). -/
def execVfmsTwin (fn : FTy) (d a b : Spec) (rx : RX) (s : State) : Outcome State Fault Refusal :=
  lanes3 s d a b rx .scal (ftyBits fn) (onCode3 ((ftyFmt fn).fmsC .ne))

/-- VFNMA (R115). -/
def execVfnma (fn : FTy) (d a b : Spec) (rx : RX) (s : State) : Outcome State Fault Refusal :=
  lanes3 s d a b rx .vec (ftyBits fn) (onCode3 ((ftyFmt fn).fnmaC .ne))

/-- VFNMA, scalar b (R51) (R115). -/
def execVfnmaTwin (fn : FTy) (d a b : Spec) (rx : RX) (s : State) : Outcome State Fault Refusal :=
  lanes3 s d a b rx .scal (ftyBits fn) (onCode3 ((ftyFmt fn).fnmaC .ne))

/-- VFDIV (R115). -/
def execVfdiv (fn : FTy) (d a b : Spec) (rx : RX) (s : State) : Outcome State Fault Refusal :=
  lanes2 s d a b rx .vec (ftyBits fn) (onCode2 ((ftyFmt fn).divC .ne))

/-- VFDIV, scalar b (R51) (R115). -/
def execVfdivTwin (fn : FTy) (d a b : Spec) (rx : RX) (s : State) : Outcome State Fault Refusal :=
  lanes2 s d a b rx .scal (ftyBits fn) (onCode2 ((ftyFmt fn).divC .ne))

/-- VFSQRT (R115). -/
def execVfsqrt (fn : FTy) (d a : Spec) (rx : RX) (s : State) : Outcome State Fault Refusal :=
  lanes1 s d a rx (ftyBits fn) (onCode ((ftyFmt fn).sqrtC .ne))

/-- VFMIN (R115). -/
def execVfmin (fn : FTy) (d a b : Spec) (rx : RX) (s : State) : Outcome State Fault Refusal :=
  lanes2 s d a b rx .vec (ftyBits fn) (onCode2 ((ftyFmt fn).minMax false))

/-- VFMIN, scalar b (R51) (R115). -/
def execVfminTwin (fn : FTy) (d a b : Spec) (rx : RX) (s : State) : Outcome State Fault Refusal :=
  lanes2 s d a b rx .scal (ftyBits fn) (onCode2 ((ftyFmt fn).minMax false))

/-- VFMAX (R115). -/
def execVfmax (fn : FTy) (d a b : Spec) (rx : RX) (s : State) : Outcome State Fault Refusal :=
  lanes2 s d a b rx .vec (ftyBits fn) (onCode2 ((ftyFmt fn).minMax true))

/-- VFMAX, scalar b (R51) (R115). -/
def execVfmaxTwin (fn : FTy) (d a b : Spec) (rx : RX) (s : State) : Outcome State Fault Refusal :=
  lanes2 s d a b rx .scal (ftyBits fn) (onCode2 ((ftyFmt fn).minMax true))

/-- VFABS (R115). -/
def execVfabs (fn : FTy) (d a : Spec) (rx : RX) (s : State) : Outcome State Fault Refusal :=
  lanes1 s d a rx (ftyBits fn) fun x => x &&& (BitVec.allOnes _ >>> 1)

/-- VCLASS (R96, R115). -/
def execVclass (fn : FTy) (d a : Spec) (rx : RX) (s : State) : Outcome State Fault Refusal :=
  lanes1 s d a rx (ftyBits fn) (onCode (ftyFmt fn).classOf)

/-- VSIN (R125 to R127). -/
def execVsin (d a : Spec) (rx : RX) (s : State) : Outcome State Fault Refusal :=
  lanes1 s d a rx 32 (onCode vsinC)

/-- VCOS (R125 to R127). -/
def execVcos (d a : Spec) (rx : RX) (s : State) : Outcome State Fault Refusal :=
  lanes1 s d a rx 32 (onCode vcosC)

/-- VEXP2 (R125 to R127). -/
def execVexp2 (d a : Spec) (rx : RX) (s : State) : Outcome State Fault Refusal :=
  lanes1 s d a rx 32 (onCode vexp2C)

/-- VLOG2 (R125 to R127). -/
def execVlog2 (d a : Spec) (rx : RX) (s : State) : Outcome State Fault Refusal :=
  lanes1 s d a rx 32 (onCode vlog2C)

/-- VRCP (R125 to R127). -/
def execVrcp (d a : Spec) (rx : RX) (s : State) : Outcome State Fault Refusal :=
  lanes1 s d a rx 32 (onCode vrcpC)

/-- VRSQ (R125 to R127). -/
def execVrsq (d a : Spec) (rx : RX) (s : State) : Outcome State Fault Refusal :=
  lanes1 s d a rx 32 (onCode vrsqC)

/-- VTANH (R125 to R127). -/
def execVtanh (d a : Spec) (rx : RX) (s : State) : Outcome State Fault Refusal :=
  lanes1 s d a rx 32 (onCode vtanhC)

/-! Conversions (R122). -/

/-- Width of a result lane. -/
def cvtWidth : VCvt → Nat
  | .bfF | .hfF => 16
  | _ => 32

/-- One converted lane: i counts result lanes. -/
def cvtLane (k : VCvt) (md : RMode) (sat : Bool) (x : Vec) (i : Nat) : Nat :=
  match k with
  | .bfF => roundTo bf16 md sat (fp32.decode (lane x 32 i).toNat)
  | .hfF => roundTo fp16 md sat (fp32.decode (lane x 32 i).toNat)
  | .fBf => roundTo fp32 .ne false (bf16.decode (lane x 16 i).toNat)
  | .fHf => roundTo fp32 .ne false (fp16.decode (lane x 16 i).toNat)
  | .wF => (BitVec.ofInt 32 (toInteger md (-(2 ^ 31)) (2 ^ 31 - 1) (fp32.decode (lane x 32 i).toNat))).toNat
  | .fW => roundTo fp32 md sat (XVal.ofInt (lane x 32 i).toInt)

/-- The sixteen results of VCVT over the old destination; a narrowing form clears the upper half. -/
def cvtResult (k : VCvt) (md : RMode) (sat : Bool) (p : Word) (old x : Vec) : Vec :=
  let w := cvtWidth k
  ofLanes w 16 fun i => if laneOn p w i then BitVec.ofNat w (cvtLane k md sat x i) else lane old w i

/-- VCVT (R122). -/
def execVcvt (k : VCvt) (md : Rnd) (sat : Bool) (d a : Spec) (rx : RX) (s : State) : Outcome State Fault Refusal :=
  finish s do
    let ((x, _, _), s1) ← vecSrc s (.dstV d) a 0 rx .no false 8
    pure (putV s1 d.toNat (cvtResult k (Rnd.mode md) sat (govern s rx) (getV s d.toNat) x))

/-! Reductions (R75, R123). -/

/-- Identity of an integer reduction at width w. -/
def redUnit (op : RedOp) (w : Nat) : Int :=
  match op with
  | .add => 0
  | .min => 2 ^ (w - 1) - 1
  | .max => -(2 ^ (w - 1))

def redStep (op : RedOp) (a b : Int) : Int :=
  match op with
  | .add => a + b
  | .min => min a b
  | .max => max a b

/-- VRED's result: signed lanes, disabled lanes as the identity. -/
def redLanes (op : RedOp) (w : Nat) (p : Word) (x : Vec) : BitVec w :=
  BitVec.ofInt w ((upto (512 / w)).foldl (fun acc i => redStep op acc (if laneOn p w i then (lane x w i).toInt else redUnit op w)) (redUnit op w))

/-- VRED (R123). -/
def execVred (fn : VRedK) (d a : Spec) (rx : RX) (s : State) : Outcome State Fault Refusal :=
  finish s do
    let ((x, _, _), s1) ← vecSrc s (.dstV d) a 0 rx .no false 8
    pure (putV s1 d.toNat ((redLanes fn.op (laneBits fn.w) (govern s rx) x).setWidth 512))

/-- Identity of a floating reduction as an FP32 code (R75). -/
def fredUnit : RedOp → Nat
  | .add => 0x80000000
  | .min => 0x7f800000
  | .max => 0xff800000

def fredStep (op : RedOp) (a b : Nat) : Nat :=
  match op with
  | .add => fp32.addC .ne a b
  | .min => fp32.minMax false a b
  | .max => fp32.minMax true a b

/-- One level of the tree. -/
def fredLevel (op : RedOp) : List Nat → List Nat
  | a :: b :: r => fredStep op a b :: fredLevel op r
  | r => r

/-- n levels of the tree. -/
def fredTree (op : RedOp) : Nat → List Nat → List Nat
  | 0, l => l
  | n + 1, l => fredTree op n (fredLevel op l)

/-- VFRED's result (R75, R123). -/
def fredLanes (op : RedOp) (t : FTy) (p : Word) (x : Vec) : Nat :=
  let w := ftyBits t
  let l := (upto (512 / w)).map fun i =>
    if laneOn p w i then roundTo fp32 .ne false ((ftyFmt t).decode (lane x w i).toNat) else fredUnit op
  roundTo (ftyFmt t) .ne false (fp32.decode ((fredTree op 5 l).headD 0))

/-- VFRED (R75, R123). -/
def execVfred (fn : VFRedK) (d a : Spec) (rx : RX) (s : State) : Outcome State Fault Refusal :=
  finish s do
    let ((x, _, _), s1) ← vecSrc s (.dstV d) a 0 rx .no false 8
    pure (putV s1 d.toNat (BitVec.ofNat 512 (fredLanes fn.op fn.ty (govern s rx) x)))

/-! Dot products (R124). -/

/-- Value of a byte of a dot product. -/
def dotByte (k : DotK) (x : BitVec 8) : Int :=
  match k with
  | .s => x.toInt
  | .u => x.toNat

/-- Lane i of VDOT. -/
def dotLane (k : DotK) (x y z : Vec) (i : Nat) : BitVec 32 :=
  BitVec.ofInt 32 ((upto 4).foldl (fun acc j => acc + dotByte k (lane x 8 (4 * i + j)) * dotByte k (lane y 8 (4 * i + j))) (lane z 32 i).toInt)

/-- Lane i of VFDOT. -/
def fdotLane (k : FDotK) (x y z : Vec) (i : Nat) : BitVec 32 :=
  let f := match k with
    | .bf => bf16
    | .hf => fp16
  let pr := fun j => XVal.mul (f.decode (lane x 16 (2 * i + j)).toNat) (f.decode (lane y 16 (2 * i + j)).toNat)
  applySliceF (lane z 32 i) [pr 0, pr 1]

/-- VDOT (R124). -/
def execVdot (fn : DotK) (d a b : Spec) (rx : RX) (s : State) : Outcome State Fault Refusal :=
  vecOp s d a b rx .vec true 32 32 fun x y z => ofLanes 32 16 (dotLane fn x y z)

/-- VDOT, scalar b (R51) (R124). -/
def execVdotTwin (fn : DotK) (d a b : Spec) (rx : RX) (s : State) : Outcome State Fault Refusal :=
  vecOp s d a b rx .scal true 32 32 fun x y z => ofLanes 32 16 (dotLane fn x y z)

/-- VFDOT (R124). -/
def execVfdot (fn : FDotK) (d a b : Spec) (rx : RX) (s : State) : Outcome State Fault Refusal :=
  vecOp s d a b rx .vec true 32 32 fun x y z => ofLanes 32 16 (fdotLane fn x y z)

/-- VFDOT, scalar b (R51) (R124). -/
def execVfdotTwin (fn : FDotK) (d a b : Spec) (rx : RX) (s : State) : Outcome State Fault Refusal :=
  vecOp s d a b rx .scal true 32 32 fun x y z => ofLanes 32 16 (fdotLane fn x y z)

end Sys2Proof.Machine
end

