-- ==== Sys2Proof/Machine/VectorMove.lean ====
section
/-!
DEFINITION. Comparisons, selection, predicates, moves and permutes (R117 to R121).
-/
namespace Sys2Proof.Machine

open Host (Outcome)

/-- A predicate with the bits of enabled lanes set by a relation (R117). -/
def cmpBits (w : Nat) (p old : Word) (rel : Nat → Bool) : Word :=
  BitVec.ofNat 64 (wordOfBits (fun j => let i := j / (w / 8); if laneOn p w i then rel i else bit old j) 64)

/-- A comparison of lanes into a predicate register. -/
def cmpOp (s : State) (d a b : Spec) (rx : RX) (u : BUse) (w : Nat) (rel : BitVec w → BitVec w → Bool) : Outcome State Fault Refusal :=
  finish s do
    let ((x, y, _), s1) ← vecSrc s (.pred d) a b rx u false w
    pure (putM s1 d.toNat (cmpBits w (govern s rx) (getM s d.toNat) fun i => rel (lane x w i) (lane y w i)))

def relInt (r : IRel) {w : Nat} (a b : BitVec w) : Bool :=
  match r with
  | .eq => a == b
  | .ne => a != b
  | .lt => a.slt b
  | .ltu => a.ult b

def relFloat (r : FRel) (f : Fmt) {w : Nat} (a b : BitVec w) : Bool := f.rel r a.toNat b.toNat

/-- VCMP (R117). -/
def execVcmp (fn : VRel) (d a b : Spec) (rx : RX) (s : State) : Outcome State Fault Refusal :=
  cmpOp s d a b rx .vec (laneBits fn.w) (relInt fn.rel)

/-- VCMP, scalar b (R51) (R117). -/
def execVcmpTwin (fn : VRel) (d a b : Spec) (rx : RX) (s : State) : Outcome State Fault Refusal :=
  cmpOp s d a b rx .scal (laneBits fn.w) (relInt fn.rel)

/-- VFCMP (R117). -/
def execVfcmp (fn : VFRel) (d a b : Spec) (rx : RX) (s : State) : Outcome State Fault Refusal :=
  cmpOp s d a b rx .vec (ftyFmt fn.ty).width (relFloat fn.rel (ftyFmt fn.ty))

/-- VFCMP, scalar b (R51) (R117). -/
def execVfcmpTwin (fn : VFRel) (d a b : Spec) (rx : RX) (s : State) : Outcome State Fault Refusal :=
  cmpOp s d a b rx .scal (ftyFmt fn.ty).width (relFloat fn.rel (ftyFmt fn.ty))

/-- VSEL: the predicate selects (R118). -/
def execVsel (d a b : Spec) (rx : RX) (s : State) : Outcome State Fault Refusal :=
  finish s do
    let ((x, y, _), s1) ← vecSrc s (.dstV d) a b rx .vec false 8
    pure (putV s1 d.toNat (mergeLanes 8 (govern s rx) y x))

/-- The shape of MAND, MOR and MXOR (R119). -/
def predOp (s : State) (d a b : Spec) (f : Word → Word → Word) : Outcome State Fault Refusal :=
  finish s do
    checkUses [.pred d, .pred a, .pred b]
    pure (putM s d.toNat (f (getM s a.toNat) (getM s b.toNat)))

/-- MAND (R119). -/
def execMand (d a b : Spec) (s : State) : Outcome State Fault Refusal := predOp s d a b (· &&& ·)

/-- MOR (R119). -/
def execMor (d a b : Spec) (s : State) : Outcome State Fault Refusal := predOp s d a b (· ||| ·)

/-- MXOR (R119). -/
def execMxor (d a b : Spec) (s : State) : Outcome State Fault Refusal := predOp s d a b (· ^^^ ·)

/-- MNOT (R119). -/
def execMnot (d a : Spec) (s : State) : Outcome State Fault Refusal :=
  finish s do
    checkUses [.pred d, .pred a]
    pure (putM s d.toNat (~~~ getM s a.toNat))

/-- MPOP (R119). -/
def execMpop (d a : Spec) (s : State) : Outcome State Fault Refusal :=
  finish s do
    checkUses [.dstS d, .pred a]
    checkRoles s [.dstS d]
    writeS s d (popcW (getM s a.toNat))

/-- VSPLAT (R120). -/
def execVsplat (fn : LaneW) (d a : Spec) (rx : RX) (s : State) : Outcome State Fault Refusal :=
  finish s do
    let w := laneBits fn
    checkUses [.dstV d, .srcS a]
    checkRX s rx none none none
    checkRoles s [.srcS a]
    let (x, s1) ← readS s a
    pure (putV s1 d.toNat (mergeLanes w (govern s rx) (getV s d.toNat) (ofLanes w (512 / w) fun _ => x.setWidth w)))

/-- idx(k) (R120). -/
def laneIdx (w k : Nat) : Nat := k % (512 / w)

/-- VMOVS: under the enable of lane 0; disabled, it appends nothing (R42, R120, R121; log 58). -/
def execVmovs (fn : LaneW) (d a : Spec) (rx : RX) (s : State) : Outcome State Fault Refusal :=
  finish s do
    let w := laneBits fn
    let ((x, _, _), s1) ← vecSrc s (.dstS d) a 0 rx .no false 8
    if laneOn (govern s rx) w 0 then writeS s1 d ((lane x w 0).setWidth 64) else pure s1

/-- VEXT: under the enable of the lane it reads; disabled, it appends nothing (R42, R120, R121; log 58). -/
def execVext (fn : LaneW) (d a b : Spec) (rx : RX) (s : State) : Outcome State Fault Refusal :=
  finish s do
    let w := laneBits fn
    checkUses [.dstS d, .srcV a, .srcS b]
    checkRX s rx (some a) none none
    checkRoles s [.srcV a, .srcS b, .dstS d]
    let (x, s1) ← readVG s rx 1 a
    let (k, s2) ← readS s1 b
    let i := laneIdx w k.toNat
    if laneOn (govern s rx) w i then writeS s2 d ((lane x w i).setWidth 64) else pure s2

/-- VINS (R120). -/
def execVins (fn : LaneW) (d a b : Spec) (rx : RX) (s : State) : Outcome State Fault Refusal :=
  finish s do
    let w := laneBits fn
    checkUses [.dstV d, .srcV a, .srcS b]
    checkRX s rx (some a) none none
    checkRoles s [.srcV a, .srcS b]
    let (x, s1) ← readVG s rx 1 a
    let (y, s2) ← readS s1 b
    let r := ofLanes w (512 / w) fun i => if i = 0 then y.setWidth w else lane x w (i - 1)
    pure (putV s2 d.toNat (mergeLanes w (govern s rx) (getV s d.toNat) r))

/-- VPERM (R120). -/
def execVperm (fn : LaneW) (d a b : Spec) (rx : RX) (s : State) : Outcome State Fault Refusal :=
  let w := laneBits fn
  vecOp s d a b rx .vec false w w fun x y _ => ofLanes w (512 / w) fun i => lane x w (laneIdx w (lane y w i).toNat)

/-- VPSWP (R120). -/
def execVpswp (fn : LaneW) (d a : Spec) (rx : RX) (s : State) : Outcome State Fault Refusal :=
  let w := laneBits fn
  vecOp s d a 0 rx .no false w w fun x _ _ => ofLanes w (512 / w) fun i => lane x w (if i % 2 = 0 then i + 1 else i - 1)

/-- VZIP (R120). -/
def execVzip (fn : LaneW) (d a b : Spec) (rx : RX) (s : State) : Outcome State Fault Refusal :=
  let w := laneBits fn
  vecOp s d a b rx .vec false w w fun x y _ => ofLanes w (512 / w) fun i => lane (if i % 2 = 0 then x else y) w (i / 2)

/-- VUZP (R120). -/
def execVuzp (fn : LaneW) (d a b : Spec) (rx : RX) (s : State) : Outcome State Fault Refusal :=
  let w := laneBits fn
  let h := 512 / w / 2
  vecOp s d a b rx .vec false w w fun x y _ => ofLanes w (512 / w) fun i => if i < h then lane x w (2 * i) else lane y w (2 * (i - h))

end Sys2Proof.Machine
end

