-- ==== Sys2Proof/Machine/Dispatch.lean ====
section
/-!
DEFINITION. One arm per instruction and per event of the opcode table, each one call of its meaning.
-/
namespace Sys2Proof.Machine

def exec (i : Instr) (s : State) : Host.Outcome State Fault Refusal :=
  match i with
  | .trap imm => Sys2Proof.Machine.execTrap imm s
  | .brk imm => Sys2Proof.Machine.execBrk imm s
  | .eret => Sys2Proof.Machine.execEret s
  | .halt => Sys2Proof.Machine.execHalt s
  | .wfe => Sys2Proof.Machine.execWfe s
  | .csrd d csr a => Sys2Proof.Machine.execCsrd d csr a s
  | .cswr d csr a => Sys2Proof.Machine.execCswr d csr a s
  | .csset d csr a => Sys2Proof.Machine.execCsset d csr a s
  | .csclr d csr a => Sys2Proof.Machine.execCsclr d csr a s
  | .ldi d imm => Sys2Proof.Machine.execLdi d imm s
  | .ldih d imm => Sys2Proof.Machine.execLdih d imm s
  | .mov d a => Sys2Proof.Machine.execMov d a s
  | .lea d m => Sys2Proof.Machine.execLea d m s
  | .coord d a imm => Sys2Proof.Machine.execCoord d a imm s
  | .widx d a imm => Sys2Proof.Machine.execWidx d a imm s
  | .add d a b => Sys2Proof.Machine.execAdd d a b s
  | .addi d a imm => Sys2Proof.Machine.execAddi d a imm s
  | .sub d a b => Sys2Proof.Machine.execSub d a b s
  | .mul d a b => Sys2Proof.Machine.execMul d a b s
  | .mulh d a b => Sys2Proof.Machine.execMulh d a b s
  | .mulhu d a b => Sys2Proof.Machine.execMulhu d a b s
  | .div d a b => Sys2Proof.Machine.execDiv d a b s
  | .divu d a b => Sys2Proof.Machine.execDivu d a b s
  | .rem d a b => Sys2Proof.Machine.execRem d a b s
  | .remu d a b => Sys2Proof.Machine.execRemu d a b s
  | .and d a b => Sys2Proof.Machine.execAnd d a b s
  | .andi d a imm => Sys2Proof.Machine.execAndi d a imm s
  | .or d a b => Sys2Proof.Machine.execOr d a b s
  | .ori d a imm => Sys2Proof.Machine.execOri d a imm s
  | .xor d a b => Sys2Proof.Machine.execXor d a b s
  | .xori d a imm => Sys2Proof.Machine.execXori d a imm s
  | .shl d a b => Sys2Proof.Machine.execShl d a b s
  | .shli d a imm => Sys2Proof.Machine.execShli d a imm s
  | .shr d a b => Sys2Proof.Machine.execShr d a b s
  | .shri d a imm => Sys2Proof.Machine.execShri d a imm s
  | .sar d a b => Sys2Proof.Machine.execSar d a b s
  | .sari d a imm => Sys2Proof.Machine.execSari d a imm s
  | .min d a b => Sys2Proof.Machine.execMin d a b s
  | .max d a b => Sys2Proof.Machine.execMax d a b s
  | .minu d a b => Sys2Proof.Machine.execMinu d a b s
  | .maxu d a b => Sys2Proof.Machine.execMaxu d a b s
  | .seq d a b => Sys2Proof.Machine.execSeq d a b s
  | .sne d a b => Sys2Proof.Machine.execSne d a b s
  | .slt d a b => Sys2Proof.Machine.execSlt d a b s
  | .slti d a imm => Sys2Proof.Machine.execSlti d a imm s
  | .sltu d a b => Sys2Proof.Machine.execSltu d a b s
  | .sel d a b c => Sys2Proof.Machine.execSel d a b c s
  | .clz d a => Sys2Proof.Machine.execClz d a s
  | .ctz d a => Sys2Proof.Machine.execCtz d a s
  | .popc d a => Sys2Proof.Machine.execPopc d a s
  | .brev d a => Sys2Proof.Machine.execBrev d a s
  | .bswap d a => Sys2Proof.Machine.execBswap d a s
  | .bfx d a b => Sys2Proof.Machine.execBfx d a b s
  | .bfxu d a b => Sys2Proof.Machine.execBfxu d a b s
  | .bfi d a b => Sys2Proof.Machine.execBfi d a b s
  | .sext fn d a => Sys2Proof.Machine.execSext fn d a s
  | .zext fn d a => Sys2Proof.Machine.execZext fn d a s
  | .addra d a b => Sys2Proof.Machine.execAddra d a b s
  | .b t => Sys2Proof.Machine.execB t s
  | .beq a b t => Sys2Proof.Machine.execBeq a b t s
  | .bne a b t => Sys2Proof.Machine.execBne a b t s
  | .blt a b t => Sys2Proof.Machine.execBlt a b t s
  | .bge a b t => Sys2Proof.Machine.execBge a b t s
  | .bltu a b t => Sys2Proof.Machine.execBltu a b t s
  | .bgeu a b t => Sys2Proof.Machine.execBgeu a b t s
  | .call a t => Sys2Proof.Machine.execCall a t s
  | .callr d a => Sys2Proof.Machine.execCallr d a s
  | .bz a t => Sys2Proof.Machine.execBz a t s
  | .bnz a t => Sys2Proof.Machine.execBnz a t s
  | .loop a t => Sys2Proof.Machine.execLoop a t s
  | .jr a => Sys2Proof.Machine.execJr a s
  | .ret a => Sys2Proof.Machine.execRet a s
  | .fadd fn d a b => Sys2Proof.Machine.execFadd fn d a b s
  | .fsub fn d a b => Sys2Proof.Machine.execFsub fn d a b s
  | .fmul fn d a b => Sys2Proof.Machine.execFmul fn d a b s
  | .ffma fn d a b c => Sys2Proof.Machine.execFfma fn d a b c s
  | .fdiv fn d a b => Sys2Proof.Machine.execFdiv fn d a b s
  | .fsqrt fn d a => Sys2Proof.Machine.execFsqrt fn d a s
  | .fmin d a b => Sys2Proof.Machine.execFmin d a b s
  | .fmax d a b => Sys2Proof.Machine.execFmax d a b s
  | .fcmp fn d a b => Sys2Proof.Machine.execFcmp fn d a b s
  | .fcvt fn d a => Sys2Proof.Machine.execFcvt fn d a s
  | .fclass d a => Sys2Proof.Machine.execFclass d a s
  | .ld fn d m => Sys2Proof.Machine.execLd fn d m s
  | .ldu fn d m => Sys2Proof.Machine.execLdu fn d m s
  | .st fn d m => Sys2Proof.Machine.execSt fn d m s
  | .ldacq fn sc d m => Sys2Proof.Machine.execLdacq fn sc d m s
  | .strel fn sc d m => Sys2Proof.Machine.execStrel fn sc d m s
  | .amo fn sc d m c => Sys2Proof.Machine.execAmo fn sc d m c s
  | .amofar fn sc d m c => Sys2Proof.Machine.execAmofar fn sc d m c s
  | .cas fn sc d m c => Sys2Proof.Machine.execCas fn sc d m c s
  | .casfar fn sc d m c => Sys2Proof.Machine.execCasfar fn sc d m c s
  | .amof sc d m c => Sys2Proof.Machine.execAmof sc d m c s
  | .red fn d m => Sys2Proof.Machine.execRed fn d m s
  | .merge d m => Sys2Proof.Machine.execMerge d m s
  | .fence sc => Sys2Proof.Machine.execFence sc s
  | .fenceRs => Sys2Proof.Machine.execFenceRs s
  | .bind sc d m => Sys2Proof.Machine.execBind sc d m s
  | .waita fn sc d m => Sys2Proof.Machine.execWaita fn sc d m s
  | .pref ex m => Sys2Proof.Machine.execPref ex m s
  | .cwb m => Sys2Proof.Machine.execCwb m s
  | .cinv m => Sys2Proof.Machine.execCinv m s
  | .gang imm => Sys2Proof.Machine.execGang imm s
  | .split => Sys2Proof.Machine.execSplit s
  | .send d m => Sys2Proof.Machine.execSend d m s
  | .sendv d m rx => Sys2Proof.Machine.execSendv d m rx s
  | .spawn d m => Sys2Proof.Machine.execSpawn d m s
  | .sbind d a imm => Sys2Proof.Machine.execSbind d a imm s
  | .sunbind d imm => Sys2Proof.Machine.execSunbind d imm s
  | .rqadd d a b => Sys2Proof.Machine.execRqadd d a b s
  | .rqtake d => Sys2Proof.Machine.execRqtake d s
  | .rqpeek d a b => Sys2Proof.Machine.execRqpeek d a b s
  | .steal d a b => Sys2Proof.Machine.execSteal d a b s
  | .texit => Sys2Proof.Machine.execTexit s
  | .yield => Sys2Proof.Machine.execYield s
  | .hret => Sys2Proof.Machine.execHret s
  | .tmset d a => Sys2Proof.Machine.execTmset d a s
  | .pause a imm => Sys2Proof.Machine.execPause a imm s
  | .binit d a imm => Sys2Proof.Machine.execBinit d a imm s
  | .barv m => Sys2Proof.Machine.execBarv m s
  | .bwait d a imm => Sys2Proof.Machine.execBwait d a imm s
  | .btest d imm => Sys2Proof.Machine.execBtest d imm s
  | .bexp d a imm => Sys2Proof.Machine.execBexp d a imm s
  | .slotf a => Sys2Proof.Machine.execSlotf a s
  | .copy d m => Sys2Proof.Machine.execCopy d m s
  | .copy2 d m => Sys2Proof.Machine.execCopy2 d m s
  | .copyx d m => Sys2Proof.Machine.execCopyx d m s
  | .copym d m => Sys2Proof.Machine.execCopym d m s
  | .conv d m => Sys2Proof.Machine.execConv d m s
  | .mview d a => Sys2Proof.Machine.execMview d a s
  | .mviewSv d a f => Sys2Proof.Machine.execMviewSv d a f s
  | .mzero a => Sys2Proof.Machine.execMzero a s
  | .mma d a b c => Sys2Proof.Machine.execMma d a b c s
  | .mmax d a b c => Sys2Proof.Machine.execMmax d a b c s
  | .mmas d a b c => Sys2Proof.Machine.execMmas d a b c s
  | .mmar d a b c => Sys2Proof.Machine.execMmar d a b c s
  | .mprog d a => Sys2Proof.Machine.execMprog d a s
  | .mwait a => Sys2Proof.Machine.execMwait a s
  | .vadd fn d a b rx => Sys2Proof.Machine.execVadd fn d a b rx s
  | .vaddTwin fn d a b rx => Sys2Proof.Machine.execVaddTwin fn d a b rx s
  | .vsub fn d a b rx => Sys2Proof.Machine.execVsub fn d a b rx s
  | .vsubTwin fn d a b rx => Sys2Proof.Machine.execVsubTwin fn d a b rx s
  | .vmul fn d a b rx => Sys2Proof.Machine.execVmul fn d a b rx s
  | .vmulTwin fn d a b rx => Sys2Proof.Machine.execVmulTwin fn d a b rx s
  | .vmulh fn d a b rx => Sys2Proof.Machine.execVmulh fn d a b rx s
  | .vmulhTwin fn d a b rx => Sys2Proof.Machine.execVmulhTwin fn d a b rx s
  | .vmadd fn d a b rx => Sys2Proof.Machine.execVmadd fn d a b rx s
  | .vmaddTwin fn d a b rx => Sys2Proof.Machine.execVmaddTwin fn d a b rx s
  | .vand d a b rx => Sys2Proof.Machine.execVand d a b rx s
  | .vandTwin d a b rx => Sys2Proof.Machine.execVandTwin d a b rx s
  | .vor d a b rx => Sys2Proof.Machine.execVor d a b rx s
  | .vorTwin d a b rx => Sys2Proof.Machine.execVorTwin d a b rx s
  | .vxor d a b rx => Sys2Proof.Machine.execVxor d a b rx s
  | .vxorTwin d a b rx => Sys2Proof.Machine.execVxorTwin d a b rx s
  | .vshl fn d a b rx => Sys2Proof.Machine.execVshl fn d a b rx s
  | .vshlTwin fn d a b rx => Sys2Proof.Machine.execVshlTwin fn d a b rx s
  | .vshr fn d a b rx => Sys2Proof.Machine.execVshr fn d a b rx s
  | .vshrTwin fn d a b rx => Sys2Proof.Machine.execVshrTwin fn d a b rx s
  | .vsar fn d a b rx => Sys2Proof.Machine.execVsar fn d a b rx s
  | .vsarTwin fn d a b rx => Sys2Proof.Machine.execVsarTwin fn d a b rx s
  | .vmin fn d a b rx => Sys2Proof.Machine.execVmin fn d a b rx s
  | .vminTwin fn d a b rx => Sys2Proof.Machine.execVminTwin fn d a b rx s
  | .vmax fn d a b rx => Sys2Proof.Machine.execVmax fn d a b rx s
  | .vmaxTwin fn d a b rx => Sys2Proof.Machine.execVmaxTwin fn d a b rx s
  | .vabs fn d a rx => Sys2Proof.Machine.execVabs fn d a rx s
  | .vneg fn d a rx => Sys2Proof.Machine.execVneg fn d a rx s
  | .vfadd fn d a b rx => Sys2Proof.Machine.execVfadd fn d a b rx s
  | .vfaddTwin fn d a b rx => Sys2Proof.Machine.execVfaddTwin fn d a b rx s
  | .vfsub fn d a b rx => Sys2Proof.Machine.execVfsub fn d a b rx s
  | .vfsubTwin fn d a b rx => Sys2Proof.Machine.execVfsubTwin fn d a b rx s
  | .vfmul fn d a b rx => Sys2Proof.Machine.execVfmul fn d a b rx s
  | .vfmulTwin fn d a b rx => Sys2Proof.Machine.execVfmulTwin fn d a b rx s
  | .vfma fn d a b rx => Sys2Proof.Machine.execVfma fn d a b rx s
  | .vfmaTwin fn d a b rx => Sys2Proof.Machine.execVfmaTwin fn d a b rx s
  | .vfms fn d a b rx => Sys2Proof.Machine.execVfms fn d a b rx s
  | .vfmsTwin fn d a b rx => Sys2Proof.Machine.execVfmsTwin fn d a b rx s
  | .vfnma fn d a b rx => Sys2Proof.Machine.execVfnma fn d a b rx s
  | .vfnmaTwin fn d a b rx => Sys2Proof.Machine.execVfnmaTwin fn d a b rx s
  | .vfdiv fn d a b rx => Sys2Proof.Machine.execVfdiv fn d a b rx s
  | .vfdivTwin fn d a b rx => Sys2Proof.Machine.execVfdivTwin fn d a b rx s
  | .vfsqrt fn d a rx => Sys2Proof.Machine.execVfsqrt fn d a rx s
  | .vfmin fn d a b rx => Sys2Proof.Machine.execVfmin fn d a b rx s
  | .vfminTwin fn d a b rx => Sys2Proof.Machine.execVfminTwin fn d a b rx s
  | .vfmax fn d a b rx => Sys2Proof.Machine.execVfmax fn d a b rx s
  | .vfmaxTwin fn d a b rx => Sys2Proof.Machine.execVfmaxTwin fn d a b rx s
  | .vfabs fn d a rx => Sys2Proof.Machine.execVfabs fn d a rx s
  | .vcmp fn d a b rx => Sys2Proof.Machine.execVcmp fn d a b rx s
  | .vcmpTwin fn d a b rx => Sys2Proof.Machine.execVcmpTwin fn d a b rx s
  | .vfcmp fn d a b rx => Sys2Proof.Machine.execVfcmp fn d a b rx s
  | .vfcmpTwin fn d a b rx => Sys2Proof.Machine.execVfcmpTwin fn d a b rx s
  | .vsel d a b rx => Sys2Proof.Machine.execVsel d a b rx s
  | .vcvt k md sat d a rx => Sys2Proof.Machine.execVcvt k md sat d a rx s
  | .vsplat fn d a rx => Sys2Proof.Machine.execVsplat fn d a rx s
  | .vmovs fn d a rx => Sys2Proof.Machine.execVmovs fn d a rx s
  | .vext fn d a b rx => Sys2Proof.Machine.execVext fn d a b rx s
  | .vins fn d a b rx => Sys2Proof.Machine.execVins fn d a b rx s
  | .vperm fn d a b rx => Sys2Proof.Machine.execVperm fn d a b rx s
  | .vpswp fn d a rx => Sys2Proof.Machine.execVpswp fn d a rx s
  | .vrot fn d a b rx => Sys2Proof.Machine.execVrot fn d a b rx s
  | .vzip fn d a b rx => Sys2Proof.Machine.execVzip fn d a b rx s
  | .vuzp fn d a b rx => Sys2Proof.Machine.execVuzp fn d a b rx s
  | .vred fn d a rx => Sys2Proof.Machine.execVred fn d a rx s
  | .vfred fn d a rx => Sys2Proof.Machine.execVfred fn d a rx s
  | .vdot fn d a b rx => Sys2Proof.Machine.execVdot fn d a b rx s
  | .vdotTwin fn d a b rx => Sys2Proof.Machine.execVdotTwin fn d a b rx s
  | .vfdot fn d a b rx => Sys2Proof.Machine.execVfdot fn d a b rx s
  | .vfdotTwin fn d a b rx => Sys2Proof.Machine.execVfdotTwin fn d a b rx s
  | .vsin d a rx => Sys2Proof.Machine.execVsin d a rx s
  | .vcos d a rx => Sys2Proof.Machine.execVcos d a rx s
  | .vexp2 d a rx => Sys2Proof.Machine.execVexp2 d a rx s
  | .vlog2 d a rx => Sys2Proof.Machine.execVlog2 d a rx s
  | .vrcp d a rx => Sys2Proof.Machine.execVrcp d a rx s
  | .vrsq d a rx => Sys2Proof.Machine.execVrsq d a rx s
  | .vtanh d a rx => Sys2Proof.Machine.execVtanh d a rx s
  | .vclass fn d a rx => Sys2Proof.Machine.execVclass fn d a rx s
  | .vld d m rx => Sys2Proof.Machine.execVld d m rx s
  | .vst d m rx => Sys2Proof.Machine.execVst d m rx s
  | .vlds fn d m rx => Sys2Proof.Machine.execVlds fn d m rx s
  | .vsts fn d m rx => Sys2Proof.Machine.execVsts fn d m rx s
  | .vgath fn d m rx => Sys2Proof.Machine.execVgath fn d m rx s
  | .vscat fn d m rx => Sys2Proof.Machine.execVscat fn d m rx s
  | .mand d a b => Sys2Proof.Machine.execMand d a b s
  | .mor d a b => Sys2Proof.Machine.execMor d a b s
  | .mxor d a b => Sys2Proof.Machine.execMxor d a b s
  | .mnot d a => Sys2Proof.Machine.execMnot d a s
  | .mpop d a => Sys2Proof.Machine.execMpop d a s
  | .nop => Sys2Proof.Machine.execNop s
  | .hint k => Sys2Proof.Machine.execHint k s
  | .unassignedOpcode op => Sys2Proof.Machine.execUnassignedOpcode op s
  | .asyncEventEntry k => Sys2Proof.Machine.execAsyncEventEntry k s
  | .timerExpiry k => Sys2Proof.Machine.execTimerExpiry k s
  | .wfeWake k => Sys2Proof.Machine.execWfeWake k s
  | .leafFill k h va => Sys2Proof.Machine.execLeafFill k h va s
  | .coreRelease k => Sys2Proof.Machine.execCoreRelease k s
  | .csrWrite k h csr v => Sys2Proof.Machine.execCsrWrite k h csr v s
  | .timecmpWrite k v => Sys2Proof.Machine.execTimecmpWrite k v s
  | .qmapWrite t v => Sys2Proof.Machine.execQmapWrite t v s
  | .tkillWrite k v => Sys2Proof.Machine.execTkillWrite k v s
  | .deathTrapEntry k => Sys2Proof.Machine.execDeathTrapEntry k s
  | .deathPurgeComplete tag => Sys2Proof.Machine.execDeathPurgeComplete tag s
  | .mprogStopRequest k => Sys2Proof.Machine.execMprogStopRequest k s
  | .mprogVClear k => Sys2Proof.Machine.execMprogVClear k s
  | .linkWordArrival k d => Sys2Proof.Machine.execLinkWordArrival k d s
  | .gangFormation k => Sys2Proof.Machine.execGangFormation k s
  | .launchAccept k => Sys2Proof.Machine.execLaunchAccept k s
  | .activeMessageArrival src k => Sys2Proof.Machine.execActiveMessageArrival src k s
  | .remoteAtomicApply k => Sys2Proof.Machine.execRemoteAtomicApply k s
  | .barrierArrival k => Sys2Proof.Machine.execBarrierArrival k s
  | .bwaitResume k h => Sys2Proof.Machine.execBwaitResume k h s
  | .copyxRequest k => Sys2Proof.Machine.execCopyxRequest k s
  | .handlerActivation k => Sys2Proof.Machine.execHandlerActivation k s
  | .handlerBudgetExpiry k => Sys2Proof.Machine.execHandlerBudgetExpiry k s
  | .streamWordArrival src k => Sys2Proof.Machine.execStreamWordArrival src k s
  | .streamReduceApply k e => Sys2Proof.Machine.execStreamReduceApply k e s
  | .streamEosActivation k e => Sys2Proof.Machine.execStreamEosActivation k e s
  | .streamCreditReturn k => Sys2Proof.Machine.execStreamCreditReturn k s
  | .messageRefusalArrival k => Sys2Proof.Machine.execMessageRefusalArrival k s
  | .slotReturnArrival k => Sys2Proof.Machine.execSlotReturnArrival k s
  | .remoteLoadRequest src k => Sys2Proof.Machine.execRemoteLoadRequest src k s
  | .remoteStoreArrival src k => Sys2Proof.Machine.execRemoteStoreArrival src k s
  | .storeAckArrival k => Sys2Proof.Machine.execStoreAckArrival k s
  | .storeRefusalArrival k => Sys2Proof.Machine.execStoreRefusalArrival k s
  | .loadCompletion k h => Sys2Proof.Machine.execLoadCompletion k h s
  | .stampFillComplete region => Sys2Proof.Machine.execStampFillComplete region s
  | .tokenRequest line r w => Sys2Proof.Machine.execTokenRequest line r w s
  | .tokenResponse line r => Sys2Proof.Machine.execTokenResponse line r s
  | .persistentRequest line r w => Sys2Proof.Machine.execPersistentRequest line r w s
  | .persistentDeactivation line => Sys2Proof.Machine.execPersistentDeactivation line s
  | .rebalanceWindowEnd => Sys2Proof.Machine.execRebalanceWindowEnd s
  | .indirectionUpdate t bucket => Sys2Proof.Machine.execIndirectionUpdate t bucket s
  | .hostSnpData line half => Sys2Proof.Machine.execHostSnpData line half s
  | .hostSnpInv line half => Sys2Proof.Machine.execHostSnpInv line half s
  | .rdownComplete line half data => Sys2Proof.Machine.execRdownComplete line half data s
  | .rdsharedComplete line half excl data => Sys2Proof.Machine.execRdsharedComplete line half excl data s
  | .hostMemrd line half => Sys2Proof.Machine.execHostMemrd line half s
  | .hostReadOwn line half => Sys2Proof.Machine.execHostReadOwn line half s
  | .hostWriteback line half keep data => Sys2Proof.Machine.execHostWriteback line half keep data s
  | .bisnpinvComplete line half => Sys2Proof.Machine.execBisnpinvComplete line half s
  | .bisnpdataComplete line half data => Sys2Proof.Machine.execBisnpdataComplete line half data s
  | .hostAtomic pa op v => Sys2Proof.Machine.execHostAtomic pa op v s
  | .dscEviction line => Sys2Proof.Machine.execDscEviction line s
  | .poisonDetection agent pa => Sys2Proof.Machine.execPoisonDetection agent pa s
  | .farAtomicApply src => Sys2Proof.Machine.execFarAtomicApply src s
  | .redLogAppend src => Sys2Proof.Machine.execRedLogAppend src s
  | .mergeApplication k h => Sys2Proof.Machine.execMergeApplication k h s
  | .bindInvalidation k => Sys2Proof.Machine.execBindInvalidation k s
  | .waitaReread k h => Sys2Proof.Machine.execWaitaReread k h s
  | .chunkLanding t imm c => Sys2Proof.Machine.execChunkLanding t imm c s
  | .cveBlockConvert t imm => Sys2Proof.Machine.execCveBlockConvert t imm s
  | .commandCompletion t cve imm => Sys2Proof.Machine.execCommandCompletion t cve imm s
  | .commandFailure t cve imm => Sys2Proof.Machine.execCommandFailure t cve imm s
  | .completionDelivery k => Sys2Proof.Machine.execCompletionDelivery k s
  | .sgvStep sg => Sys2Proof.Machine.execSgvStep sg s
  | .mteSliceEnd t => Sys2Proof.Machine.execMteSliceEnd t s
  | .mteWritebackComplete t => Sys2Proof.Machine.execMteWritebackComplete t s
  | .mzeroComplete t => Sys2Proof.Machine.execMzeroComplete t s
  | .mteFailure t err => Sys2Proof.Machine.execMteFailure t err s
  | .noticeArrival k => Sys2Proof.Machine.execNoticeArrival k s
  | .recordReceive => Sys2Proof.Machine.execRecordReceive s
  | .translationResponse k va => Sys2Proof.Machine.execTranslationResponse k va s
  | .pageResponse ptag ok page => Sys2Proof.Machine.execPageResponse ptag ok page s
  | .atsInvalidationRequest pasid va len => Sys2Proof.Machine.execAtsInvalidationRequest pasid va len s
  | .atsInvalidationComplete => Sys2Proof.Machine.execAtsInvalidationComplete s
  | .pageHashCheck ctx page => Sys2Proof.Machine.execPageHashCheck ctx page s
  | .switchHold t => Sys2Proof.Machine.execSwitchHold t s
  | .switchEngineStop t => Sys2Proof.Machine.execSwitchEngineStop t s
  | .switchDrain t => Sys2Proof.Machine.execSwitchDrain t s
  | .switchSave t => Sys2Proof.Machine.execSwitchSave t s
  | .switchRestore t ctx => Sys2Proof.Machine.execSwitchRestore t ctx s
  | .switchResume t => Sys2Proof.Machine.execSwitchResume t s
  | .linkFlitError src dst => Sys2Proof.Machine.execLinkFlitError src dst s
  | .linkLoss src dst => Sys2Proof.Machine.execLinkLoss src dst s
  | .beaconSend t => Sys2Proof.Machine.execBeaconSend t s
  | .beaconReceive t d w => Sys2Proof.Machine.execBeaconReceive t d w s
  | .silenceTimeout t d => Sys2Proof.Machine.execSilenceTimeout t d s
  | .malformedFlit t d credit => Sys2Proof.Machine.execMalformedFlit t d credit s
  | .voteRelay t => Sys2Proof.Machine.execVoteRelay t s
  | .voteExpiry t => Sys2Proof.Machine.execVoteExpiry t s
  | .darkDeclaration t => Sys2Proof.Machine.execDarkDeclaration t s
  | .portClose t d => Sys2Proof.Machine.execPortClose t d s
  | .selfTestDone t pass => Sys2Proof.Machine.execSelfTestDone t pass s
  | .relightAppeal t => Sys2Proof.Machine.execRelightAppeal t s
  | .appealReceipt t d => Sys2Proof.Machine.execAppealReceipt t d s
  | .acceptanceReceipt t d => Sys2Proof.Machine.execAcceptanceReceipt t d s
  | .relightDeclaration t => Sys2Proof.Machine.execRelightDeclaration t s
  | .appealTimeout t => Sys2Proof.Machine.execAppealTimeout t s
  | .regctx a0 => Sys2Proof.Machine.execRegctx a0 s
  | .unreg a0 => Sys2Proof.Machine.execUnreg a0 s
  | .regfolio a0 a1 => Sys2Proof.Machine.execRegfolio a0 a1 s
  | .regqueue a0 a1 a2 => Sys2Proof.Machine.execRegqueue a0 a1 a2 s
  | .unregqueue a0 a1 => Sys2Proof.Machine.execUnregqueue a0 a1 s
  | .readmit a0 => Sys2Proof.Machine.execReadmit a0 s
  | .setown a0 a1 a2 => Sys2Proof.Machine.execSetown a0 a1 a2 s
  | .doorbell q tail => Sys2Proof.Machine.execDoorbell q tail s
  | .tailRead q => Sys2Proof.Machine.execTailRead q s
  | .recordTake q => Sys2Proof.Machine.execRecordTake q s
  | .launchPlacement q => Sys2Proof.Machine.execLaunchPlacement q s
  | .launchEndSample => Sys2Proof.Machine.execLaunchEndSample s
  | .sliceExpiry t => Sys2Proof.Machine.execSliceExpiry t s
  | .moduleTrainingFail m => Sys2Proof.Machine.execModuleTrainingFail m s
  | .sampleRecord k => Sys2Proof.Machine.execSampleRecord k s
  | .chunkEnd k h cause v => Sys2Proof.Machine.execChunkEnd k h cause v s
  | .managementHalt => Sys2Proof.Machine.execManagementHalt s
  | .powerOnReset rom stages => Sys2Proof.Machine.execPowerOnReset rom stages s
  | .getVersion => Sys2Proof.Machine.execGetVersion s
  | .getCapabilities => Sys2Proof.Machine.execGetCapabilities s
  | .negotiateAlgorithms => Sys2Proof.Machine.execNegotiateAlgorithms s
  | .getDigests => Sys2Proof.Machine.execGetDigests s
  | .getCertificate => Sys2Proof.Machine.execGetCertificate s
  | .challenge nonce => Sys2Proof.Machine.execChallenge nonce s
  | .getMeasurements nonce => Sys2Proof.Machine.execGetMeasurements nonce s
  | .powerCapSet watts => Sys2Proof.Machine.execPowerCapSet watts s
  | .frequencyChange f => Sys2Proof.Machine.execFrequencyChange f s
  | .thermalStep tj => Sys2Proof.Machine.execThermalStep tj s
  | .overtempPowerOff tj => Sys2Proof.Machine.execOvertempPowerOff tj s
  | .lpddrTraining rate gib => Sys2Proof.Machine.execLpddrTraining rate gib s
  | .rampWrite sg v lock => Sys2Proof.Machine.execRampWrite sg v lock s
  | .tvecBringupWrite k v => Sys2Proof.Machine.execTvecBringupWrite k v s
  | .tileReset t => Sys2Proof.Machine.execTileReset t s
  | .linkTraining => Sys2Proof.Machine.execLinkTraining s
  | .linkSlotReturn k d => Sys2Proof.Machine.execLinkSlotReturn k d s
  | .reservationRelease k => Sys2Proof.Machine.execReservationRelease k s
  | .pauseWindowEnd k h => Sys2Proof.Machine.execPauseWindowEnd k h s
  | .bankArrayCycle k => Sys2Proof.Machine.execBankArrayCycle k s
  | .mmasStreamArrival t => Sys2Proof.Machine.execMmasStreamArrival t s
  | .writeBackAcceptance k h => Sys2Proof.Machine.execWriteBackAcceptance k h s
  | .lpddr6ReadReturn line bad => Sys2Proof.Machine.execLpddr6ReadReturn line bad s
  | .chunkRecordAck k h => Sys2Proof.Machine.execChunkRecordAck k h s
  | .bulkPreemptionPoint t => Sys2Proof.Machine.execBulkPreemptionPoint t s
  | .doeDiscovery => Sys2Proof.Machine.execDoeDiscovery s
  | .measurementExtension imm d => Sys2Proof.Machine.execMeasurementExtension imm d s

end Sys2Proof.Machine
end

