-- ==== Sys2Proof/Machine/CoreStep.lean ====
section
/-!
DEFINITION. One ck of a core: which context issues (R142, R192), what enters at the boundary (R22, R283, R345), the
fetch and issue of one instruction (R22, R38), chunks (R419 to R421), the step trap (R422), and a standing gang (R79,
R146, R147). `ex` is the meaning of an instruction.
-/
namespace Sys2Proof.Machine

open Host (Outcome)

abbrev Ex := Instr → State → Outcome State Fault Refusal

def onNext (o : Outcome State Fault Refusal) (f : State → State) : Outcome State Fault Refusal :=
  match o with
  | .next s => .next (f s)
  | o => o

def thenNext (o : Outcome State Fault Refusal) (f : State → Outcome State Fault Refusal) : Outcome State Fault Refusal :=
  match o with
  | .next s => f s
  | o => o

/-! One instruction of one context. -/

/-- The cause with which an instruction that issues ends its chunk, 0 for none. -/
def causeOf (ex : Ex) (i : Instr) (s : State) : Nat :=
  if (valueDest s i).isSome then 3
  else if isSync s i || takes ex i s then 2
  else if fld s.core.trctl 32 16 ≤ (cx s).chunkN + 1 then 1
  else 0

/-- The instruction has retired, from `s` to `s1`. -/
def chunkRetire (ex : Ex) (i : Instr) (s s1 : State) (cause : Nat) : State :=
  let n := (cx s).chunkN + 1
  match valueDest s i with
  | some d =>
    match ex (withDest 1 i) s with
    | .next sx =>
      let (s2, v) := logged s sx s1 d
      retireCount s2 3 v n
    | _ => s1
  | none => retireCount s1 cause 0 n

/-- An instruction under the chunk rules (R419 to R421). -/
def chunked (ex : Ex) (i : Instr) (s : State) : Outcome State Fault Refusal :=
  if !chunkOn s.core then ex i s
  else
    thenNext (ex i s) fun s1 =>
      match (cx s1).last with
      | .trapped _ => if trapHeld s then .next (holdTrap s) else ex i (chunkTrap s s.cur s.kind)
      | .blocked =>
        if (cx s1).wait.issued then
          let cause := causeOf ex i s
          let n := (cx s).chunkN + 1
          if mustHold s cause n (cx s).succ then .next (hold s cause n (cx s).succ)
          else .next (setCx s1 { cx s1 with chunkHeld := decide (2 ≤ cause) })
        else .next s1
      | _ =>
        let cause := causeOf ex i s
        let n := (cx s).chunkN + 1
        if mustHold s cause n (cx s1).pc then .next (hold s cause n (cx s1).pc) else .next (chunkRetire ex i s s1 cause)

/-- A fault before the instruction is known. -/
def faultAt (s : State) (e : Exc) : State :=
  if trapHeld s then holdTrap s else raise (chunkTrap s s.cur s.kind) e

/-- Fetch, decode and issue at the pc of the context that steps (R22). A page check that fails is kept too (R352). -/
def issue (ex : Ex) (s : State) : Outcome State Fault Refusal :=
  match fetch s with
  | .error (.exc e) => .next (faultAt (noteFetch s) e)
  | .error _ => .next (blocked s)
  | .ok (hs, s1) =>
    match decode hs with
    | .error _ => .next (faultAt s1 { code := 0x01, eval := (cx s1).raw })
    | .ok i => onNext (chunked ex i s1) (stepTrap (userMode s1) (cx s1).pc)

/-- Does the PAUSE window let the context issue in this ck (R192)? An event that is pending closes it, also one that was pending when PAUSE
issued with IE = 0 (log 69). -/
def pauseLets (s : State) (other : Bool) : Bool :=
  let p := (cx s).pauseEnd
  decide (p ≤ s.ck) || (s.kind == .task && eventPending s s.cur) || (decide ((p - s.ck) % 8 = 0) && !other)

/-- A window that has ended, or that an event has closed, is gone. -/
def pauseClear (s : State) : State :=
  let p := (cx s).pauseEnd
  if p ≠ 0 ∧ (p ≤ s.ck ∨ (s.kind = .task ∧ eventPending s s.cur)) then setCx s { cx s with pauseEnd := 0 } else s

/-- An instruction that has not issued is attempted anew (R172, R248). BWAIT keeps the release it has had (R194); the
others start over, and a GANG may find its gang complete (R174). -/
def attempt (ex : Ex) (s : State) : Outcome State Fault Refusal :=
  match (cx s).wait with
  | .bwait .. => if sameFetched s then .next ((resumeC s).getD (blocked s)) else issue ex (endWait s)
  | _ => onNext (issue ex (endWait s)) fun s1 => match (cx s1).wait with
    | .gang _ => gangForm s1 s1.cur
    | _ => s1

/-- What an instruction makes of a state. -/
def runI (ex : Ex) (i : Instr) (s : State) : State :=
  match ex i s with
  | .next t => t
  | _ => s

/-- An instruction that has issued and has not yet acted does so, `run` its meaning (R146, R212); a trap ends its chunk first (R419). -/
def actNow (run : State → State) (s : State) : State :=
  let s := endWait s
  if hasTrapped (cx (run s)) then run (chunkTrap s s.cur s.kind) else run s

/-- The wait of an issued instruction goes on. -/
def goOn (ex : Ex) (s : State) : State :=
  if (cx s).wait = .fill then
    match inIssue s with
    | some i => waited s (actNow (runI ex i) s)
    | none => blocked s
  else (resumeC s).getD (blocked s)

/-- A context with nothing entering at its boundary: a wait goes on, or an instruction is attempted where the pause
window lets it (R192). -/
def proceed (ex : Ex) (other : Bool) (s : State) : Outcome State Fault Refusal :=
  if (cx s).wait ≠ .none && !(cx s).wait.unissued then .next (goOn ex s)
  else if pauseLets s other then attempt ex (pauseClear s)
  else .next (blocked s)

/-- What enters at a boundary of the task context instead of its next instruction. -/
def entry (s : State) : Option State :=
  match s.core.death with
  | some w => if s.core.task.wait.yields && !entryHeld s then some (enterDeath s w) else none
  | none => if mayEnter s then some (enterAsync s) else (mayDeliver s).map (deliver s)

/-- An attempt of the task context. A context that may not issue still completes an instruction that has (R353, R422). -/
def taskTry (ex : Ex) (other : Bool) (s : State) : Outcome State Fault Refusal :=
  let s := { s with kind := .task }
  if !taskLive s s.cur then
    .next (if (cx s).wait.issued && !(cx s).halted then goOn ex s else blocked s)
  else
    match entry s with
    | some s' => .next s'
    | none => proceed ex other s

/-- An attempt of the handler context, which is active. -/
def handlerTry (ex : Ex) (other : Bool) (s : State) : Outcome State Fault Refusal :=
  proceed ex other { s with kind := .handler }

/-! A standing gang. -/

/-- Instructions that first dissolve the gang; SPLIT ends it (R79, R171). -/
def dissolver : Instr → Bool
  | .trap .. | .brk .. | .eret | .halt | .wfe | .texit | .yield | .split => true
  | _ => false

/-- What a follower does of a control transfer: its operands, its link and its counter (R79). -/
def followerCtl (i : Instr) (s : State) : Option (Outcome State Fault Refusal) :=
  match i with
  | .b _ => some (.next (retire s))
  | .beq a b _ | .bne a b _ | .blt a b _ | .bge a b _ | .bltu a b _ | .bgeu a b _ => some (finish s do
      checkUses [.srcS a, .srcS b]
      checkRoles s [.srcS a, .srcS b]
      let (_, s1) ← readS s a
      let (_, s2) ← readS s1 b
      pure s2)
  | .bz a _ | .bnz a _ | .jr a | .ret a => some (finish s do
      checkUses [.srcS a]
      checkRoles s [.srcS a]
      let (_, s1) ← readS s a
      pure s1)
  | .call a _ => some (finish s do
      checkUses [.dstS a]
      checkRoles s [.dstS a]
      writeS s a (cx s).succ)
  | .callr d a => some (finish s do
      checkUses [.dstS d, .srcS a]
      checkRoles s [.srcS a, .dstS d]
      let (_, s1) ← readS s a
      writeS s1 d (cx s).succ)
  | .loop a _ => some (finish s do
      checkUses [.regS a]
      pure (putS s a.toNat (getS s a.toNat - 1)))
  | _ => none

/-- Work done with a member's task context in the place of the context that steps. -/
def asMember (s : State) (m : CoreId) (f : State → State) : State := asCore s m .task f

/-- A member tries the leader's instruction, or goes on with a wait that has not issued. -/
def memberTry (ex : Ex) (i : Instr) (lead : Bool) (succ raw : Word) (s : State) : State :=
  if (cx s).wait ≠ .none then (resume s).getD (blocked s)
  else
    let s := setCx s { cx s with succ := succ, raw := raw }
    let o := match lead, followerCtl i s with
      | false, some o => o
      | _, _ => ex i s
    match o with
    | .next s' => s'
    | _ => s

def taskOf (s : State) (m : CoreId) : Ctx := (coreOf s m).task

/-- A member's instruction neither completed nor issued. -/
def heldBack (x : Ctx) : Bool := x.last == .blocked && !x.wait.inFlight

/-- The chunk and the step trap of a member that has completed the instruction. -/
def memberEnd (ex : Ex) (i : Instr) (before : State) (s : State) (m : CoreId) : State :=
  asMember s m fun s1 =>
    let s0 := focus before m .task
    let s2 := if chunkOn s0.core && (cx s1).last == .retired then chunkRetire ex i s0 s1 (causeOf ex i s0) else s1
    stepTrap (userMode s0) (cx s0).pc s2

/-- The members' registers as they stand at issue (R146). -/
def withView (ms : List CoreId) (s : State) : State := { s with gangView := ms.map fun m => (taskOf s m).v }

/-- Some members have issued and wait, and the instruction names a queue, a link or a feed: all members act in one ck, those that could
complete at once with them (R146). -/
def gangTogether (ex : Ex) (g : Gang) (i : Instr) (succ raw : Word) (s t : State) : State :=
  (gangMembers g).foldl (fun s m =>
    if (taskOf t m).wait.inFlight then asMember s m (memberTry ex i (m == g.leader) succ raw)
    else modCore s m fun c => { c with task := { c.task with succ := succ, raw := raw, wait := .joined, last := .blocked } }) s

/-- How an instruction of a gang, from `s` to `t`, ends its members' chunks (R419). -/
def gangEnds (ex : Ex) (i : Instr) (ms : List CoreId) (s t : State) : List MemberEnd :=
  (ms.filter fun m => chunkOn (coreOf s m)).map fun m =>
    let x := taskOf s m
    if hasTrapped (taskOf t m) then ⟨m, 4, x.chunkN, x.pc⟩
    else ⟨m, causeOf ex i (focus s m .task), x.chunkN + 1, (taskOf t m).pc⟩

/-- The gang executes an instruction (R79, R146, R147, R273). While one member blocks, no member completes or traps
(log 49); nor while one must hold for its chunk (R420, R421). -/
def gangExec (ex : Ex) (g : Gang) (i : Instr) (s : State) : State :=
  let ms := gangMembers g
  let succ := (cx s).succ
  let raw := (cx s).raw
  let pc := (cx s).pc
  let s := withView ms s
  let s := ms.foldl (fun s m => modCore s m fun c => { c with task := { c.task with
    pc := pc, last := if c.task.last = .blocked then .blocked else .none, wait := if c.task.raw = raw then c.task.wait else .none } }) s
  let t := ms.foldl (fun s m => asMember s m (memberTry ex i (m == g.leader) succ raw)) s
  let t := { t with gangView := [] }
  let ctl := (followerCtl i s).isSome
  if ms.any fun m => heldBack (taskOf t m) then
    ms.foldl (fun s m => modCore s m fun c =>
      { c with task := { c.task with last := .blocked, wait := if heldBack (taskOf t m) then (taskOf t m).wait else c.task.wait } })
      { s with gangView := [] }
  else if gangMust s (gangEnds ex i ms s t) then gangHold
    (ms.foldl (fun s m => modCore s m fun c => { c with task := { c.task with last := .blocked } }) { s with gangView := [] }) (gangEnds ex i ms s t)
  else if !ms.any (fun m => hasTrapped (taskOf t m)) then
    let t := (gangEnds ex i ms s t).foldl (fun t e =>
      if (taskOf t e.core).wait.inFlight then modCore t e.core fun c => { c with task := { c.task with chunkHeld := decide (2 ≤ e.cause) } }
      else t) t
    if namesFifo i && ms.any (fun m => (taskOf t m).wait.inFlight) then
      { gangTogether ex g i succ raw s t with gangView := [] }
    else
    let t := if ctl then ms.foldl (fun t m => modCore t m fun c => { c with task := { c.task with pc := (taskOf t g.leader).pc } }) t else t
    let t := match i with
      | .pause _ _ => ms.foldl (fun t m => modCore t m fun c => { c with task := { c.task with pauseEnd := (taskOf t g.leader).pauseEnd } }) t
      | _ => t
    ms.foldl (memberEnd ex i s) t
  else
    let bare := dissolve { s with gangView := [] } g.leader
    let again := fun (s : State) (m : CoreId) => asMember s m fun s =>
      memberTry ex i (m == g.leader) succ raw (chunkTrap s m .task)
    if ctl && hasTrapped (taskOf t g.leader) then
      if (taskOf t g.leader).last = .trapped 0x03 then
        let v := (taskOf t g.leader).eval
        ms.foldl (fun s m =>
          if m ≠ g.leader ∧ hasTrapped (taskOf t m) then again s m
          else asMember s m fun s => raise (chunkTrap s m .task) { code := 0x03, eval := v }) bare
      else ms.foldl (fun s m => if hasTrapped (taskOf t m) then again s m else s) bare
    else
      let next := if ctl then (taskOf t g.leader).pc else succ
      let t := dissolve t g.leader
      ms.foldl (fun t m =>
        if hasTrapped (taskOf t m) then
          if chunkOn (coreOf s m) then chunkClose t m .task 4 0 (taskOf s m).chunkN pc else t
        else
          let t := modCore t m fun c => { c with task := { c.task with
            pc := if c.task.last = .blocked then c.task.pc else next } }
          memberEnd ex i s t m) t

/-- The leader's fetch and the gang's issue. A fault of the fetch is the leader's own, since no other member fetches
(log 49). -/
def gangIssue (ex : Ex) (g : Gang) (s : State) : Outcome State Fault Refusal :=
  match fetch s with
  | .error (.exc e) => .next (faultAt (dissolve (noteFetch s) s.cur) e)
  | .error _ => .next (blocked s)
  | .ok (hs, s1) =>
    match decode hs with
    | .error _ =>
      let e : Exc := { code := 0x01, eval := (cx s1).raw }
      let pc := (cx s1).pc
      .next ((gangMembers g).foldl (fun s m => asMember s m fun s =>
        raise (setCx (chunkTrap s m .task) { cx s with pc := pc }) e) (dissolve s1 s1.cur))
    | .ok i =>
      if dissolver i then onNext (chunked ex i s1) (stepTrap (userMode s1) (cx s1).pc)
      else .next (gangExec ex g i s1)

/-- Has an attempt issued an instruction, from a context to what it became? -/
def issuedBetween (x y : Ctx) : Bool := y.last != .blocked || (!x.wait.inFlight && y.wait.inFlight) || (x.wait == .none && y.wait == .wfe)

/-- Can the handler context of a core issue in this ck: what its attempt would come to (R142, R192)? One in a pause
window counts as not issuing. -/
def handlerCan (ex : Ex) (s : State) (m : CoreId) : Bool :=
  (coreOf s m).act.isSome && (match handlerTry ex true (focus s m .handler) with
    | .next t => issuedBetween (coreOf s m).hand (coreOf t m).hand
    | _ => false)

/-- What enters at a boundary of a gang's member, and where (R147). -/
def gangEntry (g : Gang) (s : State) : Option State :=
  let ms := gangMembers g
  if gangQuiet g s then
    (ms.find? fun m => taskLive s m && (entry (focus s m .task)).isSome).map fun m => asMember s m fun s => (entry s).getD s
  else none

/-- The members that wait go on. Those whose operands act together do so in one ck, or not at all (R146); a trap
dissolves the gang (R147). -/
def gangWaits (ex : Ex) (g : Gang) (s : State) : State :=
  let ms := gangMembers g
  let s0 := withView ms s
  let anew := fun (m : CoreId) => (taskOf s m).wait == .joined || (taskOf s m).wait == .fill
  let go := fun (t : State) (m : CoreId) =>
    if anew m then
      asMember t m fun t => match inIssue t with
        | some i => actNow (memberTry ex i (m == g.leader) (cx t).succ (cx t).raw) t
        | none => t
    else if (taskOf s m).wait.inFlight then asMember t m fun t => (resumeC t).getD (blocked t)
    else t
  let t := { ms.foldl go s0 with gangView := [] }
  let ended := fun (m : CoreId) => (taskOf t m).wait == .none && (taskOf t m).last != .blocked
  if gangJoint s g.leader && !ms.all ended && !ms.any (fun m => hasTrapped (taskOf t m)) then
    ms.foldl (fun u m =>
      if (taskOf u m).wait.inFlight then
        let v := asMember u m fun u => (resumeC u).getD (blocked u)
        if (taskOf v m).wait.inFlight then v else u
      else u) s
  else
    let t := ms.foldl (fun t m =>
      if anew m = true ∧ (taskOf t m).last = .retired then
        match inIssue (focus s m .task) with
        | some i => memberEnd ex i s0 t m
        | none => t
      else t) t
    ms.foldl dissolveTrapped t

/-- One ck of a gang, taken by its leader: an entry at a member, an issued wait, or the next instruction. -/
def gangStep (ex : Ex) (g : Gang) (s : State) : Outcome State Fault Refusal :=
  let s := { s with kind := .task }
  let ms := gangMembers g
  match gangEntry g s with
  | some s' => .next s'
  | none =>
    if ms.any fun m => (taskOf s m).wait.inFlight then .next (gangWaits ex g (blocked s))
    else if !ms.all (taskLive s) then .next (blocked s)
    else
      let delayed := fld (cycleOf s s.core) 0 6 != 63 && ms.any (handlerCan ex s)
      if delayed then .next (blocked s)
      else if pauseLets s (ms.any (handlerCan ex s)) then gangIssue ex g (pauseClear s)
      else .next (blocked s)

/-! One ck of a core. -/

/-- The task context's turn: a follower of a gang fetches nothing of its own (R146). -/
def taskTurn (ex : Ex) (other : Bool) (s : State) : Outcome State Fault Refusal :=
  match s.core.gang with
  | none => taskTry ex other s
  | some g => if g.me = 0 then gangStep ex g s else .next { s with core := { s.core with task := { s.core.task with last := .blocked } } }

/-- Can the task context issue in this ck? One in a pause window counts as not issuing. -/
def taskCan (ex : Ex) (s : State) : Bool :=
  match taskTurn ex true s with
  | .next t => issuedBetween s.core.task (coreOf t s.cur).task
  | _ => false

/-- What enters at the boundary of the task context, whatever the handler context does: an entry issues nothing (R340). -/
def taskEntry (s : State) : Option State :=
  let s := { s with kind := .task }
  match s.core.gang with
  | none => if taskLive s s.cur then entry s else none
  | some g => gangEntry g s

/-- The handler context has priority, but for the ck in which CYCLE[5:0] is 63 (R142). -/
def bothTurns (ex : Ex) (s : State) : Outcome State Fault Refusal :=
  match taskEntry s with
  | some s1 => if fld (cycleOf s s.core) 0 6 = 63 then .next s1 else handlerTry ex false s1
  | none =>
    if fld (cycleOf s s.core) 0 6 = 63 then
      thenNext (taskTurn ex (handlerCan ex s s.cur) s) fun s1 =>
        if issuedBetween s.core.task s1.core.task then .next s1 else handlerTry ex false s1
    else
      thenNext (handlerTry ex (taskCan ex s) s) fun s1 =>
        if issuedBetween s.core.hand s1.core.hand then .next s1 else taskTurn ex false s1

/-- An activation whose budget has run out ends (R159). -/
def expire (s : State) : State := if budgetOut s s.cur then handlerFault s s.cur 0x25 0 else s

/-- Does a virtual address lie in one of a registered context's areas: SWITCH, SPILL and those of VSAVE (R397)? -/
def inArea (d : CtxDesc) (va : Word) : Bool :=
  decide ((va - d.switch).toNat < 2 ^ 28) || decide ((va - d.spill).toNat < d.spsize) || decide ((va - d.vbase).toNat < 147456 * 1024)

/-- Is a page that has just been asked for one of an area of its context, and not mapped writable (R397)? -/
def areaLost (s : State) (r : PageReq) : Bool :=
  (SMap.get? s.lds.ctxs r.ctx.toNat).any (fun d => inArea d r.va) && (match translate s [] r.ctx r.va.toNat .w with
    | .ok _ => false
    | _ => true)

/-- A translation failure on an area of a context, of whichever core or engine, ends the registration (R397; log 65): every one
has sent a page request. -/
def areaFault (before : List PageReq) (s : State) : State :=
  match (s.tsu.reqs.filter fun r => !before.contains r).find? (areaLost s) with
  | some r => areaFails s r.ctx r.va
  | none => s

/-- One ck of the core that steps. -/
def coreStep (ex : Ex) (s : State) : Outcome State Fault Refusal :=
  if !coreLive s s.cur then .next (elapse s 1)
  else
    let s := expire (sampleRec s s.cur)
    onNext (if s.core.act.isSome then bothTurns ex s else taskTurn ex false s) fun t => elapse t 1

/-- Events of the base die, which go on when the compute dies have no power (R388, R427): those of the management core and its link, the
host's, those of the shared cache, its directory and the memory, of the translation service, of the event arbiter and of the dispatcher. -/
def onBaseDie : Instr → Bool
  | .powerOnReset .. | .getVersion | .getCapabilities | .negotiateAlgorithms | .getDigests | .getCertificate
  | .challenge .. | .getMeasurements .. | .powerCapSet .. | .frequencyChange .. | .thermalStep .. | .overtempPowerOff ..
  | .doeDiscovery | .measurementExtension .. | .recordReceive | .managementHalt
  | .lpddrTraining .. | .rampWrite .. | .linkTraining | .moduleTrainingFail .. | .linkFlitError .. | .linkLoss ..
  | .hostSnpData .. | .hostSnpInv .. | .rdownComplete .. | .rdsharedComplete .. | .hostMemrd .. | .hostReadOwn ..
  | .hostWriteback .. | .bisnpinvComplete .. | .bisnpdataComplete .. | .hostAtomic .. | .dscEviction .. | .poisonDetection ..
  | .lpddr6ReadReturn .. | .rebalanceWindowEnd .. | .persistentDeactivation .. | .farAtomicApply .. | .redLogAppend ..
  | .pageResponse .. | .atsInvalidationRequest .. | .atsInvalidationComplete .. | .pageHashCheck ..
  | .regctx .. | .unreg .. | .regfolio .. | .regqueue .. | .unregqueue .. | .readmit .. | .setown ..
  | .doorbell .. | .tailRead .. | .recordTake .. | .launchPlacement .. | .launchEndSample | .sliceExpiry ..
  | .bulkPreemptionPoint .. => true
  | _ => false

/-- What follows a turn: the failures of areas (R397), and the resets that have waited (R431). -/
def settle (before : State) (s : State) : State := serveResets (areaFault before.tsu.reqs s)

/-- One step of the machine: the next turn of the agenda, or one ck of the core that steps (log 4). While the compute dies have no power,
their cores and events do nothing, and time goes on (R427). -/
def turn (ex : Ex) (s : State) : Outcome State Fault Refusal :=
  match s.agenda with
  | [] => if s.mgmt.powered then onNext (coreStep ex s) (settle s) else .next (elapse s 1)
  | .event i :: r =>
    let s := { s with agenda := r }
    if (s.mgmt.powered || onBaseDie i) && i.isEvent then onNext (ex i s) (settle s) else .next s
  | .focus k h :: r => .next (focus { s with agenda := r } k h)
  | .elapse n :: r => .next (elapse { s with agenda := r } n)
  | .ring base size :: r => .next (setRing base size { s with agenda := r })
  | .replayFrom seq :: r => .next (nameReplay seq { s with agenda := r })
  | .barRead off :: r => .next (barRead off { s with agenda := r })
  | .measure index nonce :: r => .next (measureOne index nonce { s with agenda := r })

end Sys2Proof.Machine
end

