-- ==== Sys2Proof/Machine/Place.lean ====
section
/-!
DEFINITION. A program from outside: one instruction placed where the core that steps fetches next (log 1). The words
stand in a bound leaf of their own (R28 to R31), at slot 1, on a page that the core's translations map executable.
-/
namespace Sys2Proof.Machine

/-- The virtual and the physical address of the leaf. -/
def placeVa : Nat := 0x10000
def placePa : Nat := 0x10000

/-- Halfword j of a leaf with one head and its tails, its CRC left out (R28, R31). -/
def oneHeadSlot (hs : List Half) (j : Nat) : Half :=
  let h := hs[0]?.getD 0
  let t := (headL h).toNat
  if j = 0 then BitVec.ofNat 16 (1 + 32 * t)
  else if j = 1 then h
  else if j ≤ 30 ∧ 30 < j + t then hs[31 - j]?.getD 0
  else 0

/-- A bound leaf that holds one instruction. -/
def oneHeadLeaf (hs : List Half) : List Byte :=
  let body := (upto 31).flatMap fun j => leBytes 2 (oneHeadSlot hs j).toNat
  body ++ leBytes 2 (crc16 body)

/-- The instruction, head first, stands at the pc of the core that steps, and nothing keeps it from issuing. -/
def placeWords (s : State) (hs : List Half) : State :=
  let s := modTile s (myTile s) fun t => { t with held := false, keeper := { t.keeper with state := .lit } }
  { s with
    agenda := []
    kind := .task
    mgmt := { s.mgmt with powered := true }
    pmem := Mem.write s.pmem placePa (oneHeadLeaf hs)
    poison := s.poison.filter fun p => p ≠ placePa / 32 ∧ p ≠ placePa / 32 + 1
    core := { s.core with
      released := true, dead := false, stopped := false, act := none, gang := none, death := none
      trctl := 0x0000ffff00000000
      icache := s.core.icache.filter fun l => l.va.toNat ≠ placeVa
      utlb := ⟨s.core.ctxnum, placeVa, placePa, 0, true, false, true⟩ :: s.core.utlb
      task := { s.core.task with
        pc := BitVec.ofNat 64 (placeVa + 2), wait := .none, halted := false, pauseEnd := 0, chunkHeld := false
        status := setBit s.core.task.status 8 false } } }

end Sys2Proof.Machine
end

