-- ==== Sys2Proof/Machine/Step.lean ====
section
/-!
DEFINITION. One step of the machine, and the placing of an instruction where it is fetched.
-/
namespace Sys2Proof.Machine

/-- One step: the next turn of the agenda, or one ck of the core that steps. -/
def step (s : State) : Host.Outcome State Fault Refusal := turn exec s

/-- The machine with the instruction of the low `nbits` bits of `w` as the next that the core that steps fetches. -/
def State.withFetchWord (s : State) (nbits w : Nat) : State :=
  let w := w % 2 ^ nbits
  placeWords s ((upto 4).map (halfAt w))

end Sys2Proof.Machine
end

