-- ==== Sys2Proof/Safety.lean ====
section
/-!
DEFINITION. What counts as a safe run, and the terms in which claims are stated: operands that can be read, lanes of
a result, the registers that frames keep.
-/
namespace Sys2Proof.Machine

/-- The array memory and the physical memory are in canonical form: addresses rising, no listed zero byte. -/
def MemOk (s : State) : Prop := Mem.wf s.arr = true ∧ Mem.wf s.pmem = true

/-- A step that does not stop the machine. -/
def Steps (s t : State) : Prop := step s = .next t

/-- Every state that n steps reach is reached without a stop. -/
def SafeRun : Nat → State → Prop
  | 0, _ => True
  | n + 1, s => ∃ t, Steps s t ∧ SafeRun n t

/-! Operands. -/

/-- Every specifier of a form holds a value of its class, and the queue, link and feed rules let the stepping context
use it (R39, R40, R135, R139, R161). -/
def Allowed (s : State) (us : List Use) : Prop := ∀ u ∈ us, u.legal = true ∧ roleOf s u = .ok ()

/-- The scalar sources, read in order, give the values listed and leave `t` (R39, R42). -/
def Reads : State → List Spec → List Word → State → Prop
  | s, [], [], t => t = s
  | s, f :: fs, x :: xs, t => ∃ s1, readS s f = .ok (x, s1) ∧ Reads s1 fs xs t
  | _, _, _, _ => False

/-- Lane i of `v` is `f i`, for every lane of width w (R109). -/
def LanesAre (w : Nat) (v : Vec) (f : Nat → BitVec w) : Prop := ∀ i, i < 512 / w → lane v w i = f i

/-- `v` holds `f i` in the enabled lanes and the old destination in the others (R110). -/
def Enabled (w : Nat) (p : Word) (old v : Vec) (f : Nat → BitVec w) : Prop :=
  LanesAre w v fun i => if laneOn p w i then f i else lane old w i

/-- The memory (the array or physical memory) and the first address at which a place of this core lies (R198, R216). -/
def placeCell (s : State) : Place → Option (Bool × Nat)
  | .virt ((pa, _) :: _) => some (false, pa)
  | .own off => some (true, lmKey s.cur off)
  | _ => none

/-- The byte of a memory at an address. -/
def byteAt (s : State) (arr : Bool) (a : Nat) : Byte := Mem.get (if arr then s.arr else s.pmem) a

/-- Does a write to [lo, lo + n) of the array take the region of `a` from another owner, which clears it (R212)? -/
def claims (s : State) (lo n a : Nat) : Bool :=
  decide (lo / 4096 ≤ a / 4096) && decide (a / 4096 ≤ (lo + n - 1) / 4096) && stampOf s (a / 4096) != s.core.ctxnum.toNat

/-- A core that keeps no chunks and takes no step trap (R417, R419, R422). -/
def Plain (c : Core) : Prop := chunkOn c = false ∧ bit c.trctl 3 = false

/-- The place of a code in the order of R338. -/
def eventRank (code : BitVec 8) : Nat := (eventOrder ++ [0x11, 0x10]).idxOf code

/-! Frames. -/

/-- The control registers a context holds for itself. -/
def ctlRegs (c : Ctx) : List Word := [c.status, c.cause, c.epc, c.eval, c.sealerr, c.kscr, c.faultx]

/-- Every byte of physical memory and of the array, with its stamps, poison and coherence record, stands as it was. -/
def SameMem (s t : State) : Prop :=
  (∀ a, Mem.get t.pmem a = Mem.get s.pmem a) ∧ (∀ a, Mem.get t.arr a = Mem.get s.arr a) ∧
  t.stamps = s.stamps ∧ t.poison = s.poison ∧ t.coh = s.coh ∧ t.logs = s.logs

/-- The machine once the core that steps has taken what one source names (R42, R135, R137, R161, R162): queue f - 32 of its tile
has lost its oldest entry, link f - 40 its oldest word, whose slot is on its way back to the writer, and the stream entry that a feed
names its oldest word, whose credit goes back. A register has lost nothing. Nothing else changes. -/
def sourceMoved (s : State) (u : Take) : State :=
  match u with
  | .s f =>
    if f.toNat < 32 then s
    else if f.toNat < 40 then
      let t := tileOf s (myTile s)
      setTile s (myTile s) { t with queues := vset t.queues (f.toNat - 32) ((vget t.queues (f.toNat - 32) []).drop 1) }
    else
      let e := s.core.links.get (linkDir f.toNat)
      { s with core := { s.core with links := s.core.links.set (linkDir f.toNat) { e with words := e.words.drop 1, returning := e.returning + 1 } } }
  | .v f =>
    if f.toNat < 32 then s
    else match feedEntry s.core (f.toNat - 32) with
    | none => s
    | some e =>
      let x := vget s.core.streams e StreamEnt.reset
      match x.buf with
      | [] => s
      | w :: r =>
        { s with
          core := { s.core with streams := vset s.core.streams e { x with buf := r, eos := if bit w.1 26 then some w.1 else none } }
          net := s.net ++ [⟨s.cur, coreAt (fld x.word 18 5) (fld x.word 23 5), 0xffff, s.core.ctxnum, .credit s.cur (.ofNat 4 e) (bit w.1 26)⟩] }

/-- The sources of an instruction taken in their order (R42). -/
def moved (s : State) (us : List Take) : State := us.foldl sourceMoved s

/-- The machine once `w` is written to a scalar destination (R11, R39, R135, R137): a register other than s0 holds it, queue d - 32 of the
core's tile has it as its newest entry, or it is in flight on link d - 40 to the neighbour. Nothing else changes. -/
def destMoved (s : State) (d : Spec) (w : Word) : State :=
  if d.toNat < 32 then putS s d.toNat w
  else if d.toNat < 40 then
    let t := tileOf s (myTile s)
    setTile s (myTile s) { t with queues := vset t.queues (d.toNat - 32) (vget t.queues (d.toNat - 32) [] ++ [w]) }
  else
    match neighbour s.cur (linkDir d.toNat) with
    | none => s
    | some o =>
      let c := coreOf s o
      let e := c.links.get (dirOpp (linkDir d.toNat))
      setCore s o { c with links := c.links.set (dirOpp (linkDir d.toNat)) { e with flight := e.flight ++ [w] } }

/-- The sources of a vector form with operands a, b and c, in their order; b is a vector, a scalar or absent (R42, R111). -/
def vecTakes (a b : Spec) (rx : RX) (u : BUse) (hasC : Bool) : List Take :=
  [.v a] ++ (match u with
    | .no => []
    | .vec => [.v b]
    | .scal => [.s b]) ++ (if hasC then [.v rx.c] else [])

/-- The context that does not step stands as it was. -/
def SameOther (s t : State) : Prop :=
  match s.kind with
  | .task => t.core.hand = s.core.hand
  | .handler => t.core.task = s.core.task

/-- What an instruction leaves alone that takes the sources `us` and writes no more than the destination `dst`, a scalar, vector or
predicate: every other scalar, vector and predicate register, every control register, the other context and every byte of memory. Of the
queues of every tile only those of its own tile that `us` or `dst` names change, of the links of its core only those that `us` names,
of those of the other cores only the one that `dst` names, and of its stream entries only those whose feeds `us` names; every other
register of every core and tile, and the rest of the device, stand, but for the credits of the feeds. -/
structure Frame (us : List Take) (dst : Use) (s t : State) : Prop where
  scalars : ∀ r, (∀ f, dst = .dstS f → f.toNat ≠ r) → getS t r = getS s r
  vectors : ∀ r, (∀ f, dst = .dstV f → f.toNat ≠ r) → getV t r = getV s r
  preds : ∀ r, (∀ f, dst = .pred f → f.toNat ≠ r) → getM t r = getM s r
  control : ctlRegs (cx t) = ctlRegs (cx s)
  other : SameOther s t
  memory : SameMem s t
  queues : ∀ k j, j < 8 → (k ≠ myTile s ∨ ((∀ f, .s f ∈ us → f.toNat ≠ 32 + j) ∧ ∀ f, dst = .dstS f → f.toNat ≠ 32 + j)) →
    vget (tileOf t k).queues j [] = vget (tileOf s k).queues j []
  tiles : ∀ k, { tileOf t k with queues := (tileOf s k).queues } = tileOf s k
  links : ∀ dir, (∀ f, .s f ∈ us → f.toNat < 40 ∨ linkDir f.toNat ≠ dir) → t.core.links.get dir = s.core.links.get dir
  streams : ∀ e, e < 8 → (∀ f, .v f ∈ us → f.toNat < 32 ∨ feedEntry s.core (f.toNat - 32) ≠ some e) →
    vget t.core.streams e StreamEnt.reset = vget s.core.streams e StreamEnt.reset
  core : { t.core with task := s.core.task, hand := s.core.hand, links := s.core.links, streams := s.core.streams } = s.core
  cores : ∀ k, k ≠ s.cur → { coreOf t k with links := (coreOf s k).links } = coreOf s k ∧
    ∀ dir, (∀ f, dst = .dstS f → f.toNat < 40 ∨ neighbour s.cur (linkDir f.toNat) ≠ some k ∨ dir ≠ dirOpp (linkDir f.toNat)) →
      (coreOf t k).links.get dir = (coreOf s k).links.get dir
  credits : ∃ ps, t.net = s.net ++ ps ∧ (∀ p ∈ ps, p.src = s.cur ∧ ∃ e b, p.body = .credit s.cur e b) ∧
    ((∀ f, .v f ∈ us → f.toNat < 32) → ps = [])
  device : t.tsu = s.tsu ∧ t.lds = s.lds ∧ t.eva = s.eva ∧ t.mgmt = s.mgmt ∧ t.ramp = s.ramp ∧ t.sgvAt = s.sgvAt ∧ t.frames = s.frames ∧
    t.cur = s.cur ∧ t.kind = s.kind ∧ t.ck = s.ck ∧ t.agenda = s.agenda ∧ t.side = s.side ∧ t.hostOut = s.hostOut ∧
    t.fills = s.fills ∧ t.taken = s.taken ∧ t.fresh = s.fresh ∧ t.gangView = s.gangView

/-- Every queue and every link stands as it was. -/
def SameFifos (s t : State) : Prop :=
  (∀ k, (tileOf t k).queues = (tileOf s k).queues) ∧ ∀ k, (coreOf t k).links = (coreOf s k).links

/-- A poisoned chunk stays poisoned, and none becomes so but the other of its half, when the half comes from the host (R230). -/
def PoisonKept (s t : State) : Prop :=
  (∀ c ∈ s.poison, c ∈ t.poison) ∧ ∀ c ∈ t.poison, c ∈ s.poison ∨ c + 1 - 2 * (c % 2) ∈ s.poison

/-- The frame of a load: the tile cache may have taken tokens of lines it read (R218) and the bank
array has accesses waiting (R204); no byte of memory changes. -/
structure LoadFrame (ss vs : List Nat) (s t : State) : Prop where
  scalars : ∀ r, r ∉ ss → getS t r = getS s r
  vectors : ∀ r, r ∉ vs → getV t r = getV s r
  preds : ∀ r, getM t r = getM s r
  control : ctlRegs (cx t) = ctlRegs (cx s)
  other : SameOther s t
  bytes : ∀ m a, byteAt t m a = byteAt s m a
  poison : PoisonKept s t
  owners : t.stamps = s.stamps ∧ t.logs = s.logs ∧ t.tsu = s.tsu ∧ t.lds = s.lds ∧ t.eva = s.eva

/-- The registers of a store, which writes none. -/
structure RegsSame (s t : State) : Prop where
  scalars : ∀ r, getS t r = getS s r
  vectors : ∀ r, getV t r = getV s r
  preds : ∀ r, getM t r = getM s r
  control : ctlRegs (cx t) = ctlRegs (cx s)
  other : SameOther s t

end Sys2Proof.Machine
end

