-- ==== Sys2Proof/Certificates/Slice0/Obligations.lean ====
section
/-!
DEFINITION. The statements for the provers. Each docstring names the rules of the manual it comes from; a value that
the model chose is named with its log entry.
-/

open Sys2Proof Sys2Proof.Machine
open Host (Outcome)

/-! Encodings. -/

/-- R34 to R58: the words of every well-formed instruction decode to it, with every operand at every value. -/
def Obligations.decode_encode : Prop :=
  ∀ i : Instr, i.wf = true → decode (encode i) = .ok i

/-- Words written out from the manual's own encodings: LDI of R86, a head with L of R34, and one of each format of
R36. -/
def Obligations.decode_words : Prop :=
  decode [0x0a87, 0x5678, 0x1234] = .ok (.ldi 7 0x12345678) ∧
  decode [0xf000] = .ok .nop ∧
  decode [0x0300] = .ok .eret ∧
  decode [0x1041, 0x0830] = .ok (.add 1 2 3) ∧
  decode [0x1141, 0x0bff] = .ok (.addi 1 2 0x3ff) ∧
  decode [0x0745, 0x0083] = .ok (.cswr 5 2 3) ∧
  decode [0xe5c1, 0x0800, 0x0000, 0x0010] = .ok (.vld 1 ⟨.virt, 2, 0x10⟩ ⟨0, false, 0, 0, 0⟩) ∧
  decode [0x4c09] = .ok (.jr 9) ∧
  decode [0x4040, 0xa956] = .ok (.b ⟨0x2a5, 0x0b⟩) ∧
  decode [0x4189, 0x5800, 0xa956] = .ok (.beq 9 22 ⟨0x2a5, 0x0b⟩) ∧
  decode [0x6085, 0x2680, 0x1234] = .ok (.ld .w 5 ⟨.arr, 9, 0x1234⟩) ∧
  decode [0x9885, 0x2562, 0x6f6e] = .ok (.vadd .w 5 9 22 ⟨27, true, 5, 2, 0xe⟩) ∧
  decode [0xf300] = .ok (.hint 3)

/-! Operands. -/

/-- What the operands of an instruction move, and that nothing else changes: the frame of `moved` and `destMoved`, from which an
instruction goes on at any pc. -/
def Claims.moves_frame : Prop :=
  ∀ (s : State) (us : List Take) (d v m : Spec) (w pc : Word) (x : Vec),
    Frame us (.srcS 0) s (retireTo (moved s us) pc) ∧
    Frame us (.dstS d) s (retireTo (destMoved (moved s us) d w) pc) ∧
    Frame us (.dstV v) s (retireTo (putV (moved s us) v.toNat x) pc) ∧
    Frame us (.pred m) s (retireTo (putM (moved s us) m.toNat w) pc)

/-- R11, R39: a scalar source below 32 gives the register, s0 gives zero, and the machine is unchanged. A write of s0
changes nothing, and a write of another register is what a read of it gives from then on; no other register changes. -/
def Claims.scalar_registers : Prop :=
  ∀ (s : State) (f : Spec) (x : Word), f.toNat < 32 →
    readS s f = .ok (getS s f.toNat, s) ∧ (f.toNat = 0 → getS s f.toNat = 0) ∧
    writeS s f x = .ok (destMoved s f x) ∧
    (f.toNat = 0 → destMoved s f x = s) ∧ (f.toNat ≠ 0 → getS (destMoved s f x) f.toNat = x)

/-- R135: a queue source takes the oldest entry and leaves the rest; a queue destination appends; an empty queue and a
full one of eight block. A source waits while a posted store of the producer to the consumer is on its way (R140). The entry that a
waiting instruction of the core's other context takes, and the place that it appends to, are its own (log 47). -/
def Claims.queue_operands : Prop :=
  ∀ (s : State) (f : Spec) (x w : Word) (r : List Word), 32 ≤ f.toNat → f.toNat < 40 →
    let j := f.toNat - 32
    let q := vget (tileOf s (myTile s)).queues j []
    let from_ := tileMate s.cur (qProducer (tileOf s (myTile s)).qmap j)
    (otherTakes s f = true ∨ q = [] ∨ storeInFlight s from_ s.cur = true → readS s f = .error .block) ∧
    (otherTakes s f = false → q = w :: r → storeInFlight s from_ s.cur = false →
      readS s f = .ok (w, sourceMoved s (.s f)) ∧ vget (tileOf (sourceMoved s (.s f)) (myTile s)).queues j [] = r) ∧
    (8 ≤ q.length + otherPuts s f → writeS s f x = .error .block) ∧
    (q.length + otherPuts s f < 8 →
      writeS s f x = .ok (destMoved s f x) ∧ vget (tileOf (destMoved s f x) (myTile s)).queues j [] = q ++ [x])

/-- R137, R138: a link source takes the oldest word that has arrived, and blocks when there is none; its slot is on its way back. A link
destination puts the word in flight toward the neighbour, whose far end has four slots, and blocks when none is free. The word that a
waiting instruction of the core's other context takes, and the slot that it fills, are its own (log 47). -/
def Claims.link_operands : Prop :=
  ∀ (s : State) (f : Spec) (x w : Word) (r : List Word) (o : CoreId), 40 ≤ f.toNat → f.toNat < 44 →
    let d := linkDir f.toNat
    let e := s.core.links.get d
    let far := (coreOf s o).links.get (dirOpp d)
    let used := far.words.length + far.flight.length + far.returning + otherPuts s f
    (otherTakes s f = true ∨ e.words = [] → readS s f = .error .block) ∧
    (otherTakes s f = false → e.words = w :: r →
      readS s f = .ok (w, sourceMoved s (.s f)) ∧ (sourceMoved s (.s f)).core.links.get d = ⟨r, e.flight, e.returning + 1⟩) ∧
    (neighbour s.cur d = some o → 4 ≤ used → writeS s f x = .error .block) ∧
    (neighbour s.cur d = some o → used < 4 →
      writeS s f x = .ok (destMoved s f x) ∧
      (coreOf (destMoved s f x) o).links.get (dirOpp d) = { far with flight := far.flight ++ [x] })

/-! Scalar integer instructions. -/

/-- R81 to R83: results of the three-operand integer instructions, for every operand form that can be read, source
registers, queues and links alike. The instruction completes with the value written to d. -/
def Claims.register_results : Prop :=
  ∀ (s s1 : State) (d a b : Spec) (x y : Word),
    Allowed s [.dstS d, .srcS a, .srcS b] → Reads s [a, b] [x, y] s1 →
    ∀ p ∈ ([
      (.add d a b, .ofInt 64 (x.toInt + y.toInt)),
      (.sub d a b, .ofInt 64 (x.toInt - y.toInt)),
      (.and d a b, x &&& y),
      (.or d a b, x ||| y),
      (.xor d a b, x ^^^ y),
      (.shl d a b, .ofNat 64 (x.toNat * 2 ^ (y.toNat % 64))),
      (.shr d a b, .ofNat 64 (x.toNat / 2 ^ (y.toNat % 64))),
      (.sar d a b, .ofInt 64 (x.toInt / 2 ^ (y.toNat % 64))),
      (.min d a b, .ofInt 64 (Min.min x.toInt y.toInt)),
      (.max d a b, .ofInt 64 (Max.max x.toInt y.toInt)),
      (.minu d a b, .ofNat 64 (Min.min x.toNat y.toNat)),
      (.maxu d a b, .ofNat 64 (Max.max x.toNat y.toNat)),
      (.seq d a b, if x = y then 1 else 0),
      (.sne d a b, if x ≠ y then 1 else 0),
      (.slt d a b, if x.toInt < y.toInt then 1 else 0),
      (.sltu d a b, if x.toNat < y.toNat then 1 else 0),
      (.mul d a b, .ofNat 64 (x.toNat * y.toNat)),
      (.mulh d a b, .ofInt 64 (x.toInt * y.toInt / 2 ^ 64)),
      (.mulhu d a b, .ofNat 64 (x.toNat * y.toNat / 2 ^ 64)),
      (.div d a b, if y = 0 then 0xffffffffffffffff else .ofInt 64 (Int.tdiv x.toInt y.toInt)),
      (.rem d a b, if y = 0 then x else .ofInt 64 (x.toInt - Int.tdiv x.toInt y.toInt * y.toInt)),
      (.divu d a b, if y = 0 then 0xffffffffffffffff else .ofNat 64 (x.toNat / y.toNat)),
      (.remu d a b, if y = 0 then x else .ofNat 64 (x.toNat - x.toNat / y.toNat * y.toNat))] : List (Instr × Word)),
      ∀ t, writeS s1 d p.2 = .ok t → exec p.1 s = .next (retire t)

/-- R81, R82: results of the immediate forms; the immediate is sign-extended, and a shift takes its low six bits. -/
def Claims.immediate_results : Prop :=
  ∀ (s s1 : State) (d a : Spec) (i : BitVec 10) (x : Word),
    Allowed s [.dstS d, .srcS a] → Reads s [a] [x] s1 →
    ∀ p ∈ ([
      (.addi d a i, .ofInt 64 (x.toInt + i.toInt)),
      (.andi d a i, x &&& .ofInt 64 i.toInt),
      (.ori d a i, x ||| .ofInt 64 i.toInt),
      (.xori d a i, x ^^^ .ofInt 64 i.toInt),
      (.slti d a i, if x.toInt < i.toInt then 1 else 0),
      (.shli d a i, .ofNat 64 (x.toNat * 2 ^ (i.toNat % 64))),
      (.shri d a i, .ofNat 64 (x.toNat / 2 ^ (i.toNat % 64))),
      (.sari d a i, .ofInt 64 (x.toInt / 2 ^ (i.toNat % 64)))] : List (Instr × Word)),
      ∀ t, writeS s1 d p.2 = .ok t → exec p.1 s = .next (retire t)

/-- R84: bit counts, reversals and extensions. Each instruction completes with a value r that meets the rule. -/
def Claims.bit_count_results : Prop :=
  ∀ (s s1 : State) (d a : Spec) (x : Word) (e : ExtW),
    Allowed s [.dstS d, .srcS a] → Reads s [a] [x] s1 →
    ∀ p ∈ ([
      (.clz d a, fun r => r.toNat ≤ 64 ∧ (∀ j, 64 - r.toNat ≤ j → bit x j = false) ∧ (r.toNat < 64 → bit x (63 - r.toNat) = true)),
      (.ctz d a, fun r => r.toNat ≤ 64 ∧ (∀ j, j < r.toNat → bit x j = false) ∧ (r.toNat < 64 → bit x r.toNat = true)),
      (.popc d a, fun r => r.toNat = ((List.range 64).filter fun j => bit x j).length),
      (.brev d a, fun r => ∀ j, j < 64 → bit r j = bit x (63 - j)),
      (.bswap d a, fun r => ∀ j, j < 8 → fld r (8 * j) 8 = fld x (8 * (7 - j)) 8),
      (.sext e d a, fun r => r.toInt = toIntN (extBits e) x.toNat),
      (.zext e d a, fun r => r.toNat = x.toNat % 2 ^ extBits e)] : List (Instr × (Word → Prop))),
      ∃ r, p.2 r ∧ ∀ t, writeS s1 d r = .ok t → exec p.1 s = .next (retire t)

/-- R85: the field p = b[5:0], w = min(b[12:6], 64 - p) taken out, sign-extended, or replaced; BFI reads d first (R78),
and its d is a register. -/
def Claims.bit_field_results : Prop :=
  ∀ (s s1 : State) (d a b : Spec) (x y : Word),
    let p := fld y 0 6
    let w := min (fld y 6 7) (64 - p)
    Reads s [a, b] [x, y] s1 →
    (Allowed s [.dstS d, .srcS a, .srcS b] →
      (∃ r : Word, r.toNat = fld x p w ∧ ∀ t, writeS s1 d r = .ok t → exec (.bfxu d a b) s = .next (retire t)) ∧
      (∃ r : Word, r.toInt = (if w = 0 then 0 else toIntN w (fld x p w)) ∧
        ∀ t, writeS s1 d r = .ok t → exec (.bfx d a b) s = .next (retire t))) ∧
    (Allowed s [.regS d, .srcS a, .srcS b] →
      ∃ r : Word, (∀ j, j < 64 → bit r j = if p ≤ j ∧ j < p + w then bit x (j - p) else bit (getS s d.toNat) j) ∧
        ∀ t, writeS s1 d r = .ok t → exec (.bfi d a b) s = .next (retire t))

/-- R86: moves and constants. SEL reads all three sources, the one it does not select too; LDIH reads its d (R78). -/
def Claims.move_results : Prop :=
  ∀ (s s1 : State) (d a b c : Spec) (x y z : Word) (i : BitVec 32),
    (Allowed s [.dstS d, .srcS a] → Reads s [a] [x] s1 →
      ∀ t, writeS s1 d x = .ok t → exec (.mov d a) s = .next (retire t)) ∧
    (Allowed s [.dstS d] →
      ∀ t, writeS s d (.ofInt 64 i.toInt) = .ok t → exec (.ldi d i) s = .next (retire t)) ∧
    (Allowed s [.regS d] →
      ∀ t, writeS s d (.ofNat 64 (i.toNat * 2 ^ 32 + (getS s d.toNat).toNat % 2 ^ 32)) = .ok t →
        exec (.ldih d i) s = .next (retire t)) ∧
    (Allowed s [.dstS d, .srcS a, .srcS b, .srcS c] → Reads s [a, b, c] [x, y, z] s1 →
      ∀ t, writeS s1 d (if x = 0 then z else y) = .ok t → exec (.sel d a b c) s = .next (retire t))

/-- R87 to R90: address arithmetic. LEA in array space, ADDRA and COORD wrap the offset in 21 bits and the coordinates
modulo 32; WIDX cuts field k out of the identifier in register a by the widths in register a + 1. -/
def Claims.address_results : Prop :=
  ∀ (s s1 : State) (d a b : Spec) (m : MemOp) (i : BitVec 10) (x y : Word),
    (Allowed s [.dstS d, .srcS m.a] → Reads s [m.a] [x] s1 →
      ∀ t, writeS s1 d (match m.sp with
        | .virt => .ofInt 64 (x.toInt + m.off.toInt)
        | .arr => .ofNat 64 (fld x 21 11 * 2 ^ 21 + ((fld x 0 21 + m.off.toInt) % 2 ^ 21).toNat)) = .ok t →
        exec (.lea d m) s = .next (retire t)) ∧
    (Allowed s [.dstS d, .srcS a, .srcS b] → Reads s [a, b] [x, y] s1 →
      ∀ t, writeS s1 d (.ofNat 64 ((fld x 27 5 + fld y 48 5) % 32 * 2 ^ 27 + (fld x 22 5 + fld y 40 5) % 32 * 2 ^ 22 +
          fld x 21 1 * 2 ^ 21 + (fld x 0 21 + fld y 0 21) % 2 ^ 21)) = .ok t →
        exec (.addra d a b) s = .next (retire t)) ∧
    (Allowed s [.dstS d, .srcS a] → Reads s [a] [x] s1 →
      ∀ t, writeS s1 d (.ofNat 64 ((coreY s.cur + fld i 5 5) % 32 * 2 ^ 27 + (coreX s.cur + fld i 0 5) % 32 * 2 ^ 22 +
          fld x 0 22)) = .ok t →
        exec (.coord d a i) s = .next (retire t)) ∧
    (Allowed s [.dstS d] → a.toNat ≤ 30 →
      let desc := getS s (a.toNat + 1)
      let k := fld i 0 3
      let lo := (((List.range k).map fun j => fld desc (7 * j) 7)).sum
      ∀ t, writeS s d (if 5 < k ∨ 64 ≤ lo then 0 else .ofNat 64 (fld (getS s a.toNat) lo (min (fld desc (7 * k) 7) (64 - lo)))) = .ok t →
        exec (.widx d a i) s = .next (retire t)) ∧
    (Allowed s [.dstS d] → 31 ≤ a.toNat → exec (.widx d a i) s = .next (raise s { code := 0x02, eval := a.setWidth 64 }))

/-- The number that a finite value stands for, and that number cut off toward zero. -/
def Claims.num : XVal → Rat
  | .fin n m e _ => (if n then -1 else 1) * (m : Rat) * (2 : Rat) ^ e
  | _ => 0
def Claims.cut : XVal → Int
  | .fin n m e _ => if n then -((m : Rat) * (2 : Rat) ^ e).floor else ((m : Rat) * (2 : Rat) ^ e).floor
  | _ => 0

/-- The order of values: no NaN is below or above anything. -/
def Claims.below : XVal → XVal → Prop
  | .nan, _ => False
  | _, .nan => False
  | .inf n, .inf n' => n = true ∧ n' = false
  | .inf n, .fin .. => n = true
  | .fin .., .inf n => n = false
  | x, y => Claims.num x < Claims.num y

/-- R93 to R96: minimum, maximum, relation, conversion and class of FP32 operands with codes cx and cy, by the values they hold. The
manual does not place a BF16 or FP16 source; that it is bits [15:0] is the model's choice (log 69). -/
def Claims.float_selections : Prop :=
  ∀ (s s1 : State) (d a b : Spec) (x y : Word) (r : Word),
    let cx := fld x 0 32
    let cy := fld y 0 32
    let fx := fp32.decode cx
    let fy := fp32.decode cy
    let nan := fx = .nan ∨ fy = .nan
    (Allowed s [.dstS d, .srcS a, .srcS b] → Reads s [a, b] [x, y] s1 →
      ∀ p ∈ ([
        (.fmin d a b, (nan → r = 0x7fc00000) ∧ (¬nan → (Claims.below fx fy → r.toNat = cx) ∧ (Claims.below fy fx → r.toNat = cy) ∧
          (¬Claims.below fx fy ∧ ¬Claims.below fy fx → r.toNat = if cx = 0x80000000 ∨ cy = 0x80000000 then 0x80000000 else cx))),
        (.fmax d a b, (nan → r = 0x7fc00000) ∧ (¬nan → (Claims.below fx fy → r.toNat = cy) ∧ (Claims.below fy fx → r.toNat = cx) ∧
          (¬Claims.below fx fy ∧ ¬Claims.below fy fx → r.toNat = if cx = 0 ∨ cy = 0 then 0 else cx))),
        (.fcmp .eq d a b, (r = 1 ∨ r = 0) ∧ (r = 1 ↔ ¬nan ∧ ¬Claims.below fx fy ∧ ¬Claims.below fy fx)),
        (.fcmp .lt d a b, (r = 1 ∨ r = 0) ∧ (r = 1 ↔ Claims.below fx fy)),
        (.fcmp .le d a b, (r = 1 ∨ r = 0) ∧ (r = 1 ↔ ¬nan ∧ ¬Claims.below fy fx)),
        (.fcmp .un d a b, (r = 1 ∨ r = 0) ∧ (r = 1 ↔ nan))] : List (Instr × Prop)),
        p.2 → ∀ t, writeS s1 d r = .ok t → exec p.1 s = .next (retire t)) ∧
    (Allowed s [.dstS d, .srcS a] → Reads s [a] [x] s1 →
      let ex := fld x 23 8
      let mt := fld x 0 23
      let neg := bit x 31
      let into := fun (lo hi : Int) => match fx with
        | .nan => (0 : Int)
        | .inf n => if n then lo else hi
        | f => max lo (min hi (Claims.cut f))
      ∀ p ∈ ([
        (.fcvt .lF d a, r = .ofInt 64 (into (-2 ^ 63) (2 ^ 63 - 1))),
        (.fcvt .luF d a, r = .ofInt 64 (into 0 (2 ^ 64 - 1))),
        (.fcvt .fL d a, r = .ofNat 64 (roundTo fp32 .ne false (.fin (decide (x.toInt < 0)) x.toInt.natAbs 0 false))),
        (.fcvt .fLu d a, r = .ofNat 64 (roundTo fp32 .ne false (.fin false x.toNat 0 false))),
        (.fcvt .bfF d a, r = .ofNat 64 (roundTo bf16 .ne false fx)),
        (.fcvt .hfF d a, r = .ofNat 64 (roundTo fp16 .ne false fx)),
        (.fcvt .fBf d a, r = .ofNat 64 (roundTo fp32 .ne false (bf16.decode (fld x 0 16)))),
        (.fcvt .fHf d a, r = .ofNat 64 (roundTo fp32 .ne false (fp16.decode (fld x 0 16)))),
        (.fclass d a, r = .ofNat 64 (2 ^ (if ex = 255 then (if mt ≠ 0 then 8 else if neg then 0 else 7)
          else if ex ≠ 0 then (if neg then 1 else 6) else if mt ≠ 0 then (if neg then 2 else 5) else if neg then 3 else 4)))] : List (Instr × Prop)),
        p.2 → ∀ t, writeS s1 d r = .ok t → exec p.1 s = .next (retire t))

/-- R74, R91, R92: scalar floating arithmetic. An operand is the low word of a register, a result code goes to the low word and
clears the high one; the exact value is that of R92, rounded once in the mode of the form. -/
def Claims.float_arithmetic : Prop :=
  ∀ (s s1 : State) (d a b c : Spec) (x y z : Word) (m : Rnd),
    let fx := fp32.decode (fld x 0 32)
    let fy := fp32.decode (fld y 0 32)
    let fz := fp32.decode (fld z 0 32)
    let md := Rnd.mode m
    (Allowed s [.dstS d, .srcS a, .srcS b] → Reads s [a, b] [x, y] s1 →
      ∀ p ∈ ([
        (.fadd m d a b, roundTo fp32 md false (XVal.add md fx fy)),
        (.fsub m d a b, roundTo fp32 md false (XVal.add md fx fy.neg)),
        (.fmul m d a b, roundTo fp32 md false (XVal.mul fx fy)),
        (.fdiv m d a b, roundTo fp32 md false (XVal.div fx fy))] : List (Instr × Nat)),
        ∀ t, writeS s1 d (.ofNat 64 p.2) = .ok t → exec p.1 s = .next (retire t)) ∧
    (Allowed s [.dstS d, .srcS a, .srcS b, .srcS c] → Reads s [a, b, c] [x, y, z] s1 →
      ∀ t, writeS s1 d (.ofNat 64 (roundTo fp32 md false (XVal.add md (XVal.mul fx fy) fz))) = .ok t →
        exec (.ffma m d a b c) s = .next (retire t)) ∧
    (Allowed s [.dstS d, .srcS a] → Reads s [a] [x] s1 →
      ∀ t, writeS s1 d (.ofNat 64 (roundTo fp32 md false fx.sqrt)) = .ok t → exec (.fsqrt m d a) s = .next (retire t))

/-- R74, R91 to R96: the scalar floating-point instructions. -/
def Obligations.scalar_float_results : Prop := Claims.float_arithmetic ∧ Claims.float_selections

/-- R64 to R67, R92 to R94: points of the floating arithmetic that the manual fixes. Invalid operations give the
canonical NaN, x - x is +0 except toward minus infinity, a division by zero gives an infinity, the root of -0 is -0, and
a comparison with a NaN holds only for .UN. -/
def Claims.scalar_float_points : Prop :=
  (∀ md, fp32.addC md 0x7f800000 0xff800000 = 0x7fc00000) ∧ (∀ md, fp32.mulC md 0 0x7f800000 = 0x7fc00000) ∧
  (∀ md, fp32.divC md 0 0 = 0x7fc00000) ∧ (∀ md, fp32.sqrtC md 0xbf800000 = 0x7fc00000) ∧
  (∀ md, fp32.divC md 0x3f800000 0 = 0x7f800000) ∧ (∀ md, fp32.sqrtC md 0x80000000 = 0x80000000) ∧
  (∀ m : Rnd, fp32.addC (Rnd.mode m) 0x3f800000 0xbf800000 = if m = .rm then 0x80000000 else 0) ∧
  (∀ m : Rnd, fp32.addC (Rnd.mode m) 0x3f800000 0x3f800000 = 0x40000000) ∧
  (∀ c b r, fp32.decode c = .nan ∨ fp32.decode b = .nan → fp32.rel r c b = decide (r = .un))

/-- R65 step 1: a value that the format holds, an infinity or a subnormal too, is rounded to itself in every mode, the
sign of a zero kept. -/
def Obligations.rounding_keeps_representable : Prop :=
  ∀ f ∈ [fp32, fp16, bf16, e5m2, e4m3, e3m2, e2m3, e2m1], ∀ (md : RMode) (c : Nat), c < 2 ^ f.width → f.decode c ≠ .nan →
    roundTo f md false (f.decode c) = c

/-- Of R81 to R96: an integer, bit, address or floating instruction with a scalar destination changes nothing but that
destination and what its queue and link sources move: it leads to the machine in which its sources have been taken and one word is
written to d, at its successor. `moves_frame` says what that leaves alone: every other register, every queue but those named of its own
tile, every link but those named, and the rest of the part. -/
def Obligations.scalar_frame : Prop :=
  Claims.moves_frame ∧
  ∀ (s s1 : State) (d a b c : Spec) (x y z : Word) (i : BitVec 10) (j : BitVec 32) (m : MemOp) (e : ExtW) (r : Rnd) (q : FRel) (k : FCvt),
    (∀ v, ∃ t, writeS s1 d v = .ok t) →
    let only := fun (p : Instr) (us : List Take) => ∃ v, exec p s = .next (retire (destMoved (moved s us) d v))
    (Allowed s [.dstS d, .srcS a, .srcS b] → Reads s [a, b] [x, y] s1 →
      ∀ p ∈ [Instr.add d a b, .sub d a b, .and d a b, .or d a b, .xor d a b, .shl d a b, .shr d a b, .sar d a b, .min d a b,
        .max d a b, .minu d a b, .maxu d a b, .seq d a b, .sne d a b, .slt d a b, .sltu d a b, .mul d a b, .mulh d a b,
        .mulhu d a b, .div d a b, .divu d a b, .rem d a b, .remu d a b, .bfx d a b, .bfxu d a b, .addra d a b,
        .fadd r d a b, .fsub r d a b, .fmul r d a b, .fdiv r d a b, .fmin d a b, .fmax d a b, .fcmp q d a b],
        only p [.s a, .s b]) ∧
    (Allowed s [.dstS d, .srcS a] → Reads s [a] [x] s1 →
      ∀ p ∈ [Instr.addi d a i, .andi d a i, .ori d a i, .xori d a i, .slti d a i, .shli d a i, .shri d a i, .sari d a i,
        .clz d a, .ctz d a, .popc d a, .brev d a, .bswap d a, .sext e d a, .zext e d a, .mov d a, .lea d { m with a := a }, .coord d a i,
        .fsqrt r d a, .fcvt k d a, .fclass d a],
        only p [.s a]) ∧
    (Allowed s [.dstS d, .srcS a, .srcS b, .srcS c] → Reads s [a, b, c] [x, y, z] s1 →
      ∀ p ∈ [Instr.sel d a b c, .ffma r d a b c], only p [.s a, .s b, .s c]) ∧
    (Allowed s [.regS d, .srcS a, .srcS b] → Reads s [a, b] [x, y] s1 → only (.bfi d a b) [.s a, .s b]) ∧
    (Allowed s [.dstS d] → s1 = s → a.toNat ≤ 30 → ∀ p ∈ [Instr.ldi d j, .widx d a i], only p []) ∧
    (Allowed s [.regS d] → s1 = s → only (.ldih d j) [])

/-- The words of the R and I formats (R35, R36): the head with L = 1 and field A, then the tail. -/
def Claims.rWords (op : BitVec 8) (d a b : Spec) (fn : BitVec 4) : List Half := [op ++ 1#2 ++ d, a ++ b ++ fn]
def Claims.iWords (op : BitVec 8) (d a : Spec) (i : BitVec 10) : List Half := [op ++ 1#2 ++ d, a ++ i]

/-- R81 to R83: the encodings of the integer instructions, at every operand. -/
def Claims.integer_words : Prop :=
  ∀ (d a b : Spec) (i : BitVec 10),
    (∀ p ∈ ([(0x10, .add d a b), (0x12, .sub d a b), (0x1a, .and d a b), (0x1c, .or d a b), (0x1e, .xor d a b), (0x20, .shl d a b),
        (0x22, .shr d a b), (0x24, .sar d a b), (0x26, .min d a b), (0x27, .max d a b), (0x28, .minu d a b), (0x29, .maxu d a b),
        (0x2a, .seq d a b), (0x2b, .sne d a b), (0x2c, .slt d a b), (0x2e, .sltu d a b), (0x13, .mul d a b), (0x14, .mulh d a b),
        (0x15, .mulhu d a b), (0x16, .div d a b), (0x17, .divu d a b), (0x18, .rem d a b), (0x19, .remu d a b)] : List (BitVec 8 × Instr)),
      decode (Claims.rWords p.1 d a b 0) = .ok p.2) ∧
    (∀ p ∈ ([(0x11, .addi d a i), (0x1b, .andi d a i), (0x1d, .ori d a i), (0x1f, .xori d a i), (0x21, .shli d a i), (0x23, .shri d a i),
        (0x25, .sari d a i), (0x2d, .slti d a i)] : List (BitVec 8 × Instr)),
      decode (Claims.iWords p.1 d a i) = .ok p.2)

/-- R84, R85: the encodings of the bit instructions; field b of those of R84 is ignored. -/
def Claims.bit_words : Prop :=
  ∀ (d a b : Spec),
    ∀ p ∈ ([(0x30, 0, .clz d a), (0x31, 0, .ctz d a), (0x32, 0, .popc d a), (0x33, 0, .brev d a), (0x34, 0, .bswap d a),
        (0x38, 0, .sext .b d a), (0x38, 1, .sext .h d a), (0x38, 2, .sext .w d a), (0x39, 0, .zext .b d a), (0x39, 1, .zext .h d a),
        (0x39, 2, .zext .w d a), (0x35, 0, .bfx d a b), (0x36, 0, .bfxu d a b), (0x37, 0, .bfi d a b)] : List (BitVec 8 × BitVec 4 × Instr)),
      decode (Claims.rWords p.1 d a b p.2.1) = .ok p.2.2

/-- R11, R39, R135, R137: the scalar operand forms: registers, tile queues and neighbour links, read and written. -/
def Obligations.scalar_operands : Prop :=
  Claims.scalar_registers ∧ Claims.queue_operands ∧ Claims.link_operands

/-- R81 to R83: the integer instructions, register and immediate forms: their words and their results. -/
def Obligations.integer_results : Prop :=
  Claims.integer_words ∧ Claims.register_results ∧ Claims.immediate_results

/-- R84, R85: bit manipulation, extensions and bit fields: their words and their results. -/
def Obligations.bit_results : Prop :=
  Claims.bit_words ∧ Claims.bit_count_results ∧ Claims.bit_field_results

/-- R86 to R90: moves, constants, selection and address arithmetic. -/
def Obligations.move_and_address_results : Prop :=
  Claims.move_results ∧ Claims.address_results

/-! Vector instructions. A vector form that can read its operands leaves x, y and z in `s1`; the result v is given lane by
lane, disabled lanes keeping the old destination (R110). -/

/-- R110, R111, R114: the integer lane operations and their scalar twins, at each lane width. -/
def Claims.integer_lanes : Prop :=
  ∀ (s s1 : State) (d a b : Spec) (rx : RX) (x y z v : Vec) (k : LaneW),
    let w := laneBits k
    let p := govern s rx
    let old := getV s d.toNat
    (∀ q ∈ ([
      (.vadd k d a b rx, .vaddTwin k d a b rx, fun m n => .ofInt w (m.toInt + n.toInt)),
      (.vsub k d a b rx, .vsubTwin k d a b rx, fun m n => .ofInt w (m.toInt - n.toInt)),
      (.vmul k d a b rx, .vmulTwin k d a b rx, fun m n => .ofNat w (m.toNat * n.toNat)),
      (.vmulh ⟨false, k⟩ d a b rx, .vmulhTwin ⟨false, k⟩ d a b rx, fun m n => .ofInt w (m.toInt * n.toInt / 2 ^ w)),
      (.vmulh ⟨true, k⟩ d a b rx, .vmulhTwin ⟨true, k⟩ d a b rx, fun m n => .ofNat w (m.toNat * n.toNat / 2 ^ w)),
      (.vshl k d a b rx, .vshlTwin k d a b rx, fun m n => .ofNat w (m.toNat * 2 ^ (n.toNat % w))),
      (.vshr k d a b rx, .vshrTwin k d a b rx, fun m n => .ofNat w (m.toNat / 2 ^ (n.toNat % w))),
      (.vsar k d a b rx, .vsarTwin k d a b rx, fun m n => .ofInt w (m.toInt / 2 ^ (n.toNat % w))),
      (.vmin ⟨false, k⟩ d a b rx, .vminTwin ⟨false, k⟩ d a b rx, fun m n => .ofInt w (Min.min m.toInt n.toInt)),
      (.vmin ⟨true, k⟩ d a b rx, .vminTwin ⟨true, k⟩ d a b rx, fun m n => .ofNat w (Min.min m.toNat n.toNat)),
      (.vmax ⟨false, k⟩ d a b rx, .vmaxTwin ⟨false, k⟩ d a b rx, fun m n => .ofInt w (Max.max m.toInt n.toInt)),
      (.vmax ⟨true, k⟩ d a b rx, .vmaxTwin ⟨true, k⟩ d a b rx, fun m n => .ofNat w (Max.max m.toNat n.toNat))] :
        List (Instr × Instr × (BitVec w → BitVec w → BitVec w))),
      Enabled w p old v (fun i => q.2.2 (lane x w i) (lane y w i)) →
      (vecSrc s (.dstV d) a b rx .vec false w = .ok ((x, y, z), s1) → exec q.1 s = .next (retire (putV s1 d.toNat v))) ∧
      (vecSrc s (.dstV d) a b rx .scal false w = .ok ((x, y, z), s1) → exec q.2.1 s = .next (retire (putV s1 d.toNat v)))) ∧
    (Enabled w p old v (fun i => .ofInt w ((lane x w i).toInt * (lane y w i).toInt + (lane z w i).toInt)) →
      (vecSrc s (.dstV d) a b rx .vec true w = .ok ((x, y, z), s1) →
        exec (.vmadd k d a b rx) s = .next (retire (putV s1 d.toNat v))) ∧
      (vecSrc s (.dstV d) a b rx .scal true w = .ok ((x, y, z), s1) →
        exec (.vmaddTwin k d a b rx) s = .next (retire (putV s1 d.toNat v)))) ∧
    (Enabled w p old v (fun i => .ofNat w ((lane x w i).toNat * 2 ^ ((lane y w i).toNat % w) +
        (lane x w i).toNat / 2 ^ (w - (lane y w i).toNat % w))) →
      vecSrc s (.dstV d) a b rx .vec false w = .ok ((x, y, z), s1) →
      exec (.vrot k d a b rx) s = .next (retire (putV s1 d.toNat v))) ∧
    (vecSrc s (.dstV d) a 0 rx .no false w = .ok ((x, y, z), s1) →
      (Enabled w p old v (fun i => .ofNat w (lane x w i).toInt.natAbs) →
        exec (.vabs k d a rx) s = .next (retire (putV s1 d.toNat v))) ∧
      (Enabled w p old v (fun i => .ofInt w (-(lane x w i).toInt)) →
        exec (.vneg k d a rx) s = .next (retire (putV s1 d.toNat v))))

/-- R109 to R111, R114: the bitwise operations act on byte lanes, and a twin repeats its scalar in each 64-bit group. -/
def Claims.bitwise_lanes : Prop :=
  ∀ (s s1 : State) (d a b : Spec) (rx : RX) (x y z v : Vec),
    ∀ q ∈ ([
      (.vand d a b rx, .vandTwin d a b rx, fun m n => m &&& n),
      (.vor d a b rx, .vorTwin d a b rx, fun m n => m ||| n),
      (.vxor d a b rx, .vxorTwin d a b rx, fun m n => m ^^^ n)] : List (Instr × Instr × (BitVec 8 → BitVec 8 → BitVec 8))),
      Enabled 8 (govern s rx) (getV s d.toNat) v (fun i => q.2.2 (lane x 8 i) (lane y 8 i)) →
      (vecSrc s (.dstV d) a b rx .vec false 64 = .ok ((x, y, z), s1) → exec q.1 s = .next (retire (putV s1 d.toNat v))) ∧
      (vecSrc s (.dstV d) a b rx .scal false 64 = .ok ((x, y, z), s1) → exec q.2.1 s = .next (retire (putV s1 d.toNat v)))

/-- R115, R116: the floating lane operations and their twins, in each lane type, rounded once to nearest even. -/
def Claims.float_lanes : Prop :=
  ∀ (s s1 : State) (d a b : Spec) (rx : RX) (x y z v : Vec) (k : FTy),
    let f := ftyFmt k
    let w := f.width
    let p := govern s rx
    let old := getV s d.toNat
    let val := fun (u : Vec) (i : Nat) => f.decode (lane u w i).toNat
    let put := fun (r : XVal) => BitVec.ofNat w (roundTo f .ne false r)
    (∀ q ∈ ([
      (.vfadd k d a b rx, .vfaddTwin k d a b rx, fun i => put (XVal.add .ne (val x i) (val y i))),
      (.vfsub k d a b rx, .vfsubTwin k d a b rx, fun i => put (XVal.add .ne (val x i) (val y i).neg)),
      (.vfmul k d a b rx, .vfmulTwin k d a b rx, fun i => put (XVal.mul (val x i) (val y i))),
      (.vfdiv k d a b rx, .vfdivTwin k d a b rx, fun i => put (XVal.div (val x i) (val y i))),
      (.vfmin k d a b rx, .vfminTwin k d a b rx, fun i => .ofNat w (f.minMax false (lane x w i).toNat (lane y w i).toNat)),
      (.vfmax k d a b rx, .vfmaxTwin k d a b rx, fun i => .ofNat w (f.minMax true (lane x w i).toNat (lane y w i).toNat))] :
        List (Instr × Instr × (Nat → BitVec w))),
      Enabled w p old v q.2.2 →
      (vecSrc s (.dstV d) a b rx .vec false w = .ok ((x, y, z), s1) → exec q.1 s = .next (retire (putV s1 d.toNat v))) ∧
      (vecSrc s (.dstV d) a b rx .scal false w = .ok ((x, y, z), s1) → exec q.2.1 s = .next (retire (putV s1 d.toNat v)))) ∧
    (∀ q ∈ ([
      (.vfma k d a b rx, .vfmaTwin k d a b rx, fun i => put (XVal.add .ne (XVal.mul (val x i) (val y i)) (val z i))),
      (.vfms k d a b rx, .vfmsTwin k d a b rx, fun i => put (XVal.add .ne (XVal.mul (val x i) (val y i)) (val z i).neg)),
      (.vfnma k d a b rx, .vfnmaTwin k d a b rx, fun i => put (XVal.add .ne (XVal.mul (val x i).neg (val y i)) (val z i)))] :
        List (Instr × Instr × (Nat → BitVec w))),
      Enabled w p old v q.2.2 →
      (vecSrc s (.dstV d) a b rx .vec true w = .ok ((x, y, z), s1) → exec q.1 s = .next (retire (putV s1 d.toNat v))) ∧
      (vecSrc s (.dstV d) a b rx .scal true w = .ok ((x, y, z), s1) → exec q.2.1 s = .next (retire (putV s1 d.toNat v)))) ∧
    (vecSrc s (.dstV d) a 0 rx .no false w = .ok ((x, y, z), s1) →
      ∀ q ∈ ([
        (.vfsqrt k d a rx, fun i => put (val x i).sqrt),
        (.vfabs k d a rx, fun i => .ofNat w ((lane x w i).toNat % 2 ^ (w - 1))),
        (.vclass k d a rx, fun i => .ofNat w (f.classOf (lane x w i).toNat))] : List (Instr × (Nat → BitVec w))),
        Enabled w p old v q.2 → exec q.1 s = .next (retire (putV s1 d.toNat v)))

/-- R125: the special functions act on sixteen FP32 lanes, each result a fixed function of the operand's bits, whose
fixed points `special_function_points` gives; the two correctly rounded ones are the rounded quotient and root. -/
def Claims.special_function_lanes : Prop :=
  ∀ (s s1 : State) (d a : Spec) (rx : RX) (x y z v : Vec),
    vecSrc s (.dstV d) a 0 rx .no false 32 = .ok ((x, y, z), s1) →
    ∀ q ∈ ([
      (.vsin d a rx, vsinC), (.vcos d a rx, vcosC), (.vexp2 d a rx, vexp2C), (.vlog2 d a rx, vlog2C),
      (.vrcp d a rx, fun c => fp32.divC .ne 0x3f800000 c),
      (.vrsq d a rx, vrsqC), (.vtanh d a rx, vtanhC)] : List (Instr × (Nat → Nat))),
      Enabled 32 (govern s rx) (getV s d.toNat) v (fun i => .ofNat 32 (q.2 (lane x 32 i).toNat)) →
      exec q.1 s = .next (retire (putV s1 d.toNat v))

/-- R125 to R127: the values the manual fixes at special inputs, and the symmetry of VSIN, VCOS and VTANH bit for bit. No value
between two codes is claimed: which of the two a faithful result is stays free (log 5). -/
def Claims.special_function_points : Prop :=
  (∀ f ∈ [vsinC, vcosC, vexp2C, vlog2C, vrcpC, vrsqC, vtanhC], ∀ c, fp32.decode c = .nan → f c = 0x7fc00000) ∧
  (∀ c, c < 2 ^ 31 → fp32.decode c ≠ .nan → fp32.decode c ≠ .inf false →
    vcosC (c + 2 ^ 31) = vcosC c ∧ vsinC (c + 2 ^ 31) = (vsinC c) ^^^ 2 ^ 31 ∧ vtanhC (c + 2 ^ 31) = (vtanhC c) ^^^ 2 ^ 31) ∧
  vsinC 0x7f800000 = 0x7fc00000 ∧ vcosC 0xff800000 = 0x7fc00000 ∧
  vsinC 0x3e800000 = 0x3f800000 ∧ vsinC 0xbf000000 = 0x80000000 ∧ vsinC 0x50200000 = 0 ∧ vcosC 0x3e800000 = 0 ∧
  vexp2C 0x7f800000 = 0x7f800000 ∧ vexp2C 0xff800000 = 0 ∧ vexp2C 0x80000000 = 0x3f800000 ∧ vexp2C 0xc3150000 = 1 ∧
  vlog2C 0x41000000 = 0x40400000 ∧ vlog2C 0x3f800000 = 0 ∧ vlog2C 0 = 0xff800000 ∧ vlog2C 0xbf800000 = 0x7fc00000 ∧
  vrcpC 0x40400000 = 0x3eaaaaab ∧ vrcpC 0x80000000 = 0xff800000 ∧ vrcpC 0xff800000 = 0x80000000 ∧
  vrsqC 0x80000000 = 0xff800000 ∧ vrsqC 0xff800000 = 0x7fc00000 ∧ vrsqC 0x7f800000 = 0 ∧
  vtanhC 0x7f800000 = 0x3f800000 ∧ vtanhC 0x80000000 = 0x80000000 ∧ vtanhC 0x41100000 = 0x3f800000

/-- R122: conversions. Each enabled result lane is rounded once; a narrowing form writes bytes 32 to 63 zero. -/
def Claims.vector_conversions : Prop :=
  ∀ (s s1 : State) (d a : Spec) (rx : RX) (x y z v : Vec) (m : Rnd) (sat : Bool),
    vecSrc s (.dstV d) a 0 rx .no false 8 = .ok ((x, y, z), s1) →
    let md := Rnd.mode m
    ∀ q ∈ ([
      (.bfF, 16, fun i => roundTo bf16 md sat (fp32.decode (lane x 32 i).toNat)),
      (.hfF, 16, fun i => roundTo fp16 md sat (fp32.decode (lane x 32 i).toNat)),
      (.fBf, 32, fun i => roundTo fp32 .ne false (bf16.decode (lane x 16 i).toNat)),
      (.fHf, 32, fun i => roundTo fp32 .ne false (fp16.decode (lane x 16 i).toNat)),
      (.wF, 32, fun i => (BitVec.ofInt 32 (toInteger md (-2 ^ 31) (2 ^ 31 - 1) (fp32.decode (lane x 32 i).toNat))).toNat),
      (.fW, 32, fun i => roundTo fp32 md sat (XVal.ofInt (lane x 32 i).toInt))] : List (VCvt × Nat × (Nat → Nat))),
      (∀ i, i < 16 → lane v q.2.1 i = if laneOn (govern s rx) q.2.1 i then .ofNat _ (q.2.2 i) else lane (getV s d.toNat) q.2.1 i) →
      (∀ i, 16 ≤ i → i < 512 / q.2.1 → lane v q.2.1 i = 0) →
      exec (.vcvt q.1 m sat d a rx) s = .next (retire (putV s1 d.toNat v))

/-- R75, R123, R124: reductions over the enabled lanes write lane 0 and clear the rest of d; dot products add four byte
products, or two half products exactly and rounded once, to each 32-bit lane of c. -/
def Claims.vector_reductions : Prop :=
  ∀ (s s1 : State) (d a b : Spec) (rx : RX) (x y z v : Vec) (k : LaneW) (op : RedOp) (ty : FTy) (dk : DotK) (fk : FDotK),
    let p := govern s rx
    let w := laneBits k
    let on := ((List.range (512 / w)).filter fun i => laneOn p w i).map fun i => (lane x w i).toInt
    (vecSrc s (.dstV d) a 0 rx .no false 8 = .ok ((x, y, z), s1) →
      (v.toNat = (BitVec.ofInt w (match op with
          | .add => on.sum
          | .min => on.foldl Min.min (2 ^ (w - 1) - 1)
          | .max => on.foldl Max.max (-2 ^ (w - 1)))).toNat →
        exec (.vred ⟨op, k⟩ d a rx) s = .next (retire (putV s1 d.toNat v))) ∧
      (v = .ofNat 512 (fredLanes op ty p x) → exec (.vfred ⟨op, ty⟩ d a rx) s = .next (retire (putV s1 d.toNat v)))) ∧
    (Enabled 32 p (getV s d.toNat) v (fun i => .ofInt 32 ((lane z 32 i).toInt + ((List.range 4).map fun j =>
        match dk with
        | .s => (lane x 8 (4 * i + j)).toInt * (lane y 8 (4 * i + j)).toInt
        | .u => ((lane x 8 (4 * i + j)).toNat * (lane y 8 (4 * i + j)).toNat : Nat)).sum)) →
      (vecSrc s (.dstV d) a b rx .vec true 32 = .ok ((x, y, z), s1) →
        exec (.vdot dk d a b rx) s = .next (retire (putV s1 d.toNat v))) ∧
      (vecSrc s (.dstV d) a b rx .scal true 32 = .ok ((x, y, z), s1) →
        exec (.vdotTwin dk d a b rx) s = .next (retire (putV s1 d.toNat v)))) ∧
    (Enabled 32 p (getV s d.toNat) v (fun i =>
        let f := match fk with
          | .bf => bf16
          | .hf => fp16
        let pr := fun j => XVal.mul (f.decode (lane x 16 (2 * i + j)).toNat) (f.decode (lane y 16 (2 * i + j)).toNat)
        applySliceF (lane z 32 i) [pr 0, pr 1]) →
      (vecSrc s (.dstV d) a b rx .vec true 32 = .ok ((x, y, z), s1) →
        exec (.vfdot fk d a b rx) s = .next (retire (putV s1 d.toNat v))) ∧
      (vecSrc s (.dstV d) a b rx .scal true 32 = .ok ((x, y, z), s1) →
        exec (.vfdotTwin fk d a b rx) s = .next (retire (putV s1 d.toNat v))))

/-- R117 to R119: comparisons set every predicate bit of an enabled lane and keep those of the others; VSEL selects bytes;
predicate operations act on all 64 bits. -/
def Obligations.predicates : Prop :=
  ∀ (s s1 : State) (d a b : Spec) (rx : RX) (x y z v : Vec) (r : Word) (k : LaneW) (ir : IRel) (ty : FTy) (fr : FRel),
    let p := govern s rx
    let w := laneBits k
    let wf := (ftyFmt ty).width
    let bits := fun (w : Nat) (rel : Nat → Bool) =>
      ∀ j, j < 64 → bit r j = if laneOn p w (j / (w / 8)) then rel (j / (w / 8)) else bit (getM s d.toNat) j
    (bits w (fun i => match ir with
        | .eq => decide (lane x w i = lane y w i)
        | .ne => decide (lane x w i ≠ lane y w i)
        | .lt => decide ((lane x w i).toInt < (lane y w i).toInt)
        | .ltu => decide ((lane x w i).toNat < (lane y w i).toNat)) →
      (vecSrc s (.pred d) a b rx .vec false w = .ok ((x, y, z), s1) →
        exec (.vcmp ⟨ir, k⟩ d a b rx) s = .next (retire (putM s1 d.toNat r))) ∧
      (vecSrc s (.pred d) a b rx .scal false w = .ok ((x, y, z), s1) →
        exec (.vcmpTwin ⟨ir, k⟩ d a b rx) s = .next (retire (putM s1 d.toNat r)))) ∧
    (bits wf (fun i => (ftyFmt ty).rel fr (lane x wf i).toNat (lane y wf i).toNat) →
      (vecSrc s (.pred d) a b rx .vec false wf = .ok ((x, y, z), s1) →
        exec (.vfcmp ⟨fr, ty⟩ d a b rx) s = .next (retire (putM s1 d.toNat r))) ∧
      (vecSrc s (.pred d) a b rx .scal false wf = .ok ((x, y, z), s1) →
        exec (.vfcmpTwin ⟨fr, ty⟩ d a b rx) s = .next (retire (putM s1 d.toNat r)))) ∧
    (vecSrc s (.dstV d) a b rx .vec false 8 = .ok ((x, y, z), s1) →
      LanesAre 8 v (fun j => if rx.p = true ∧ bit (getM s rx.m.toNat) j = false then lane y 8 j else lane x 8 j) →
      exec (.vsel d a b rx) s = .next (retire (putV s1 d.toNat v))) ∧
    (d.toNat < 8 → a.toNat < 8 → b.toNat < 8 →
      exec (.mand d a b) s = .next (retire (putM s d.toNat (getM s a.toNat &&& getM s b.toNat))) ∧
      exec (.mor d a b) s = .next (retire (putM s d.toNat (getM s a.toNat ||| getM s b.toNat))) ∧
      exec (.mxor d a b) s = .next (retire (putM s d.toNat (getM s a.toNat ^^^ getM s b.toNat))) ∧
      exec (.mnot d a) s = .next (retire (putM s d.toNat (~~~ getM s a.toNat)))) ∧
    (Allowed s [.dstS d] → a.toNat < 8 → ∀ t,
      writeS s d (.ofNat 64 ((List.range 64).filter fun j => bit (getM s a.toNat) j).length) = .ok t →
      exec (.mpop d a) s = .next (retire t))

/-- R120, R121: moves, inserts and permutes; n is the number of lanes, and an index wraps modulo n. VMOVS and VEXT write
only when the lane they read is enabled. -/
def Obligations.vector_moves : Prop :=
  ∀ (s s1 t : State) (d a b : Spec) (rx : RX) (x y z v : Vec) (u : Word) (k : LaneW),
    let w := laneBits k
    let n := 512 / w
    let p := govern s rx
    let old := getV s d.toNat
    (∀ q ∈ ([
      (.vperm k d a b rx, fun i => lane x w ((lane y w i).toNat % n)),
      (.vzip k d a b rx, fun i => if i % 2 = 0 then lane x w (i / 2) else lane y w (i / 2)),
      (.vuzp k d a b rx, fun i => if i < n / 2 then lane x w (2 * i) else lane y w (2 * (i - n / 2)))] : List (Instr × (Nat → BitVec w))),
      vecSrc s (.dstV d) a b rx .vec false w = .ok ((x, y, z), s1) → Enabled w p old v q.2 →
      exec q.1 s = .next (retire (putV s1 d.toNat v))) ∧
    (vecSrc s (.dstV d) a 0 rx .no false w = .ok ((x, y, z), s1) →
      Enabled w p old v (fun i => lane x w (if i % 2 = 0 then i + 1 else i - 1)) →
      exec (.vpswp k d a rx) s = .next (retire (putV s1 d.toNat v))) ∧
    (Allowed s [.dstV d, .srcS a] → rxOk s rx none none none = true → Reads s [a] [u] s1 →
      Enabled w p old v (fun _ => .ofNat w u.toNat) →
      exec (.vsplat k d a rx) s = .next (retire (putV s1 d.toNat v))) ∧
    (Allowed s [.dstV d, .srcV a, .srcS b] → rxOk s rx (some a) none none = true →
      (∃ s0, readVG s rx 1 a = .ok (x, s0) ∧ Reads s0 [b] [u] s1) →
      Enabled w p old v (fun i => if i = 0 then .ofNat w u.toNat else lane x w (i - 1)) →
      exec (.vins k d a b rx) s = .next (retire (putV s1 d.toNat v))) ∧
    (vecSrc s (.dstS d) a 0 rx .no false 8 = .ok ((x, y, z), s1) →
      (if laneOn p w 0 then writeS s1 d (.ofNat 64 (lane x w 0).toNat) = .ok t else t = s1) →
      exec (.vmovs k d a rx) s = .next (retire t)) ∧
    (Allowed s [.dstS d, .srcV a, .srcS b] → rxOk s rx (some a) none none = true →
      (∃ s0, readVG s rx 1 a = .ok (x, s0) ∧ Reads s0 [b] [u] s1) →
      (if laneOn p w (u.toNat % n) then writeS s1 d (.ofNat 64 (lane x w (u.toNat % n)).toNat) = .ok t else t = s1) →
      exec (.vext k d a b rx) s = .next (retire t))

/-- R112: a vector register form changes nothing but its destination register and what its feed, queue and link sources
move; a comparison changes one predicate, and a predicate operation its destination alone. Each leads to the machine in which the
sources that it names have been taken in their order and its destination is written, at its successor; `moves_frame` says what that
leaves alone. VMOVS and VEXT write d only when the lane they read is enabled. -/
def Obligations.vector_frame : Prop :=
  Claims.moves_frame ∧
  ∀ (s s1 : State) (d a b : Spec) (rx : RX) (x y z : Vec) (k : LaneW) (g : SgnW) (f : FTy) (dk : DotK) (fk : FDotK)
      (vr : VRel) (vf : VFRel) (rk : VRedK) (frk : VFRedK) (cv : VCvt) (m : Rnd) (sat : Bool),
    (∀ q ∈ ([
      (.vadd k d a b rx, .vec, false, laneBits k), (.vaddTwin k d a b rx, .scal, false, laneBits k),
      (.vsub k d a b rx, .vec, false, laneBits k), (.vsubTwin k d a b rx, .scal, false, laneBits k),
      (.vmul k d a b rx, .vec, false, laneBits k), (.vmulTwin k d a b rx, .scal, false, laneBits k),
      (.vmulh g d a b rx, .vec, false, laneBits g.w), (.vmulhTwin g d a b rx, .scal, false, laneBits g.w),
      (.vmadd k d a b rx, .vec, true, laneBits k), (.vmaddTwin k d a b rx, .scal, true, laneBits k),
      (.vand d a b rx, .vec, false, 64), (.vandTwin d a b rx, .scal, false, 64),
      (.vor d a b rx, .vec, false, 64), (.vorTwin d a b rx, .scal, false, 64),
      (.vxor d a b rx, .vec, false, 64), (.vxorTwin d a b rx, .scal, false, 64),
      (.vshl k d a b rx, .vec, false, laneBits k), (.vshlTwin k d a b rx, .scal, false, laneBits k),
      (.vshr k d a b rx, .vec, false, laneBits k), (.vshrTwin k d a b rx, .scal, false, laneBits k),
      (.vsar k d a b rx, .vec, false, laneBits k), (.vsarTwin k d a b rx, .scal, false, laneBits k),
      (.vmin g d a b rx, .vec, false, laneBits g.w), (.vminTwin g d a b rx, .scal, false, laneBits g.w),
      (.vmax g d a b rx, .vec, false, laneBits g.w), (.vmaxTwin g d a b rx, .scal, false, laneBits g.w),
      (.vrot k d a b rx, .vec, false, laneBits k), (.vperm k d a b rx, .vec, false, laneBits k),
      (.vzip k d a b rx, .vec, false, laneBits k), (.vuzp k d a b rx, .vec, false, laneBits k),
      (.vsel d a b rx, .vec, false, 8),
      (.vfadd f d a b rx, .vec, false, ftyBits f), (.vfaddTwin f d a b rx, .scal, false, ftyBits f),
      (.vfsub f d a b rx, .vec, false, ftyBits f), (.vfsubTwin f d a b rx, .scal, false, ftyBits f),
      (.vfmul f d a b rx, .vec, false, ftyBits f), (.vfmulTwin f d a b rx, .scal, false, ftyBits f),
      (.vfdiv f d a b rx, .vec, false, ftyBits f), (.vfdivTwin f d a b rx, .scal, false, ftyBits f),
      (.vfmin f d a b rx, .vec, false, ftyBits f), (.vfminTwin f d a b rx, .scal, false, ftyBits f),
      (.vfmax f d a b rx, .vec, false, ftyBits f), (.vfmaxTwin f d a b rx, .scal, false, ftyBits f),
      (.vfma f d a b rx, .vec, true, ftyBits f), (.vfmaTwin f d a b rx, .scal, true, ftyBits f),
      (.vfms f d a b rx, .vec, true, ftyBits f), (.vfmsTwin f d a b rx, .scal, true, ftyBits f),
      (.vfnma f d a b rx, .vec, true, ftyBits f), (.vfnmaTwin f d a b rx, .scal, true, ftyBits f),
      (.vdot dk d a b rx, .vec, true, 32), (.vdotTwin dk d a b rx, .scal, true, 32),
      (.vfdot fk d a b rx, .vec, true, 32), (.vfdotTwin fk d a b rx, .scal, true, 32)] : List (Instr × BUse × Bool × Nat)),
      vecSrc s (.dstV d) a b rx q.2.1 q.2.2.1 q.2.2.2 = .ok ((x, y, z), s1) →
      ∃ v, exec q.1 s = .next (retire (putV (moved s (vecTakes a b rx q.2.1 q.2.2.1)) d.toNat v))) ∧
    (∀ q ∈ [Instr.vabs k d a rx, .vneg k d a rx, .vfsqrt f d a rx, .vfabs f d a rx, .vclass f d a rx, .vsin d a rx, .vcos d a rx,
        .vexp2 d a rx, .vlog2 d a rx, .vrcp d a rx, .vrsq d a rx, .vtanh d a rx, .vcvt cv m sat d a rx, .vred rk d a rx,
        .vfred frk d a rx, .vpswp k d a rx],
      (∃ g, vecSrc s (.dstV d) a 0 rx .no false g = .ok ((x, y, z), s1)) →
      ∃ v, exec q s = .next (retire (putV (moved s [.v a]) d.toNat v))) ∧
    (∀ q ∈ ([
      (.vcmp vr d a b rx, .vec, laneBits vr.w), (.vcmpTwin vr d a b rx, .scal, laneBits vr.w),
      (.vfcmp vf d a b rx, .vec, ftyBits vf.ty), (.vfcmpTwin vf d a b rx, .scal, ftyBits vf.ty)] : List (Instr × BUse × Nat)),
      vecSrc s (.pred d) a b rx q.2.1 false q.2.2 = .ok ((x, y, z), s1) →
      ∃ v, exec q.1 s = .next (retire (putM (moved s (vecTakes a b rx q.2.1 false)) d.toNat v))) ∧
    (d.toNat < 8 → a.toNat < 8 → b.toNat < 8 → ∀ q ∈ [Instr.mand d a b, .mor d a b, .mxor d a b, .mnot d a],
      ∃ v, exec q s = .next (retire (putM s d.toNat v))) ∧
    (Allowed s [.dstS d] → a.toNat < 8 → (∀ v, ∃ t, writeS s d v = .ok t) → ∃ v, exec (.mpop d a) s = .next (retire (destMoved s d v))) ∧
    (vecSrc s (.dstS d) a 0 rx .no false 8 = .ok ((x, y, z), s1) → (∀ v, ∃ t, writeS s1 d v = .ok t) →
      ∃ v, exec (.vmovs k d a rx) s = .next (retire (if laneOn (govern s rx) (laneBits k) 0 then destMoved (moved s [.v a]) d v else moved s [.v a]))) ∧
    (∀ u, (∃ s0, readVG s rx 1 a = .ok (x, s0) ∧ Reads s0 [b] [u] s1) → rxOk s rx (some a) none none = true →
      (Allowed s [.dstS d, .srcV a, .srcS b] → (∀ v, ∃ t, writeS s1 d v = .ok t) →
        ∃ v, exec (.vext k d a b rx) s = .next (retire (if laneOn (govern s rx) (laneBits k) (u.toNat % (512 / laneBits k))
          then destMoved (moved s [.v a, .s b]) d v else moved s [.v a, .s b]))) ∧
      (Allowed s [.dstV d, .srcV a, .srcS b] → ∃ v, exec (.vins k d a b rx) s = .next (retire (putV (moved s [.v a, .s b]) d.toNat v)))) ∧
    (∀ u, Allowed s [.dstV d, .srcS a] → rxOk s rx none none none = true → Reads s [a] [u] s1 →
      ∃ v, exec (.vsplat k d a rx) s = .next (retire (putV (moved s [.s a]) d.toNat v)))

/-- R109 to R111, R114: the integer and bitwise lane operations. -/
def Obligations.vector_integer_lanes : Prop :=
  Claims.integer_lanes ∧ Claims.bitwise_lanes

/-- R115, R116, R125: the floating lane operations and the special functions. -/
def Obligations.vector_float_lanes : Prop :=
  Claims.float_lanes ∧ Claims.special_function_lanes

/-- R64 to R67, R92 to R94, R125 to R127: values of the floating arithmetic that the manual fixes. -/
def Obligations.float_points : Prop :=
  Claims.scalar_float_points ∧ Claims.special_function_points

/-- R75, R122 to R124: conversions, reductions and dot products. -/
def Obligations.conversions_and_reductions : Prop :=
  Claims.vector_conversions ∧ Claims.vector_reductions

/-! Control transfer. -/

/-- R44, R97 to R99: a T tail counts leaves from the leaf of the branch; a taken branch with a good target continues
there, a branch that is not taken continues at the successor and checks no target, and both take what their sources give. -/
def Claims.branches : Prop :=
  ∀ (s s2 : State) (a b : Spec) (t : Target) (x y : Word),
    let tgt := branchTarget s t
    tgt = leafOf (cx s).pc + .ofInt 64 (64 * t.lo.toInt + 2 * t.slot.toNat) ∧
    (Allowed s [.srcS a, .srcS b] → Reads s [a, b] [x, y] s2 →
      ∀ p ∈ ([
        (.beq a b t, x = y), (.bne a b t, x ≠ y),
        (.blt a b t, x.toInt < y.toInt), (.bge a b t, y.toInt ≤ x.toInt),
        (.bltu a b t, x.toNat < y.toNat), (.bgeu a b t, y.toNat ≤ x.toNat)] : List (Instr × Prop)),
        (p.2 → checkTarget s tgt = .ok () → exec p.1 s = .next (retireTo s2 tgt)) ∧
        (¬p.2 → exec p.1 s = .next (retire s2))) ∧
    (Allowed s [.srcS a] → Reads s [a] [x] s2 →
      ∀ p ∈ ([(.bz a t, x = 0), (.bnz a t, x ≠ 0)] : List (Instr × Prop)),
        (p.2 → checkTarget s tgt = .ok () → exec p.1 s = .next (retireTo s2 tgt)) ∧
        (¬p.2 → exec p.1 s = .next (retire s2)))

/-- R97, R99: unconditional transfers. CALL and CALLR write the successor to their link, CALLR after its target is read;
LOOP counts down its register, takes the branch unless the new count is 0, and runs on from a count of 0 to 2^64 - 1. -/
def Claims.jumps : Prop :=
  ∀ (s s1 s2 : State) (d a : Spec) (t : Target) (x : Word),
    let tgt := branchTarget s t
    let succ := (cx s).succ
    (checkTarget s tgt = .ok () → exec (.b t) s = .next (retireTo s tgt)) ∧
    (Allowed s [.dstS a] → writeS s a succ = .ok s1 → checkTarget s tgt = .ok () →
      exec (.call a t) s = .next (retireTo s1 tgt)) ∧
    (Allowed s [.dstS d, .srcS a] → Reads s [a] [x] s1 → writeS s1 d succ = .ok s2 → checkTarget s x = .ok () →
      exec (.callr d a) s = .next (retireTo s2 x)) ∧
    (Allowed s [.srcS a] → Reads s [a] [x] s1 → checkTarget s x = .ok () →
      exec (.jr a) s = .next (retireTo s1 x) ∧ exec (.ret a) s = .next (retireTo s1 x)) ∧
    (Allowed s [.regS a] →
      (getS s a.toNat = 1 → exec (.loop a t) s = .next (retire (putS s a.toNat 0))) ∧
      (getS s a.toNat ≠ 1 → checkTarget s tgt = .ok () →
        exec (.loop a t) s = .next (retireTo (putS s a.toNat (getS s a.toNat - 1)) tgt)))

/-- R44 steps 1 and 3, R98: a target that is odd, in slot 0 or 31, or past the heads of a bound leaf makes the transfer
raise the bad-target fault with EVAL equal to the target and no other effect: no link is written, no counter counts and
no queue or link gives anything up. A target that cannot be fetched is no fault of the transfer. -/
def Obligations.bad_targets : Prop :=
  ∀ (s s1 s2 : State) (d a b : Spec) (t : Target) (x y : Word),
    let tgt := branchTarget s t
    let bad := fun (z : Word) => targetOk z = false ∨ ∃ f, fetchLeaf s z = .ok f ∧ leafH f.image < slotOf z
    let fault := fun (z : Word) => Outcome.next (raise s { code := 0x03, eval := z })
    (∀ z, targetOk z = true ↔ z.toNat % 2 = 0 ∧ fld z 1 5 ≠ 0 ∧ fld z 1 5 ≠ 31) ∧
    (∀ z e, targetOk z = true → fetchLeaf s z = .error e → checkTarget s z = .ok ()) ∧
    (bad tgt →
      exec (.b t) s = fault tgt ∧
      (Allowed s [.srcS a, .srcS b] → Reads s [a, b] [x, y] s1 →
        (x = y → exec (.beq a b t) s = fault tgt) ∧ (x ≠ y → exec (.bne a b t) s = fault tgt) ∧
        (x.toInt < y.toInt → exec (.blt a b t) s = fault tgt) ∧ (y.toInt ≤ x.toInt → exec (.bge a b t) s = fault tgt) ∧
        (x.toNat < y.toNat → exec (.bltu a b t) s = fault tgt) ∧ (y.toNat ≤ x.toNat → exec (.bgeu a b t) s = fault tgt)) ∧
      (Allowed s [.srcS a] → Reads s [a] [x] s1 →
        (x = 0 → exec (.bz a t) s = fault tgt) ∧ (x ≠ 0 → exec (.bnz a t) s = fault tgt)) ∧
      (Allowed s [.dstS a] → writeS s a (cx s).succ = .ok s1 → exec (.call a t) s = fault tgt) ∧
      (Allowed s [.regS a] → getS s a.toNat ≠ 1 → exec (.loop a t) s = fault tgt)) ∧
    (bad x → Allowed s [.srcS a] → Reads s [a] [x] s1 →
      exec (.jr a) s = fault x ∧ exec (.ret a) s = fault x ∧
      (Allowed s [.dstS d] → writeS s1 d (cx s).succ = .ok s2 → exec (.callr d a) s = fault x))

/-- R97: a transfer that completes changes the pc, its link or counter, and what its queue and link sources move; `moves_frame` says what
that leaves alone. -/
def Claims.control_frame : Prop :=
  ∀ (s s1 : State) (d a b : Spec) (t : Target) (x y : Word),
    checkTarget s (branchTarget s t) = .ok () →
    (∃ p, exec (.b t) s = .next (retireTo s p)) ∧
    (Allowed s [.srcS a, .srcS b] → Reads s [a, b] [x, y] s1 →
      ∀ i ∈ [Instr.beq a b t, .bne a b t, .blt a b t, .bge a b t, .bltu a b t, .bgeu a b t],
        ∃ p, exec i s = .next (retireTo (moved s [.s a, .s b]) p)) ∧
    (Allowed s [.srcS a] → Reads s [a] [x] s1 →
      (∀ i ∈ [Instr.bz a t, .bnz a t], ∃ p, exec i s = .next (retireTo (moved s [.s a]) p)) ∧
      (checkTarget s x = .ok () →
        (∀ i ∈ [Instr.jr a, .ret a], ∃ p, exec i s = .next (retireTo (moved s [.s a]) p)) ∧
        (Allowed s [.dstS d] → (∀ v, ∃ u, writeS s1 d v = .ok u) →
          ∃ v p, exec (.callr d a) s = .next (retireTo (destMoved (moved s [.s a]) d v) p)))) ∧
    (Allowed s [.dstS d] → (∀ v, ∃ u, writeS s d v = .ok u) → ∃ v p, exec (.call d t) s = .next (retireTo (destMoved s d v) p)) ∧
    (Allowed s [.regS a] → ∃ v p, exec (.loop a t) s = .next (retireTo (destMoved s a v) p))

/-! Exceptions. -/

/-- R22 step 3, R23: a trap entry that is no double fault saves pc, value and cause, stacks PRV and IE, enters the
supervisor with NEST set at TVEC, and changes no general register, no other core and no memory. -/
def Claims.trap_taken : Prop :=
  ∀ (s : State) (k : CoreId) (code : BitVec 8) (async : Bool) (epc v fx : Word),
    let c := coreOf s k
    (c.task.nest = false ∨ async = true) → tvecOk s k = true →
    let t := trapEntry s k code async epc v fx
    let x := (coreOf t k).task
    x.epc = epc ∧ x.eval = v ∧ x.cause.toNat = (if async then 2 ^ 63 else 0) + code.toNat ∧
    x.pprv = c.task.prv ∧ x.pie = c.task.ie ∧ x.ie = false ∧ x.prv = true ∧ x.nest = true ∧ x.pc = c.tvec ∧
    x.s = c.task.s ∧ x.v = c.task.v ∧ x.m = c.task.m ∧ x.sealerr = c.task.sealerr ∧ x.kscr = c.task.kscr ∧
    (coreOf t k).hand = c.hand ∧ (coreOf t k).tvec = c.tvec ∧ (∀ j, j ≠ k → coreOf t j = coreOf s j) ∧
    t.tiles = s.tiles ∧ t.net = s.net ∧ t.eva = s.eva ∧ SameMem s t

/-- R23, R24: a synchronous fault while NEST = 1, and any entry at a TVEC that is no valid target, is a double fault. EPC,
EVAL, CAUSE and STATUS stand with every other register, a record with the cause code and address goes to the EVA, and from
then on neither context of the core issues. The record of a bad TVEC carries the code 0x03 and TVEC (log 24). -/
def Claims.double_fault : Prop :=
  ∀ (s : State) (k : CoreId) (code : BitVec 8) (async : Bool) (epc v fx : Word),
    let c := coreOf s k
    let t := trapEntry s k code async epc v fx
    let nested := c.task.nest && !async
    nested = true ∨ tvecOk s k = false →
    (∃ x, coreOf t k = { c with dead := true, task := { c.task with last := x } }) ∧ (∀ j, j ≠ k → coreOf t j = coreOf s j) ∧ SameMem s t ∧ coreLive t k = false ∧
    ∃ r, t.eva.inbox = s.eva.inbox ++ [r] ∧ fld r.d0 56 8 = 4 ∧
      fld r.d0 48 8 = (if nested then code.toNat else 0x03) ∧ r.d1 = (if nested then v else c.tvec)

/-- The task context of the stepping core is free to issue at its pc: nothing waits in the agenda, no reset of a tile is wanted, no entry,
wait, pause, sample, gang or activation is due, and no chunk is kept. -/
def Claims.ready (s : State) : Prop :=
  s.agenda = [] ∧ s.mgmt.powered = true ∧ s.mgmt.wanted = [] ∧ s.kind = .task ∧ coreLive s s.cur = true ∧ taskLive s s.cur = true ∧
  s.core.act = none ∧ s.core.gang = none ∧ s.core.task.wait = .none ∧ s.core.task.takes = [] ∧ s.core.task.pauseEnd = 0 ∧ entry s = none ∧
  chunkOn s.core = false ∧ fld s.core.trctl 12 20 = 0

/-- R25, R101: ERET in supervisor mode performs the return sequence, whatever NEST was; a gang it is in dissolves. The pc
is checked as the first instruction fetched after the return: one that is no valid target raises the bad-target fault there,
with EPC equal to the address returned to, and NEST = 0 lets it trap. With the restored IE = 1 and an event pending, the
trap enters before the instruction returned to, with EPC equal to its address. -/
def Obligations.return_sequence : Prop :=
  ∀ s : State, userMode s = false →
    ∃ t, exec .eret s = .next t ∧
      (cx t).prv = (cx s).pprv ∧ (cx t).ie = (cx s).pie ∧ (cx t).nest = false ∧ (cx t).pprv = (cx s).pprv ∧
      (cx t).pie = (cx s).pie ∧ (cx t).pc = (cx s).epc ∧ (cx t).epc = (cx s).epc ∧ (cx t).cause = (cx s).cause ∧
      (cx t).eval = (cx s).eval ∧ (∀ r, getS t r = getS s r) ∧ (∀ r, getV t r = getV s r) ∧ (∀ r, getM t r = getM s r) ∧
      t.core.gang = none ∧ SameMem s t ∧
      (Claims.ready t → tvecOk (noteFetch t) t.cur = true →
        targetOk (cx s).epc = false ∨ (∃ f, fetchLeaf t (cx s).epc = .ok f ∧ leafH f.image < slotOf (cx s).epc) →
        ∃ u, step t = .next u ∧ (cx u).cause = 0x03 ∧ (cx u).eval = (cx s).epc ∧ (cx u).epc = (cx s).epc ∧ (cx u).pc = s.core.tvec) ∧
      (∀ code v q, t.agenda = [] → t.mgmt.powered = true → t.mgmt.wanted = [] → taskLive t t.cur = true → t.core.act = none → t.core.death = none →
        t.core.task.wait = .none → chunkOn t.core = false → fld t.core.trctl 12 20 = 0 → tvecOk t t.cur = true →
        (cx s).pie = true → nextEvent t t.cur = some (code, v, q) →
        ∃ u, step t = .next u ∧ (cx u).cause.toNat = 2 ^ 63 + code.toNat ∧ (cx u).epc = (cx s).epc ∧ (cx u).pc = s.core.tvec)

/-- R21, R22, R158, R230, R335, R349, R356: how an instruction's fault is taken. In the task context a cause that traps enters the
kernel with EPC at the instruction: consumed poison and the refusal of a closed port leave their record first, and a translation or
permission fault on a canonical address its page request, which FAULTX names. In the handler context every cause ends the activation
and leaves its record, and the owner's slot is no longer its own. -/
def Obligations.fault_entry : Prop :=
  ∀ (s : State) (e : Exc),
    let page := e.code ∈ ([0x06, 0x07, 0x0d] : List (BitVec 8)) ∧ canonical (walkOf s s.core.ctxnum) e.eval = true
    let before : List Rec :=
      if e.code = 0x1b then [mkRec 5 0x1b s.core.ctxnum (actTag s) s.cur.toNat e.eval (cx s).pc]
      else if e.code = 0x1a ∧ fld e.eval 36 4 = 3 then [mkRec 1 0x1a s.core.ctxnum (actTag s) s.cur.toNat e.eval 0]
      else []
    let noted : State := { s with eva := { s.eva with inbox := s.eva.inbox ++ before } }
    (s.kind = .task →
      (e.code ∈ ([0x01, 0x02, 0x03, 0x08, 0x0e, 0x0f, 0x18, 0x19, 0x1a, 0x1b, 0x1c, 0x1d, 0x1e, 0x1f, 0x20, 0x21, 0x22] : List (BitVec 8)) →
        raise s e = trapEntry noted s.cur e.code false (cx s).pc e.eval 0) ∧
      (e.code ∈ ([0x06, 0x07, 0x0d] : List (BitVec 8)) → e.acc < 4 → ∃ s1 fx, raise s e = trapEntry s1 s.cur e.code false (cx s).pc e.eval fx ∧
        fld fx 29 2 = e.acc ∧
        (¬page → s1 = s ∧ bit fx 31 = false) ∧
        (page → ∃ r, s1.tsu.reqs = s.tsu.reqs ++ [r] ∧ s1.hostOut = s.hostOut ++ [.pageReq r] ∧ r.core = s.cur ∧ r.tag = actTag s ∧
          r.ctx = s.core.ctxnum ∧ r.va = e.eval ∧ r.engine = false ∧ (r.perm = true ↔ e.code = 0x0d) ∧
          bit fx 31 = true ∧ fld fx 0 16 = r.ptag.toNat ∧ s1.core = s.core ∧ s1.others = s.others ∧ s1.eva = s.eva ∧ SameMem s s1))) ∧
    (∀ a, s.kind = .handler → s.core.act = some a →
      (coreOf (raise s e) s.cur).act = none ∧
      (∃ r, (raise s e).eva.inbox.take (s.eva.inbox.length + before.length + 1) = s.eva.inbox ++ before ++ [r] ∧ fld r.d0 56 8 = 1 ∧
        fld r.d0 48 8 = e.code.toNat ∧ r.d1 = e.eval ∧ r.d2 = (cx s).pc) ∧
      (∀ tag, a.entry.owner = some tag → (slotAt (coreOf s (tagCore tag)) (tagSlot tag)).st ≠ .free →
        slotAt (coreOf (raise s e) (tagCore tag)) (tagSlot tag) =
          { slotAt (coreOf s (tagCore tag)) (tagSlot tag) with st := .free, purging := true }))

/-- R56, R101, R102, R104, R185 to R189: in user mode, and always in the handler context, a supervisor-only form raises
the privilege fault with EVAL 0 once its specifiers are legal. -/
def Claims.privilege_faults : Prop :=
  ∀ (s : State) (d a b : Spec) (n : BitVec 10),
    let s' := dissolveMine s
    userMode s = true →
    exec .eret s = .next (raise s' { code := 0x08, eval := 0 }) ∧
    exec .halt s = .next (raise s' { code := 0x08, eval := 0 }) ∧
    (Use.legal (.dstS d) = true → Use.legal (.srcS a) = true → n.toNat ≤ 4 ∨ n = 0x013 ∨ n = 0x014 ∨ n = 0x042 ∨ n = 0x044 ∨ n = 0x045 →
      ∀ i ∈ [Instr.csrd d n a, .cswr d n a, .csset d n a, .csclr d n a], exec i s = .next (raise s { code := 0x08, eval := 0 })) ∧
    (Use.legal (.dstS d) = true → Use.legal (.srcS a) = true → Use.legal (.srcS b) = true →
      ∀ i ∈ [Instr.rqadd d a b, .rqtake d, .rqpeek d a b, .tmset d a, .steal d a b], exec i s = .next (raise s { code := 0x08, eval := 0 }))

/-- R38, R57, R58, R79, R80, R100, R104 to R106: the system instructions. -/
def Obligations.system_instructions : Prop :=
  ∀ (s : State) (i : BitVec 6) (k : BitVec 4) (op : BitVec 8),
    exec .nop s = .next (retire s) ∧ exec (.hint k) s = .next (retire s) ∧
    (s.kind = .task → s.core.task.nest = false → tvecOk s s.cur = true →
      (∃ t, exec (.trap i) s = .next t ∧ t.core.task.epc = s.core.task.succ ∧ t.core.task.cause = 0x09 ∧
        t.core.task.eval.toNat = i.toNat ∧ t.core.task.pc = s.core.tvec ∧ t.core.task.prv = true ∧ t.core.task.nest = true ∧
        t.core.task.s = s.core.task.s ∧ t.core.gang = none) ∧
      (∃ t, exec (.brk i) s = .next t ∧ t.core.task.epc = s.core.task.pc ∧ t.core.task.cause = 0x0a ∧
        t.core.task.eval.toNat = i.toNat ∧ t.core.task.pc = s.core.tvec ∧ t.core.task.prv = true ∧ t.core.task.nest = true ∧
        t.core.task.s = s.core.task.s ∧ t.core.gang = none) ∧
      (∃ t, exec (.unassignedOpcode op) s = .next t ∧ t.core.task.epc = s.core.task.pc ∧ t.core.task.cause = 0x01 ∧
        t.core.task.eval = s.core.task.raw ∧ t.core.task.pc = s.core.tvec ∧ t.core.task.prv = true ∧ t.core.task.nest = true ∧
        t.core.task.s = s.core.task.s)) ∧
    (userMode s = false → ∃ t, exec .halt s = .next t ∧ (cx t).halted = true ∧ (cx t).pc = (cx s).pc ∧
      t.core.hand = s.core.hand ∧ taskLive t s.cur = false) ∧
    (s.kind = .handler → ∃ t, exec .wfe s = .next (retire t) ∧ cx t = cx s) ∧
    (s.kind = .task → ∃ t, cx t = cx s ∧ t.core.gang = none ∧
      ((eventPending s s.cur = true ∨ (deliverable s s.cur).isSome) → exec .wfe s = .next (retire t)) ∧
      ((eventPending s s.cur = false ∧ deliverable s s.cur = none) → exec .wfe s = .next (waiting t .wfe)))

/-! Control registers. -/

/-- The value each register reads with, and whether the read needs the supervisor (R16 to R20, R33, R102). -/
def Claims.csr_reads : Prop :=
  ∀ (s t : State) (d a : Spec) (c : BitVec 10),
    let x := cx s
    ∀ p ∈ ([
      (0x000, true, x.status ||| .ofNat 64 ((if s.kind = .handler then 4096 else 0) + (if timerPending s s.core then 2048 else 0))),
      (0x001, true, x.cause), (0x002, true, x.epc), (0x003, true, x.eval), (0x004, true, s.core.tvec),
      (0x010, false, .ofNat 64 (s.cur.toNat + coreY s.cur / 16 * 1024 + (coreX s.cur % 2 + 2 * (coreY s.cur % 2)) * 2048)),
      (0x011, false, .ofNat 64 s.core.ctxnum.toNat), (0x012, false, .ofNat 64 (s.ck - s.core.ckBase)),
      (0x013, true, s.core.timecmp), (0x014, true, x.sealerr), (0x020, false, (tileOf s (myTile s)).qmap),
      (0x042, true, s.core.vsave), (0x043, true, x.faultx), (0x045, true, x.kscr), (0x050, false, s.core.copyid),
      (0x051, false, s.core.copyepc), (0x053, false, s.core.mprogc), (0x070, true, s.core.trctl),
      (0x072, true, s.core.stealf)] : List (BitVec 10 × Bool × Word)),
      c = p.1 → (p.2.1 = true → userMode s = false) → Allowed s [.dstS d] → writeS s d p.2.2 = .ok t →
      exec (.csrd d c a) s = .next (retire t)

/-- R102, R103: CSWR, CSSET and CSCLR return the old value and write the source, the old value with the source's bits set,
or with them cleared; fields that no write reaches keep their value. -/
def Claims.csr_writes : Prop :=
  ∀ (s s1 : State) (d a : Spec) (c : BitVec 10) (x : Word),
    Allowed s [.dstS d, .srcS a] → Reads s [a] [x] s1 →
    ∀ p ∈ ([
      (0x000, true, 0x720), (0x001, true, 0x80000000000000ff), (0x002, true, 0xfffffffffffffffe), (0x003, true, 0xffffffffffffffff),
      (0x004, true, 0xfffffffffffffffe), (0x013, true, 0xffffffffffffffff), (0x014, true, 0xfffffffff),
      (0x030, true, 0xffc0), (0x03b, true, 0x7), (0x03f, true, 0xfffff), (0x042, true, 0xfffffffffffff000),
      (0x045, true, 0xffffffffffffffff), (0x050, false, 0x100000000), (0x051, false, 0xfffffffffffffffe)] : List (BitVec 10 × Bool × Word)),
      c = p.1 → (p.2.1 = true → userMode s = false) →
      ∀ q ∈ ([(.cswr d c a, x), (.csset d c a, csrGet s1 c.toNat ||| x), (.csclr d c a, csrGet s1 c.toNat &&& ~~~x)] : List (Instr × Word)),
        let u := csrPut s1 c.toNat q.2
        (∀ t, writeS u d (csrGet s1 c.toNat) = .ok t → exec q.1 s = .next (retire t)) ∧
        (c ≠ 0x013 → csrGet u c.toNat = (csrGet s1 c.toNat &&& ~~~p.2.2) ||| (q.2 &&& p.2.2)) ∧
        (c = 0x013 → u.core.timecmp = q.2) ∧
        (∀ r, getS u r = getS s1 r) ∧ (∀ r, getV u r = getV s1 r) ∧ (∀ r, getM u r = getM s1 r) ∧ SameMem s1 u ∧
        (∀ n ∈ ([1, 2, 3, 4, 0x13, 0x14, 0x21, 0x30, 0x3b, 0x3f, 0x42, 0x43, 0x45, 0x50, 0x51, 0x52, 0x53, 0x70, 0x72] : List Nat),
          n ≠ c.toNat → csrGet u n = csrGet s1 n)

/-- R16, R102: a number that no register has is an illegal operand specifier with EVAL equal to it; a write of a
register without write access is an illegal instruction. The registers are those of R16's table, R303, R307, R364 and R417. -/
def Claims.csr_faults : Prop :=
  ∀ (s : State) (d a : Spec) (c : BitVec 10), Use.legal (.dstS d) = true →
    let n := c.toNat
    let assigned := n ≤ 0x004 ∨ (0x010 ≤ n ∧ n ≤ 0x014) ∨ (0x020 ≤ n ∧ n ≤ 0x022) ∨ (0x030 ≤ n ∧ n ≤ 0x045) ∨
      (0x050 ≤ n ∧ n ≤ 0x054) ∨ (0x058 ≤ n ∧ n ≤ 0x072)
    let readOnly := (0x010 ≤ n ∧ n ≤ 0x012) ∨ n = 0x022 ∨ n = 0x040 ∨ n = 0x041 ∨ n = 0x043 ∨ n = 0x054 ∨ (0x058 ≤ n ∧ n ≤ 0x06f)
    (csrRights n = none ↔ ¬assigned) ∧
    ((∃ r, csrRights n = some ⟨r, none⟩) ↔ readOnly) ∧
    (¬assigned →
      ∀ i ∈ [Instr.csrd d c a, .cswr d c a, .csset d c a, .csclr d c a], exec i s = .next (raise s { code := 0x02, eval := c.setWidth 64 })) ∧
    (readOnly →
      ∀ i ∈ [Instr.cswr d c a, .csset d c a, .csclr d c a], exec i s = .next (raise s { code := 0x01, eval := (cx s).raw }))

/-- R44, R97 to R99: control transfers that complete, and what they leave alone. -/
def Obligations.control_transfers : Prop :=
  Claims.branches ∧ Claims.jumps ∧ Claims.control_frame

/-- R22 to R24: taking an exception. -/
def Obligations.trap_entry : Prop :=
  Claims.trap_taken ∧ Claims.double_fault

/-- R16 to R20, R102, R103: control registers read and written. -/
def Obligations.csr_access : Prop :=
  Claims.csr_reads ∧ Claims.csr_writes

/-- R16, R56, R101, R102, R104, R185 to R190: accesses and forms that the mode or the register refuses. -/
def Obligations.csr_and_privilege_faults : Prop :=
  Claims.csr_faults ∧ Claims.privilege_faults

/-! Memory. -/

/-- R35, R87, R199, R256 to R258: where an access lies. A misaligned access of a form that requires alignment faults with
0x0e before anything else; then virtual addresses translate page by page, and array addresses are checked for space,
range, partition and, in a handler, for its regions. An access of a region that is being filled has issued, and waits for the fill (R212, R260). -/
def Obligations.access_checks : Prop :=
  ∀ (s : State) (ea : Word) (n al : Nat) (acc : Acc) (back : Bool),
    (ea.toNat % al ≠ 0 → ∀ sp, placeOf s sp ea n al acc back = exc 0x0e ea) ∧
    (ea.toNat % al = 0 →
      (∀ segs, xlat s ea n acc = .ok segs → placeOf s .virt ea n al acc back = .ok (.virt segs)) ∧
      (bit ea 21 = true → placeOf s .arr ea n al acc back = exc 0x0f ea) ∧
      (bit ea 21 = false → 0xc000 < fld ea 0 21 + n → placeOf s .arr ea n al acc back = exc 0x18 ea) ∧
      (bit ea 21 = false → fld ea 0 21 + n ≤ 0xc000 →
        (inPart s s.cur (arrCore ea) = false → placeOf s .arr ea n al acc back = exc 0x19 ea) ∧
        (inPart s s.cur (arrCore ea) = true →
          (s.kind = .task → regionOk s (fld ea 0 21) n (acc != .r) = true) ∧
          (arrCore ea = s.cur → regionOk s (fld ea 0 21) n (acc != .r) = true →
            placeOf s .arr ea n al acc back =
              if filled s (lmKey s.cur (fld ea 0 21)) n then .ok (.own (fld ea 0 21)) else .error .hold) ∧
          (arrCore ea = s.cur → regionOk s (fld ea 0 21) n (acc != .r) = false → placeOf s .arr ea n al acc back = exc 0x23 ea) ∧
          (arrCore ea ≠ s.cur → (back && s.kind == .handler) = false →
            placeOf s .arr ea n al acc back = .ok (.remote (arrCore ea) (fld ea 0 21))) ∧
          (arrCore ea ≠ s.cur → s.kind = .handler → back = true → placeOf s .arr ea n al acc back = exc 0x24 0))))

/-- R257, R258: a load puts the bytes at its place into d, lowest address lowest, extended as its form says; bytes of an
array region of another owner read as zero (R212). With room in d (R42), a load of another core's bytes sends its request and waits
(R208, R260), its sources not yet taken; a closed port toward that core refuses it at once with reason 3 (R365). No register but
d and no byte of memory changes. -/
def Obligations.scalar_loads : Prop :=
  ∀ (s s1 s2 : State) (d : Spec) (m : MemOp) (b : Word) (k : LaneW) (e : ExtW) (sc : Scope) (pl : Place) (bs : List Byte),
    Allowed s [.dstS d, .srcS m.a] → Reads s [m.a] [b] s1 →
    let ea := formAddr m.sp b m.off
    ∀ p ∈ ([
      (.ld k d m, laneBits k / 8, 1, true), (.ldu e d m, extBits e / 8, 1, false),
      (.ldacq k sc d m, laneBits k / 8, laneBits k / 8, true)] : List (Instr × Nat × Nat × Bool)),
      let n := p.2.1
      placeOf s1 m.sp ea n p.2.2.1 .r true = .ok pl →
      ((∀ c off, pl ≠ .remote c off) → readPlace s1 ea n pl = .ok (bs, s2) →
        bs.length = n ∧
        (∀ i, i < n → ∀ off, pl = .own off →
          bs[i]?.getD 0 = if stampOf s1 ((lmKey s.cur off + i) / 4096) = s.core.ctxnum.toNat then byteAt s1 true (lmKey s.cur off + i) else 0) ∧
        (∀ segs, pl = .virt segs → bs = segs.flatMap fun g => (List.range g.2).map fun i => byteAt s1 false (g.1 + i)) ∧
        ∀ t, writeS s2 d (if p.2.2.2 then .ofInt 64 (toIntN (8 * n) (ofLe bs)) else .ofNat 64 (ofLe bs)) = .ok t →
          exec p.1 s = .next (retire t) ∧ LoadFrame [d.toNat] [] s (retire t)) ∧
      (∀ c off u, pl = .remote c off → coreShut s s.cur c = true → writeS s1 d 0 = .ok u →
        exec p.1 s = .next (raise s { code := 0x1a, eval := refusalEval ea 3 })) ∧
      (∀ c off u, pl = .remote c off → coreShut s s.cur c = false → writeS s1 d 0 = .ok u →
        ∃ t, exec p.1 s = .next t ∧ (cx t).wait = .remote d n p.2.2.2 ea ∧ (cx t).pc = (cx s).pc ∧ (cx t).takes = [.s m.a] ∧
          (∃ q, t.net = s.net ++ [q] ∧ q.src = s.cur ∧ q.dst = c ∧ q.body = .load s.kind [⟨off, 0, n⟩] ea) ∧ LoadFrame [] [] s t)

/-- R209, R242, R259: a store writes the low bytes of its operand at its place and nothing else; an issued release waits for the
context's posted stores before it takes effect. A store to another core is posted: it takes the lowest free entry of the journal,
its packet leaves, and no byte changes yet; a full journal blocks. A release that is posted carries its order with it, and the
accesses behind it wait for the earlier stores. A closed port refuses a posted store with reason 3, in an EVA record and in an
answer that the entry awaits (R365). -/
def Obligations.scalar_stores : Prop :=
  ∀ (s s1 : State) (v : Spec) (m : MemOp) (x b : Word) (k : LaneW) (sc : Scope) (pl : Place),
    Allowed s [.srcS v, .srcS m.a] → Reads s [v, m.a] [x, b] s1 →
    let ea := formAddr m.sp b m.off
    let n := laneBits k / 8
    ∀ p ∈ ([(.st k v m, 1, false), (.strel k sc v m, n, true)] : List (Instr × Nat × Bool)),
      placeOf s1 m.sp ea n p.2.1 .w false = .ok pl →
      (p.2.2 = true → storesDone s = false →
        (∀ off, pl = .own off → ∃ t, exec p.1 s = .next t ∧ (cx t).wait = .strel (some off) [] (leBytes n x.toNat) ∧
          (cx t).pc = (cx s).pc ∧ (cx t).takes = [.s v, .s m.a] ∧ RegsSame s t ∧ ∀ r a, byteAt t r a = byteAt s r a) ∧
        (∀ segs, pl = .virt segs → ∃ t, exec p.1 s = .next t ∧ (cx t).wait = .strel none segs (leBytes n x.toNat) ∧
          (cx t).pc = (cx s).pc ∧ (cx t).takes = [.s v, .s m.a] ∧ RegsSame s t ∧ ∀ r a, byteAt t r a = byteAt s r a)) ∧
      ((p.2.2 = true → storesDone s = true) →
        (∀ off, pl = .own off → ∃ t, exec p.1 s = .next t ∧ (cx t).pc = (cx s).succ ∧ RegsSame s t ∧
          let lo := lmKey s.cur off
          (∀ i, i < n → byteAt t true (lo + i) = .ofNat 8 (fld x (8 * i) 8)) ∧ (∀ a, byteAt t false a = byteAt s false a) ∧
          ∀ a, a < lo ∨ lo + n ≤ a → byteAt t true a = if claims s1 lo n a then 0 else byteAt s true a) ∧
        (∀ segs, pl = .virt segs → ∃ t, exec p.1 s = .next t ∧ (cx t).pc = (cx s).succ ∧ RegsSame s t ∧
          (segs.Pairwise (fun f g => f.1 + f.2 ≤ g.1 ∨ g.1 + g.2 ≤ f.1) → readSegs t.pmem segs = leBytes n x.toNat) ∧
          (∀ a, byteAt t true a = byteAt s true a) ∧
          ∀ a, (∀ g ∈ segs, a < g.1 ∨ g.1 + g.2 ≤ a) → byteAt t false a = byteAt s false a)) ∧
      (∀ c off, pl = .remote c off →
        (freeEntry s1.core = none → exec p.1 s = .next (blocked s)) ∧
        (∀ j, freeEntry s1.core = some j →
          ∃ t, exec p.1 s = .next t ∧ RegsSame s t ∧ (∀ r a, byteAt t r a = byteAt s r a) ∧
            (if p.2.2 = true ∧ storesDone s = false then (cx t).wait = .fenceRs ∧ (cx t).pc = (cx s).pc
              else (cx t).wait = .none ∧ (cx t).pc = (cx s).succ) ∧
            vget t.core.journal j none = some ⟨c, ea, s.kind, actTag s1, [(off, leBytes n x.toNat)], s1.core.txn, true⟩ ∧
            ∃ q, t.net = s1.net ++ [q] ∧
              (coreShut s1 s.cur c = false → t.eva = s1.eva ∧ q.src = s.cur ∧ q.dst = c ∧
                q.body = .store j s.kind [(off, leBytes n x.toNat)] ea p.2.2) ∧
              (coreShut s1 s.cur c = true → q.dst = s.cur ∧ q.body = .storeRefused j 3 ea ∧
                ∃ r, t.eva.inbox = s1.eva.inbox ++ [r] ∧ r.kind = 1 ∧ r.code = 0x12)))

/-- R261 to R263: what an atomic writes over the old value; CAS writes nothing when the comparison fails. -/
def Claims.atomic_values : Prop :=
  ∀ (old c e : Word) (f : BitVec 32) (n : Nat), n = 4 ∨ n = 8 →
    (∀ p ∈ ([
      (.add, .ofInt 64 (old.toInt + c.toInt)), (.and, old &&& c), (.or, old ||| c), (.xor, old ^^^ c), (.swap, c),
      (.min, .ofInt 64 (Min.min old.toInt c.toInt)), (.max, .ofInt 64 (Max.max old.toInt c.toInt)),
      (.maxu, .ofNat 64 (Max.max old.toNat c.toNat))] : List (AmoOp × Word)),
      (AtomicReq.amo p.1 c).result old = some p.2) ∧
    (old.toNat = e.toNat % 2 ^ (8 * n) → (AtomicReq.cas n e c).result old = some (.ofNat 64 (c.toNat % 2 ^ (8 * n)))) ∧
    (old.toNat ≠ e.toNat % 2 ^ (8 * n) → (AtomicReq.cas n e c).result old = none) ∧
    (AtomicReq.addF f).result old =
      some (.ofNat 64 (roundTo fp32 .ne false (XVal.add .ne (fp32.decode (fld old 0 32)) (fp32.decode f.toNat))))

/-- R242, R245, R255, R261, R262: a near atomic waits for the context's posted stores, then performs its read and write
as one and returns the old value in d, which is written to the machine that the access has left, its queues and links as they were; one on another core's memory goes there, and the context waits, but for a closed port,
which refuses it with reason 3. CAS compares with the old content of its own d. The tag of the core's atomics rises with each. -/
def Claims.atomic_accesses : Prop :=
  ∀ (s s1 : State) (d c : Spec) (m : MemOp) (b x : Word) (op : AmoOp) (w : CasW) (sc : Scope) (pl : Place),
    let ea := formAddr m.sp b m.off
    Reads s [m.a, c] [b, x] s1 →
    ∀ p ∈ ([
      (.amo op sc d m c, .dstS d, .amo op x), (.cas w sc d m c, .regS d, .cas (casBits w / 8) (getS s d.toNat) x)] :
        List (Instr × Use × AtomicReq)),
      Allowed s [p.2.1, .srcS m.a, .srcS c] →
      let r := p.2.2
      placeOf s1 m.sp ea r.size r.size .rw true = .ok pl →
      (storesDone s = false → (∃ u, writeS s1 d 0 = .ok u) → exec p.1 s = .next (blocked s)) ∧
      (storesDone s = true →
        (∀ q lo, placeCell s1 pl = some (q, lo) → (∀ segs, pl = .virt segs → segs = [(lo, r.size)] ∧ checkPoison s1 ea segs = .ok ()) →
          let old := ofLe ((List.range r.size).map fun i =>
            if q && stampOf s1 ((lo + i) / 4096) != s.core.ctxnum.toNat then 0 else byteAt s1 q (lo + i))
          let new := ((r.result (.ofNat 64 old)).map (·.toNat)).getD old
          ∃ bs s3, atomicAt (nextTag s1).2 ea r pl = .ok (bs, s3) ∧ ofLe bs = old ∧ RegsSame s1 s3 ∧ SameFifos s1 s3 ∧ s3.core.atag = s.core.atag + 1 ∧ (∀ i, i < r.size → byteAt s3 q (lo + i) = .ofNat 8 (new / 2 ^ (8 * i))) ∧
            (∀ q' a, q' ≠ q ∨ a < lo ∨ lo + r.size ≤ a →
              byteAt s3 q' a = if q' = q ∧ q = true ∧ claims s1 lo r.size a then 0 else byteAt s q' a) ∧
            ((∃ u, writeS s1 d 0 = .ok u) → exec p.1 s = .next (retire (destMoved s3 d (.ofNat 64 old))))) ∧
        (∀ k off u, pl = .remote k off → coreShut s s.cur k = true → writeS s1 d 0 = .ok u →
          exec p.1 s = .next (raise s { code := 0x1a, eval := refusalEval ea 3 })) ∧
        (∀ k off u, pl = .remote k off → coreShut s s.cur k = false → writeS s1 d 0 = .ok u →
          ∃ t, exec p.1 s = .next t ∧ (cx t).wait = .remote d r.size false ea ∧ t.core.atag = s.core.atag + 1 ∧
            LoadFrame [] [] s t ∧ ∃ q, t.net = s.net ++ [q] ∧ q.dst = k ∧ q.body = .atomic s.kind off r s.core.atag ea))

/-- R217, R245, R246, R250, R261 to R263, R266: far atomics and reductions send one request with the operand to the slice that the
tile's copy of the table names, each far atomic under a tag of its own, and the context waits. The number of a reduction's entry is
given where it is logged. -/
def Obligations.far_requests : Prop :=
  ∀ (s s1 : State) (d c : Spec) (m : BaseOff) (b x : Word) (op : AmoOp) (w : CasW) (sc : Scope) (rk : RedK) (pa l : Nat)
      (rest : List (Nat × Nat)),
    let ea := b + .ofInt 64 m.off.toInt
    (Reads s [m.a, c] [b, x] s1 →
      ∀ p ∈ ([
        (.amofar op sc d m c, .dstS d, .amo op x), (.amof sc d m c, .dstS d, .addF (.ofNat 32 x.toNat)),
        (.casfar w sc d m c, .regS d, .cas (casBits w / 8) (getS s d.toNat) x)] : List (Instr × Use × AtomicReq)),
        Allowed s [p.2.1, .srcS m.a, .srcS c] →
        let r := p.2.2
        placeOf s1 .virt ea r.size r.size .rw true = .ok (.virt ((pa, l) :: rest)) →
        checkPoison s1 ea ((pa, r.size) :: rest) = .ok () → storesDone s = true → (∃ u, writeS s1 d 0 = .ok u) →
        ∃ t, exec p.1 s = .next t ∧ (cx t).wait = .far d r.size ea s.core.atag ∧ t.core.atag = s.core.atag + 1 ∧
          (∃ q, t.net = s.net ++ [q] ∧ q.body = .far s.kind pa r s.core.atag (sliceFor s pa)) ∧ LoadFrame [] [] s t) ∧
    (Allowed s [.srcS d, .srcS m.a] → Reads s [d, m.a] [x, b] s1 →
      let n := RedKind.bytes rk
      placeOf s1 .virt ea n n .rw false = .ok (.virt ((pa, l) :: rest)) →
      ∃ t, exec (.red rk d m) s = .next t ∧ (cx t).wait = .red ea s.core.txn ∧ t.core.txn = s.core.txn + 1 ∧
        (∃ q, t.net = s.net ++ [q] ∧
          q.body = .red ⟨pa, ea, rk, .ofNat 64 (x.toNat % 2 ^ (8 * n)), s.cur, s.kind, 0, false⟩ s.core.txn (sliceFor s pa)) ∧ LoadFrame [] [] s t)

/-- R238, R242, R248, R251, R265, R267 to R272: ordering and publishing. A fence completes at once when the context's
posted stores are answered and waits otherwise; MERGE takes the logged entries that its range covers, and waits for them and for
the posted stores; BIND sends its invalidation, under a number of its own, to every core of the scope that is not dark, none for a
length of 0; WAITA completes when the word differs from d; PREF moves tokens and no byte; CWB and CINV wait only for a dirty line,
and CINV leaves no token of the line outside the home slice and no half of it in the device. -/
def Obligations.ordering_instructions : Prop :=
  ∀ (s s1 : State) (d : Spec) (m : BaseOff) (b : Word) (sc : Scope) (w : CasW) (ex : Bool) (segs : List (Nat × Nat)) (pa l : Nat),
    let ea := b + .ofInt 64 m.off.toInt
    let n := (getS s d.toNat).toNat
    (storesDone s = true → exec (.fence sc) s = .next (retire s) ∧ exec .fenceRs s = .next (retire s)) ∧
    (storesDone s = false → exec (.fence sc) s = .next (waiting s .fence) ∧ exec .fenceRs s = .next (waiting s .fenceRs)) ∧
    (Allowed s [.regS d, .srcS m.a] → Reads s [m.a] [b] s1 →
      (ea.toNat % 4 ≠ 0 ∨ n % 4 ≠ 0 →
        exec (.merge d m) s = .next (raise s { code := 0x0e, eval := ea }) ∧
        exec (.bind sc d m) s = .next (raise s { code := 0x0e, eval := ea })) ∧
      (ea.toNat % 4 = 0 → n % 4 = 0 →
        (xlat s1 ea n .rw = .ok segs →
          let es := (takeLogs s1 s.core.ctxnum fun e => inSegs segs e.pa (RedKind.bytes e.k)).1
          let old := (SMap.get? s1.taken (2 * s.cur.toNat + ctxCode s.kind)).getD []
          ∃ t, exec (.merge d m) s = .next t ∧ RegsSame s t ∧ (∀ r a, byteAt t r a = byteAt s r a) ∧
            (es = [] → old = [] → storesDone s = true → (cx t).pc = (cx s).succ ∧ (cx t).wait = .none) ∧
            (es ≠ [] ∨ old ≠ [] ∨ storesDone s = false → (cx t).wait = .merge ∧ (cx t).pc = (cx s).pc) ∧
            t.logs = (takeLogs s1 s.core.ctxnum fun e => inSegs segs e.pa (RedKind.bytes e.k)).2.logs ∧
            (es ≠ [] → SMap.get? t.taken (2 * s.cur.toNat + ctxCode s.kind) = some (old ++ es))) ∧
        (n = 0 → storesDone s = true → exec (.bind sc d m) s = .next (retire (nextTxn s1).2)) ∧
        (n ≠ 0 → xlatMapped s1 (n / 4096 + 2) ea.toNat n = .ok segs →
          let ks := (scopeCores s.cur sc).filter fun k => !isDark s (tileOfCore k)
          ks ≠ [] →
          ∃ t, exec (.bind sc d m) s = .next t ∧ (cx t).wait = .bind ks.length s1.core.txn ∧ RegsSame s t ∧
            t.net = s1.net ++ ks.map fun k => ⟨s.cur, k, actTag s1, s1.core.ctxnum, .bindInv s.kind s1.core.txn segs⟩)) ∧
      (∀ pl bs s2, placeOf s1 .virt ea (casBits w / 8) (casBits w / 8) .r false = .ok pl →
        readPlace s1 ea (casBits w / 8) pl = .ok (bs, s2) →
        (ofLe bs ≠ n % 2 ^ casBits w → ∀ t, writeS s2 d (.ofNat 64 (ofLe bs)) = .ok t →
          exec (.waita w sc d m) s = .next (retire t)) ∧
        (ofLe bs = n % 2 ^ casBits w → (s.kind = .task → eventPending s s.cur = false) →
          ∃ t, exec (.waita w sc d m) s = .next t ∧ LoadFrame [] [] s t ∧ (cx t).pc = (cx s).pc ∧
            (cx t).wait = .waita d ea (casBits w / 8) (.ofNat 64 (n % 2 ^ casBits w))))) ∧
    (Allowed s [.srcS m.a] → Reads s [m.a] [b] s1 →
      (∃ t, exec (.pref ex m) s = .next t ∧ (cx t).pc = (cx s).succ ∧ LoadFrame [] [] s t) ∧
      (xlat s1 ea 1 .r = .ok ((pa, l) :: segs) →
        (lineDirty s1 (pa / 128) = false → exec (.cwb m) s = .next (retire s1)) ∧
        (lineDirty s1 (pa / 128) = true →
          ∃ t, exec (.cwb m) s = .next t ∧ (cx t).wait = .writeBack ∧ lineDirty t (pa / 128) = false ∧ LoadFrame [] [] s t)) ∧
      (xlatMapped s1 2 ea.toNat 1 = .ok ((pa, l) :: segs) → userMode s = false →
        ∃ t, exec (.cinv m) s = .next t ∧ (lineOf t (pa / 128)).hold = [] ∧ (lineOf t (pa / 128)).way = none ∧
          (lineOf t (pa / 128)).h0 = .i ∧ (lineOf t (pa / 128)).h1 = .i ∧
          (cx t).wait = (if lineDirty s1 (pa / 128) then .writeBack else .none) ∧ LoadFrame [] [] s t))

/-- R128, R129: a vector load whose elements all lie in virtual space or in the core's own memory fills the enabled lanes
with the elements at their own addresses; disabled lanes keep the old destination and touch no memory. -/
def Obligations.vector_loads : Prop :=
  ∀ (s s1 : State) (d : Spec) (m : MemOp) (rx : RX) (b u : Word) (c : Vec) (k : LaneW) (pl : Nat → Place) (bs : Nat → List Byte),
    let ea := formAddr m.sp b m.off
    ∀ p ∈ ([
      (.vld d m rx, 1, fun i => .ofNat 64 i,
        Allowed s [.dstV d, .srcS m.a] ∧ rxOk s rx none none none = true ∧ Reads s [m.a] [b] s1),
      (.vlds k d m rx, laneBits k / 8, fun i => u * .ofNat 64 i,
        Allowed s [.dstV d, .srcS m.a, .srcS rx.c] ∧ rxOk s rx none none none = true ∧ Reads s [m.a, rx.c] [b, u] s1),
      (.vgath k d m rx, laneBits k / 8, fun i => .ofInt 64 (lane c (laneBits k) i).toInt,
        Allowed s [.dstV d, .srcS m.a, .srcV rx.c] ∧ rxOk s rx none none (some rx.c) = true ∧
          ∃ s0, Reads s [m.a] [b] s0 ∧ readVG s0 rx 3 rx.c = .ok (c, s1))] : List (Instr × Nat × (Nat → Word) × Prop)),
      let n := p.2.1
      let on := fun i => laneOn (govern s rx) (8 * n) i
      p.2.2.2 →
      (∀ i, i < 64 / n → on i = true →
        placeOf s1 m.sp (elemAddr m.sp ea (p.2.2.1 i)) n n .r true = .ok (pl i) ∧
        elemBytes s1 ⟨n * i, n, elemAddr m.sp ea (p.2.2.1 i)⟩ (pl i) = some (bs i) ∧
        ∀ segs, pl i = .virt segs → checkPoison s1 (elemAddr m.sp ea (p.2.2.1 i)) segs = .ok ()) →
      ∃ t, exec p.1 s = .next t ∧ (cx t).pc = (cx s).succ ∧ LoadFrame [] [d.toNat] s t ∧
        ∀ i, i < 64 / n → lane (getV t d.toNat) (8 * n) i = if on i then .ofNat _ (ofLe (bs i)) else lane (getV s d.toNat) (8 * n) i

/-- R128 to R130: a vector store whose elements all lie in virtual space or in the core's own memory writes the enabled
elements, a later one over an earlier one; every byte outside them reads as before, but for array regions that the store
takes from another owner, which read zero (R212). -/
def Obligations.vector_stores : Prop :=
  ∀ (s s1 : State) (d : Spec) (m : MemOp) (rx : RX) (b u : Word) (v c : Vec) (k : LaneW) (pl : Nat → Place) (at_ : Nat → Nat) (r : Bool),
    let ea := formAddr m.sp b m.off
    ∀ p ∈ ([
      (.vst d m rx, 1, fun i => .ofNat 64 i,
        Allowed s [.srcV d, .srcS m.a] ∧ rxOk s rx none none none = true ∧
          ∃ s0, readV s d = .ok (v, s0) ∧ Reads s0 [m.a] [b] s1),
      (.vsts k d m rx, laneBits k / 8, fun i => u * .ofNat 64 i,
        Allowed s [.srcV d, .srcS m.a, .srcS rx.c] ∧ rxOk s rx none none none = true ∧
          ∃ s0, readV s d = .ok (v, s0) ∧ Reads s0 [m.a, rx.c] [b, u] s1),
      (.vscat k d m rx, laneBits k / 8, fun i => .ofInt 64 (lane c (laneBits k) i).toInt,
        Allowed s [.srcV d, .srcS m.a, .srcV rx.c] ∧ rxOk s rx none none (some rx.c) = true ∧
          ∃ s0 s2, readV s d = .ok (v, s0) ∧ Reads s0 [m.a] [b] s2 ∧ readVG s2 rx 3 rx.c = .ok (c, s1))] :
        List (Instr × Nat × (Nat → Word) × Prop)),
      let n := p.2.1
      let on := fun i => i < 64 / n ∧ laneOn (govern s rx) (8 * n) i = true
      p.2.2.2 →
      (∀ i, on i → placeOf s1 m.sp (elemAddr m.sp ea (p.2.2.1 i)) n n .w false = .ok (pl i) ∧ placeCell s1 (pl i) = some (r, at_ i)) →
      ∃ t, exec p.1 s = .next t ∧ (cx t).pc = (cx s).succ ∧ RegsSame s t ∧
        (∀ i j, on i → j < n → (∀ i', i < i' → on i' → at_ i' + n ≤ at_ i + j ∨ at_ i + j < at_ i') →
          byteAt t r (at_ i + j) = lane v 8 (n * i + j)) ∧
        (∀ r' a, (∀ i, on i → r' ≠ r ∨ a < at_ i ∨ at_ i + n ≤ a) →
          byteAt t r' a = byteAt s r' a ∨ r' = r ∧ r = true ∧ (∃ i, on i ∧ claims s1 (at_ i) n a = true) ∧ byteAt t r' a = 0)

/-- R129, R130, R208, R209: elements in other cores. A load sends one request to each core it reaches, in the order in which its
elements reach them, with the pieces that lie there and the address of the first, and waits for all of them; what it can read at once
is in the lanes that it keeps. A store takes one journal entry, the lowest free, and sends one packet for each core, with the bytes of
its pieces, and blocks while the journal lacks room. No byte of memory outside the elements in the core's own memory changes. -/
def Obligations.vector_remote : Prop :=
  ∀ (s s1 : State) (d : Spec) (m : MemOp) (rx : RX) (b u : Word) (v c : Vec) (k : LaneW) (es : List (Elem × Place)),
    let ea := formAddr m.sp b m.off
    let ks := targetsOf es []
    ks ≠ [] → (∀ j ∈ ks, coreShut s1 s.cur j = false) →
    (∀ p ∈ ([
      (.vld d m rx, 1, fun i => .ofNat 64 i,
        Allowed s [.dstV d, .srcS m.a] ∧ rxOk s rx none none none = true ∧ Reads s [m.a] [b] s1),
      (.vlds k d m rx, laneBits k / 8, fun i => u * .ofNat 64 i,
        Allowed s [.dstV d, .srcS m.a, .srcS rx.c] ∧ rxOk s rx none none none = true ∧ Reads s [m.a, rx.c] [b, u] s1),
      (.vgath k d m rx, laneBits k / 8, fun i => .ofInt 64 (lane c (laneBits k) i).toInt,
        Allowed s [.dstV d, .srcS m.a, .srcV rx.c] ∧ rxOk s rx none none (some rx.c) = true ∧
          ∃ s0, Reads s [m.a] [b] s0 ∧ readVG s0 rx 3 rx.c = .ok (c, s1))] : List (Instr × Nat × (Nat → Word) × Prop)),
      p.2.2.2 → placeElems s1 m.sp .r true (elemsOf (govern s rx) m.sp ea p.2.1 p.2.2.1) = .ok es → poisonElems s1 es = .ok () →
      ∃ t acc, exec p.1 s = .next t ∧ (cx t).pc = (cx s).pc ∧
        (cx t).wait = .gather d (ks.map fun k => (k, (piecesFor k es).map (·.1))) acc none ∧
        (∀ x ∈ es, ∀ bs, elemBytes s1 x.1 x.2 = some bs → fld acc (8 * x.1.pos) (8 * x.1.n) = ofLe bs) ∧
        (∀ i, (∀ x ∈ es, (elemBytes s1 x.1 x.2).isSome = true → i < 8 * x.1.pos ∨ 8 * (x.1.pos + x.1.n) ≤ i) →
          acc.getLsbD i = (getV s d.toNat).getLsbD i) ∧
        t.net = s.net ++ ks.map (fun k => ⟨s.cur, k, actTag s, s.core.ctxnum,
          .load s.kind ((piecesFor k es).map (·.1)) (((piecesFor k es).map (·.2)).headD 0)⟩) ∧ LoadFrame [] [] s t) ∧
    (∀ p ∈ ([
      (.vst d m rx, 1, fun i => .ofNat 64 i,
        Allowed s [.srcV d, .srcS m.a] ∧ rxOk s rx none none none = true ∧
          ∃ s0, readV s d = .ok (v, s0) ∧ Reads s0 [m.a] [b] s1),
      (.vsts k d m rx, laneBits k / 8, fun i => u * .ofNat 64 i,
        Allowed s [.srcV d, .srcS m.a, .srcS rx.c] ∧ rxOk s rx none none none = true ∧
          ∃ s0, readV s d = .ok (v, s0) ∧ Reads s0 [m.a, rx.c] [b, u] s1),
      (.vscat k d m rx, laneBits k / 8, fun i => .ofInt 64 (lane c (laneBits k) i).toInt,
        Allowed s [.srcV d, .srcS m.a, .srcV rx.c] ∧ rxOk s rx none none (some rx.c) = true ∧
          ∃ s0 s2, readV s d = .ok (v, s0) ∧ Reads s0 [m.a] [b] s2 ∧ readVG s2 rx 3 rx.c = .ok (c, s1))] :
        List (Instr × Nat × (Nat → Word) × Prop)),
      p.2.2.2 → placeElems s1 m.sp .w false (elemsOf (govern s rx) m.sp ea p.2.1 p.2.2.1) = .ok es →
      (freeCount s1.core < ks.length → exec p.1 s = .next (blocked s)) ∧
      (ks.length ≤ freeCount s1.core →
        let free := (List.range 32).filter fun j => (vget s1.core.journal j none).isNone
        let addr := fun k => ((piecesFor k es).map (·.2)).headD 0
        let data := fun k => (piecesFor k es).map fun q => (q.1.off, leBytes q.1.n (fld v (8 * q.1.pos) (8 * q.1.n)))
        ∃ t, exec p.1 s = .next t ∧ (cx t).pc = (cx s).succ ∧ RegsSame s t ∧
          t.net = s1.net ++ (ks.zip free).map (fun x => ⟨s.cur, x.1, actTag s1, s1.core.ctxnum, .store x.2 s.kind (data x.1) (addr x.1) false⟩) ∧
          (∀ i k j, ks[i]? = some k → free[i]? = some j →
            vget t.core.journal j none = some ⟨k, addr k, s.kind, actTag s1, data k, s1.core.txn + i, true⟩) ∧
          (∀ j, (∀ x ∈ ks.zip free, x.2 ≠ j) → vget t.core.journal j none = vget s1.core.journal j none) ∧
          (∀ r a, (∀ x ∈ es, ∀ off, x.2 = .own off → r = false ∨ a < lmKey s.cur off ∨ lmKey s.cur off + x.1.n ≤ a) →
            byteAt t r a = byteAt s r a ∨
              r = true ∧ (∃ x ∈ es, ∃ off, x.2 = .own off ∧ claims s1 (lmKey s.cur off) x.1.n a = true) ∧ byteAt t r a = 0)))

/-- R242, R245, R255, R261 to R263: atomics performed where the bytes are. -/
def Obligations.near_atomics : Prop :=
  Claims.atomic_values ∧ Claims.atomic_accesses

/-! Gangs, messages, tasks and barriers. -/

/-- R166, R173, R176 to R179, R182, R195: the sending instructions. Each sends one packet to the core that the formed
array address names, in the partition and past no closed port, under the sender's tag and context; SEND reserves a reply place or
spends the activation's reply, SENDV takes one credit. -/
def Claims.sends : Prop :=
  ∀ (s s1 : State) (d a : Spec) (m : BaseOff) (rx : RX) (b x : Word) (v c : Vec) (cr : Core),
    let ea := formAddr .arr b m.off
    let k := arrCore ea
    let sent := fun (t s' : State) (to_ : CoreId) (body : Body) =>
      t.net = s'.net ++ [⟨s.cur, to_, actTag s', s.core.ctxnum, body⟩]
    (inPart s s.cur k = true → coreShut s s.cur k = false →
      (Allowed s [.regS d, .srcS m.a] → Reads s [m.a] [b] s1 →
        let w := getS s d.toNat
        let len := fld w 28 4
        let reply := bit w 27
        let body := Body.active (header s (fld w 32 4) len reply false 1 (fld w 0 24))
          ((List.range len).map fun i => getS s (d.toNat + 1 + i))
        len ≤ 8 → d.toNat + len ≤ 31 →
        (reply = false → s.kind = .task → s.core.resv < 4 →
          ∃ t, exec (.send d m) s = .next t ∧ (cx t).pc = (cx s).succ ∧ t.core.resv = s.core.resv + 1 ∧ sent t s1 k body ∧ RegsSame s t ∧
            (∀ r a, byteAt t r a = byteAt s r a)) ∧
        (reply = false → s.kind = .task → 4 ≤ s.core.resv → exec (.send d m) s = .next (blocked s)) ∧
        (∀ act, s.kind = .handler → s.core.act = some act → reply = true → act.mayReply = true →
          k = tagCore (BitVec.ofNat 16 (fld act.hdr 48 16)) →
          ∃ t, exec (.send d m) s = .next t ∧ (cx t).pc = (cx s).succ ∧ t.core.act = some { act with mayReply := false } ∧
            sent t s1 k body ∧ RegsSame s t)) ∧
      (Allowed s [.srcV d, .srcS m.a, .srcV rx.c] → rxOk s rx none none (some rx.c) = true → s.kind = .task →
        (∃ s2 s3, readV s d = .ok (v, s2) ∧ Reads s2 [m.a] [b] s3 ∧ readVG s3 rx 3 rx.c = .ok (c, s1)) →
        let w := lane c 64 0
        let e := BitVec.ofNat 4 (fld w 32 4)
        (takeCredit s1.core k e = none → exec (.sendv d m rx) s = .next (blocked s)) ∧
        (takeCredit s1.core k e = some cr →
          ∃ t, exec (.sendv d m rx) s = .next t ∧ (cx t).pc = (cx s).succ ∧ t.core.credits = cr.credits ∧
            sent t s1 k (.stream (header s e.toNat 8 false (bit w 26) 2 (fld w 0 24)) v) ∧ RegsSame s t)) ∧
      (Allowed s [.regS d, .srcS m.a] → Reads s [m.a] [b] s1 → s.kind = .task → d.toNat < 29 →
        let desc := getS s (d.toNat + 2)
        widthSum desc 6 ≤ 64 →
        ∃ t, exec (.spawn d m) s = .next t ∧ (cx t).pc = (cx s).succ ∧ RegsSame s t ∧
          sent t s1 k (.launch ⟨getS s d.toNat, getS s (d.toNat + 1), .ofNat 64 (desc.toNat % 2 ^ 42), .ofNat 2 (fld desc 48 2),
            s.core.runTag s.cur, getS s (d.toNat + 3), s.core.ctxnum, none⟩)) ∧
      (Allowed s [.srcS m.a] → Reads s [m.a] [b] s1 →
        ∃ t, exec (.barv m) s = .next t ∧ (cx t).pc = (cx s).succ ∧ RegsSame s t ∧ sent t s1 k (.arrival (.ofNat 6 (m.off.toNat % 64))))) ∧
    (inPart s s.cur (arrCore x) = true → coreShut s s.cur (arrCore x) = false → Allowed s [.srcS a] → Reads s [a] [x] s1 →
      ∃ t, exec (.slotf a) s = .next t ∧ (cx t).pc = (cx s).succ ∧ RegsSame s t ∧ sent t s1 (arrCore x) .slotReturn)

/-- R166, R167, R173, R365: messages that are not sent. A target outside the partition faults with 0x20; a form that a
handler may not use faults with 0x24; a closed port refuses at once with reason 3, which the sender gets as a message, a
returned slot too (log 35). -/
def Claims.send_refusals : Prop :=
  ∀ (s s1 : State) (d a : Spec) (m : BaseOff) (b : Word),
    let ea := formAddr .arr b m.off
    let k := arrCore ea
    (Allowed s [.srcS m.a] → Reads s [m.a] [b] s1 → inPart s s.cur k = false →
      exec (.barv m) s = .next (raise s { code := 0x20, eval := ea })) ∧
    (Allowed s [.regS d, .srcS m.a] → d.toNat < 29 → s.kind = .handler →
      exec (.spawn d m) s = .next (raise s { code := 0x24, eval := 0 })) ∧
    (∀ p ∈ ([
      (.barv m, m.a, k, m.off.toNat % 64), (.slotf a, a, arrCore b, 0)] : List (Instr × Spec × CoreId × Nat)),
      Allowed s [.srcS p.2.1] → Reads s [p.2.1] [b] s1 → inPart s s.cur p.2.2.1 = true → coreShut s s.cur p.2.2.1 = true →
      ∃ t, exec p.1 s = .next t ∧ (cx t).pc = (cx s).succ ∧
        (∃ q, t.net = s1.net ++ [q] ∧ q.src = p.2.2.1 ∧ q.dst = s.cur ∧
          q.body = .refused (refusalWord (actTag s) 3 3 p.2.2.1 p.2.2.2) false none) ∧
        ∃ r, t.eva.inbox = s.eva.inbox ++ [r] ∧ r.kind = 1 ∧ r.code = 0x13)

/-- R145, R171, R174, R175, R192: GANG of a legal size waits for its partners; SPLIT ends the gang and every member goes
on at the successor, and without a gang it does nothing; PAUSE opens a window of min(a + i, 65535) ck. -/
def Obligations.gang_instructions : Prop :=
  ∀ (s s1 : State) (i : BitVec 6) (a : Spec) (j : BitVec 10) (x : Word),
    (s.kind = .task → s.core.gang = none →
      (i.toNat = 2 ∨ i.toNat = 4 ∨ i.toNat = 8 → gangBad s i.toNat = none → exec (.gang i) s = .next (waiting s (.gang i.toNat))) ∧
      (¬(i.toNat = 2 ∨ i.toNat = 4 ∨ i.toNat = 8) → exec (.gang i) s = .next (raise s { code := 0x01, eval := (cx s).raw })) ∧
      exec .split s = .next (retire s)) ∧
    (∀ g, s.kind = .task → s.core.gang = some g →
      ∃ t, exec .split s = .next t ∧ ∀ k ∈ gangMembers g, (coreOf t k).gang = none ∧ (coreOf t k).task.pc = (cx s).succ) ∧
    (Allowed s [.srcS a] → Reads s [a] [x] s1 →
      exec (.pause a j) s = .next (retire (setCx s1
        { cx s1 with pauseEnd := if x.toNat + j.toNat = 0 then 0 else s.ck + 1 + min (x.toNat + j.toNat) 65535 })))

/-- R152, R183 to R186, R190: the ready queue. RQTAKE runs the READY slot with the lowest priority number that was READY
first; RQADD makes the permitted moves only and says so in bit 63; RQPEEK reads a field; STEAL moves a fresh slot of a
core of the group, whose slot becomes FREE and keeps its fields, but none of one that a double fault has stopped (log 69); the shadow's mirror follows the slots (R367); TMSET sets TIMECMP,
saturating, and returns the old one. -/
def Obligations.ready_queue : Prop :=
  ∀ (s s1 t : State) (d a b : Spec) (x y : Word), userMode s = false →
    let k := s.cur
    let slot := fun j => slotAt s.core j
    (Allowed s [.dstS d] →
      (∀ i, s.core.running = some i → writeS s d 0x8000000000000001 = .ok t → exec (.rqtake d) s = .next (retire t)) ∧
      (s.core.running = none → (∀ j, j < 64 → (slot j).st ≠ .ready) → writeS s d 0x8000000000000000 = .ok t →
        exec (.rqtake d) s = .next (retire t)) ∧
      (∀ j, s.core.running = none → j < 64 → (slot j).st = .ready →
        (∀ i, i < 64 → i ≠ j → (slot i).st = .ready →
          (slot j).prio < (slot i).prio ∨ ((slot j).prio = (slot i).prio ∧ (slot j).order < (slot i).order)) →
        (∀ v, ∃ u, writeS s d v = .ok u) →
        ∃ u, exec (.rqtake d) s = .next u ∧ (cx u).pc = (cx s).succ ∧ u.core.running = some j ∧ (slotAt u.core j).fresh = false ∧
          (slotAt u.core j).entry = (slot j).entry ∧ (∀ i, i ≠ j → slotAt u.core i = slot i) ∧
          (d.toNat ≠ 0 → d.toNat < 32 → fld (getS u d.toNat) 16 16 = k.toNat * 64 + j ∧ fld (getS u d.toNat) 0 2 = 2))) ∧
    (Allowed s [.dstS d, .srcS a, .srcS b] → Reads s [a, b] [x, y] s1 →
      let j := fld x 0 6
      (writeS s1 d (slotField k j (slot j) (fld y 0 3)) = .ok t → exec (.rqpeek d a b) s = .next (retire t)) ∧
      (rqMove s1 j (fld y 0 2) (.ofNat 2 (fld y 2 2)) = none ↔
        ¬((slot j).st = .running ∧ (fld y 0 2 = 1 ∨ fld y 0 2 = 3) ∨ (slot j).st = .asleep ∧ fld y 0 2 = 1 ∨
          (slot j).st = .free ∧ (slot j).purging = false ∧ fld y 0 2 = 1)) ∧
      (rqMove s1 j (fld y 0 2) (.ofNat 2 (fld y 2 2)) = none → writeS s1 d (slotWord k j (slot j) ||| 0x8000000000000000) = .ok t →
        exec (.rqadd d a b) s = .next (retire t)) ∧
      (∀ c, rqMove s1 j (fld y 0 2) (.ofNat 2 (fld y 2 2)) = some c →
        (slotAt c j).st = (if fld y 0 2 = 1 then .ready else .asleep) ∧ (slotAt c j).prio.toNat = fld y 2 2 ∧
        (∀ i, i ≠ j → s.core.running ≠ some i → slotAt c i = slot i) ∧
        (writeS (mirrorSlot { s1 with core := c } k j (some (slotAt c j).parent)) d (slotWord k j (slot j)) = .ok t →
          exec (.rqadd d a b) s = .next (retire t))) ∧
      (let v : CoreId := .ofNat 10 (fld x 22 10)
       let r := stealGo s1 v (fld y 0 2)
       (writeS r.2 d r.1 = .ok t → exec (.steal d a b) s = .next (retire t)) ∧
       (v = k ∨ groupOf v ≠ groupOf k ∨ (coreOf s v).ctxnum ≠ s.core.ctxnum → r.1 = 0x8000000000000001 ∧ r.2.others = s1.others) ∧
       (v ≠ k → groupOf v = groupOf k → (coreOf s v).ctxnum = s.core.ctxnum → (coreOf s v).dead = true →
         r.1 = 0x8000000000000002 ∧ r.2.others = s1.others) ∧
       (∀ i j, v ≠ k → groupOf v = groupOf k → (coreOf s v).ctxnum = s.core.ctxnum → (coreOf s v).dead = false →
         stealable (coreOf s1 v) (fld y 0 2) = some i → freeSlot s1.core = some j →
         (slotAt (coreOf s v) i).st = .ready ∧ (slotAt (coreOf s v) i).fresh = true ∧
         (slotAt r.2.core j).st = .ready ∧ (slotAt r.2.core j).entry = (slotAt (coreOf s1 v) i).entry ∧
         slotAt (coreOf r.2 v) i = { slotAt (coreOf s1 v) i with st := .free }))) ∧
    (Allowed s [.dstS d, .srcS a] → Reads s [a] [x] s1 →
      ∀ u, writeS { s1 with core := { s1.core with timecmp := .ofNat 64 (min ((cycleOf s s.core).toNat + x.toNat) (2 ^ 64 - 1)) } } d
          s.core.timecmp = .ok u → exec (.tmset d a) s = .next (retire u))

/-- R188, R189, R191: the end of a task, a yield and the end of an activation. TEXIT of a user task waits for the
journal, frees the slot and enters the kernel with code 0x0b and the task's tag, EPC at the successor; YIELD enters it
with 0x0c; HRET leaves the handler context idle and frees an unused reply. -/
def Obligations.task_ends : Prop :=
  ∀ (s : State) (j : Nat),
    (s.kind = .task → userMode s = true → s.core.task.nest = false → tvecOk s s.cur = true → s.core.gang = none →
      (storesDone s = false → exec .texit s = .next (waiting s .texit)) ∧
      (storesDone s = true → s.core.running = some j →
        ∃ t, exec .texit s = .next t ∧ t.core.task.pc = s.core.tvec ∧ t.core.task.epc = s.core.task.succ ∧ t.core.task.cause = 0x0b ∧
          t.core.task.eval.toNat = s.cur.toNat * 64 + j ∧ slotAt t.core j = { slotAt s.core j with st := .free } ∧
          (∀ e ∈ t.core.compQ, e.tag ≠ tagOf s.cur j)) ∧
      ∃ t, exec .yield s = .next t ∧ t.core.task.pc = s.core.tvec ∧ t.core.task.epc = s.core.task.succ ∧ t.core.task.cause = 0x0c ∧
        t.core.task.eval = (s.core.runTag s.cur).setWidth 64 ∧ t.core.task.s = s.core.task.s) ∧
    (∀ a, s.kind = .handler → s.core.act = some a →
      ∃ t, exec .hret s = .next t ∧ t.core.act = none ∧ t.core.task = s.core.task ∧
        (a.mayReply = false → t.net = s.net) ∧ (a.mayReply = true → t.net.length = s.net.length + 1)) ∧
    (s.kind = .task → s.core.task.nest = false → tvecOk s s.cur = true →
      exec .hret s = .next (raise s { code := 0x01, eval := (cx s).raw }))

/-- R160, R180, R181: SBIND writes a free entry of the stream table for the RUNNING task and returns its word; SUNBIND
frees a bound one, its buffered words returning as credits, and returns the word it had; it waits for the words of a
reduction of its own task. -/
def Obligations.stream_binding : Prop :=
  ∀ (s s1 t : State) (d a : Spec) (i : BitVec 10) (x : Word) (j : Nat), s.kind = .task → s.core.running = some j →
    let e := fld i 0 3
    let ent := vget s.core.streams e StreamEnt.reset
    (Allowed s [.dstS d, .srcS a] → Reads s [a] [x] s1 → bit ent.word 0 = false → templateBad s.core x = false →
      let w : Word := .ofNat 64 ((s.cur.toNat * 64 + j) * 2 ^ 48 + fld x 7 25 * 2 ^ 7 + 1)
      let s2 := { s1 with core := { s1.core with streams := vset s1.core.streams e { ent with word := w, buf := [] } } }
      writeS s2 d w = .ok t → exec (.sbind d a i) s = .next (retire t)) ∧
    (Allowed s [.dstS d, .srcS a] → Reads s [a] [x] s1 → bit ent.word 0 = true ∨ templateBad s.core x = true →
      exec (.sbind d a i) s = .next (raise s { code := 0x02, eval := .ofNat 64 e })) ∧
    (Allowed s [.dstS d] →
      (bit ent.word 0 = false → writeS s d ent.word = .ok t → exec (.sunbind d i) s = .next (retire t)) ∧
      (bit ent.word 0 = true → fld ent.word 48 16 = s.cur.toNat * 64 + j → bit ent.word 9 = true → ent.buf ≠ [] →
        (cx s).nest = false → exec (.sunbind d i) s = .next (blocked s)) ∧
      (bit ent.word 0 = true → fld ent.word 48 16 = s.cur.toNat * 64 + j ∨ userMode s = false → bit ent.word 9 = false ∨ ent.buf = [] →
        let s2 := freeStream s s.cur e
        writeS s2 d ent.word = .ok t →
        exec (.sunbind d i) s = .next (retire t) ∧ bit (vget s2.core.streams e StreamEnt.reset).word 0 = false ∧
          s2.net.length = s.net.length + ent.buf.length))

/-- R168 to R170, R193, R194: the barrier instructions. BINIT sets the target, clears the rest, discards the other events of its ck
and releases the waiters; BEXP adds its signed count to those events; BWAIT goes on when the phase has left the one it names, or the
barrier is in error or without a target; BTEST reads. Each returns the word the barrier had. -/
def Claims.barrier_instructions : Prop :=
  ∀ (s s1 t : State) (d a : Spec) (i : BitVec 10) (x : Word),
    let b := fld i 0 6
    let w := vget s.core.bars b 0
    let e := (SMap.get? s1.core.barIn b).getD (0, 0)
    let s2 : State := { s1 with core := releaseWaiters { s1.core with
      bars := vset s1.core.bars b (.ofNat 64 (x.toNat % 4096 * 2 ^ 40)), barIn := SMap.del s1.core.barIn b } b }
    (Allowed s [.dstS d] → writeS s d w = .ok t → exec (.btest d i) s = .next (retire t)) ∧
    (Allowed s [.dstS d, .srcS a] → Reads s [a] [x] s1 →
      ((∀ u, writeS s2 d w = .ok u → exec (.binit d a i) s = .next (retire u)) ∧
        vget s2.core.bars b 0 = .ofNat 64 (x.toNat % 4096 * 2 ^ 40) ∧ SMap.get? s2.core.barIn b = none ∧ (∀ j, j ≠ b → vget s2.core.bars j 0 = vget s.core.bars j 0) ∧
        ∀ h d' a' r, (s1.core.ctx h).wait = .bwait (.ofNat 6 b) d' a' r → (s2.core.ctx h).wait = .bwait (.ofNat 6 b) d' a' true) ∧
      (∀ u, writeS { s1 with core := { s1.core with barIn := SMap.put s1.core.barIn b (e.1, e.2 + toIntN 28 (fld x 0 28)) } } d w = .ok u →
          exec (.bexp d a i) s = .next (retire u)) ∧
      (bit w 62 ≠ bit x 0 ∨ bit w 63 = true ∨ barTarget w = 0 → writeS s1 d w = .ok t → exec (.bwait d a i) s = .next (retire t)) ∧
      (bit w 62 = bit x 0 → bit w 63 = false → barTarget w ≠ 0 →
        exec (.bwait d a i) s = .next (waiting s (.bwait (.ofNat 6 b) d a false))))

/-- R168 to R170: the events of one ck at a barrier. Their sum is applied at the end of the ck: a count or a pending field that does
not fit sets the error bit and leaves a record; a pending field of 0 with the target reached completes the barrier, the phase turns
over, the target is taken from the count and the waiters go on; a count that still reaches the target completes the next phase in the next
ck; else the fields hold the sums. A barrier in error does not change. -/
def Claims.barrier_events : Prop :=
  ∀ (s : State) (k : CoreId) (b arr : Nat) (delta : Int), b < 64 →
    let c := coreOf s k
    let w := vget c.bars b 0
    let cnt := barCount w + arr
    let p := barPending w + delta
    let t := barApply s k b arr delta
    let w' := vget (coreOf t k).bars b 0
    let past := 4095 < cnt ∨ p < -(2 ^ 27) ∨ 2 ^ 27 ≤ p
    let full := barTarget w ≠ 0 ∧ barTarget w ≤ cnt ∧ p = 0
    (bit w 63 = true → t = s) ∧
    (bit w 63 = false → (∀ j, j ≠ b → vget (coreOf t k).bars j 0 = vget c.bars j 0) ∧
      (past → (∀ j, j ≠ 63 → bit w' j = bit w j) ∧ bit w' 63 = true ∧
        ∃ r, t.eva.inbox = s.eva.inbox ++ [r] ∧ r.kind = 1 ∧ r.code = 0xe0) ∧
      (¬past → bit w' 63 = false ∧ barTarget w' = barTarget w ∧
        (full → barCount w' = cnt - barTarget w ∧ barPending w' = 0 ∧ bit w' 62 = !bit w 62 ∧
          (barTarget w ≤ cnt - barTarget w → ((coreOf t k).barIn.map (·.1)).contains b = true) ∧
          ∀ h d a r, (c.ctx h).wait = .bwait (.ofNat 6 b) d a r → ((coreOf t k).ctx h).wait = .bwait (.ofNat 6 b) d a true) ∧
        (¬full → barCount w' = cnt ∧ barPending w' = p ∧ bit w' 62 = bit w 62 ∧
          ∀ h, ((coreOf t k).ctx h).wait = (c.ctx h).wait))) ∧
    (s.core.barIn = [(b, arr, delta)] → barSettle s s.cur = barApply { s with core := { s.core with barIn := [] } } s.cur b arr delta)

/-- R168 to R170, R193, R194: named barriers. -/
def Obligations.named_barriers : Prop :=
  Claims.barrier_instructions ∧ Claims.barrier_events

/-- R166, R173, R176 to R179, R182, R195, R365: the sending instructions, sent and not sent. -/
def Obligations.sending_instructions : Prop :=
  Claims.sends ∧ Claims.send_refusals

/-! Engine instructions. -/

/-- R276, R309, R310, R314 to R317: a block command. A core that is not bound to the engine's port faults with 0x1c. The
64-byte block is read, checked, and handed to the engine with the issuer's task and context and with the number up to which the
issuer's posted stores come before its accesses (R239); the instruction does not wait for the command. It blocks while the context's earlier
remote stores are unanswered, as a release does (R242), and while the engine is full; COPYM also takes a slot of each receiver; a COPYX to another tile's core
goes there as a packet; a block in another core's memory is fetched first (R208). -/
def Obligations.engine_commands : Prop :=
  ∀ (s s1 s2 : State) (d : Spec) (m : MemOp) (tid b : Word) (pl : Place) (bs : List Byte),
    let ea := formAddr m.sp b m.off
    let me := myTile s
    let qmap := (tileOf s me).qmap
    let blk := blkWords bs
    let k := arrCore (dwordOf blk 0)
    let own := fun (c : Cmd) (kind : CmdKind) => c.kind = kind ∧ c.blk = blk ∧ c.tid.toNat = tid.toNat % 65536 ∧ c.owner = actTag s ∧
      c.issuer = s.cur ∧ c.ctx = s.core.ctxnum ∧ c.by_ = s.kind ∧ c.after = s.core.txn ∧ c.landed = [] ∧ c.next = 0 ∧ c.fail = none
    Allowed s [.srcS d, .srcS m.a] →
    (fld qmap 34 2 ≠ tcore s.cur → ∀ i ∈ [Instr.copy d m, .copy2 d m, .copyx d m, .copym d m],
      exec i s = .next (raise s { code := 0x1c, eval := 0 })) ∧
    (fld qmap 36 2 ≠ tcore s.cur → exec (.conv d m) s = .next (raise s { code := 0x1c, eval := 1 })) ∧
    (Reads s [d, m.a] [tid, b] s1 → placeOf s1 m.sp ea 64 64 .r true = .ok pl →
      ((∀ j off, pl ≠ .remote j off) → readPlace s1 ea 64 pl = .ok (bs, s2) →
        (fld qmap 34 2 = tcore s.cur →
          (∀ p ∈ ([(.copy d m, .copy), (.copy2 d m, .copy2)] : List (Instr × CmdKind)), blockCheck s2 p.2 blk = .ok () →
            (storesDone s = false ∨ 8 ≤ mveUsed (tileOf s me) → exec p.1 s = .next (blocked s)) ∧
            (storesDone s = true → mveUsed (tileOf s me) < 8 → ∃ t c, exec p.1 s = .next t ∧ (cx t).pc = (cx s).succ ∧
              (tileOf t me).mve = (tileOf s me).mve ++ [c] ∧ own c p.2 ∧ LoadFrame [] [] s t)) ∧
          (blockCheck s2 .copyx blk = .ok () →
            (storesDone s = false → exec (.copyx d m) s = .next (blocked s)) ∧
            (storesDone s = true → tileOfCore k = me → mveUsed (tileOf s me) < 8 → ∃ t c, exec (.copyx d m) s = .next t ∧ (cx t).pc = (cx s).succ ∧
              (tileOf t me).mve = (tileOf s me).mve ++ [c] ∧ own c .copy) ∧
            (storesDone s = true → tileOfCore k ≠ me → inPart s s.cur k = true → isDark s (tileOfCore k) = false → coreShut s s.cur k = false →
              ∃ t c p, exec (.copyx d m) s = .next t ∧ (cx t).pc = (cx s).succ ∧ t.net = s1.net ++ [p] ∧ p.body = .copyx c ∧
                tileOfCore p.dst = tileOfCore k ∧ own c .copyx ∧ LoadFrame [] [] s t) ∧
            (storesDone s = true → tileOfCore k ≠ me → inPart s s.cur k = false ∨ isDark s (tileOfCore k) = true ∨ coreShut s s.cur k = true →
              ∃ t c f, exec (.copyx d m) s = .next t ∧ (cx t).pc = (cx s).succ ∧ (tileOf t me).mve = (tileOf s me).mve ++ [c] ∧
                c.kind = .copyx ∧ c.fail = some f ∧ f.code = (if inPart s s.cur k = true then 0x08 else 0x05) ∧ LoadFrame [] [] s t)) ∧
          (blockCheck s2 .copym blk = .ok () →
            (storesDone s = false ∨ takeSlots s.core (maskBits (dwordOf blk 3)) = none → exec (.copym d m) s = .next (blocked s)) ∧
            (∀ c, storesDone s = true → takeSlots s.core (maskBits (dwordOf blk 3)) = some c → mveUsed (tileOf s me) < 8 →
              ∃ t x, exec (.copym d m) s = .next t ∧ (cx t).pc = (cx s).succ ∧ t.core.slotCnt = c.slotCnt ∧
                (tileOf t me).mve = (tileOf s me).mve ++ [x] ∧ own x .copym ∧ LoadFrame [] [] s t))) ∧
        (fld qmap 36 2 = tcore s.cur → blockCheck s2 .conv blk = .ok () →
          (storesDone s = false ∨ 4 ≤ (tileOf s me).cve.length → exec (.conv d m) s = .next (blocked s)) ∧
          (storesDone s = true → (tileOf s me).cve.length < 4 → ∃ t c, exec (.conv d m) s = .next t ∧ (cx t).pc = (cx s).succ ∧
            (tileOf t me).cve = (tileOf s me).cve ++ [c] ∧ own c .conv ∧ LoadFrame [] [] s t))) ∧
      (∀ j off, pl = .remote j off → coreShut s s.cur j = false → fld qmap 34 2 = tcore s.cur →
        ∃ t, exec (.copy d m) s = .next t ∧ (cx t).wait = .block .copy d m ea ∧ (cx t).pc = (cx s).pc ∧ (cx t).takes = [.s d, .s m.a] ∧
          ∃ p, t.net = s.net ++ [p] ∧ p.dst = j ∧ p.body = .load s.kind [⟨off, 0, 64⟩] ea))

/-- R302, R303, R310, R319 to R326: matrix instructions. MVIEW writes a view, MVIEW.SV from a pair of registers; the
commands are checked against their views, copy them and the control operand with the issuer's task, and join the engine's
queue, not before the context's remote stores are answered (R242); MPROG returns its record, and resumes it from the slice it names; MWAIT waits while the engine holds a command of
this core on the view. -/
def Obligations.matrix_instructions : Prop :=
  ∀ (s s1 : State) (d a b c : Spec) (f : BitVec 5) (x : Word),
    let me := myTile s
    let view := fun (i : Spec) => vget s.core.views i.toNat View.reset
    let port := fld (tileOf s me).qmap 38 2 = tcore s.cur
    (d.toNat < 8 →
      (Allowed s [.srcS a] → Reads s [a] [x] s1 →
        ∃ t, exec (.mview d a) s = .next t ∧ (cx t).pc = (cx s).succ ∧ (∀ i, i ≠ d.toNat → vget t.core.views i View.reset = vget s.core.views i View.reset) ∧
          vget t.core.views d.toNat View.reset = ⟨x &&& 0x7f7fffffffffffff, 0, 0⟩ ∧ RegsSame s t ∧ SameMem s t) ∧
      (1 ≤ a.toNat → a.toNat ≤ 30 →
        ∃ t, exec (.mviewSv d a f) s = .next t ∧ (cx t).pc = (cx s).succ ∧ (∀ i, i ≠ d.toNat → vget t.core.views i View.reset = vget s.core.views i View.reset) ∧
          vget t.core.views d.toNat View.reset = ⟨.ofNat 64 (2 ^ 63 + f.toNat * 2 ^ 40), getS s a.toNat, getS s (a.toNat + 1)⟩ ∧
          RegsSame s t ∧ SameMem s t) ∧
      (a.toNat = 0 ∨ a.toNat = 31 → exec (.mviewSv d a f) s = .next (raise s { code := 0x02, eval := a.setWidth 64 }))) ∧
    (a.toNat < 8 → ¬port → ∀ i ∈ [Instr.mzero a, .mwait a], exec i s = .next (raise s { code := 0x1c, eval := 2 })) ∧
    (a.toNat < 8 → port →
      (tileViewOk (view a) = true → storesDone s = false ∨ mteWait s .mzero 0 true = false → exec (.mzero a) s = .next (blocked s)) ∧
      (tileViewOk (view a) = true → storesDone s = true → mteWait s .mzero 0 true = true →
        ∃ t m, exec (.mzero a) s = .next t ∧ (cx t).pc = (cx s).succ ∧ (tileOf t me).mte.queue = (tileOf s me).mte.queue ++ [m] ∧
          m.kind = .mzero ∧ m.c = view a ∧ m.issuer = s.cur ∧ m.tag = actTag s ∧ RegsSame s t ∧ SameMem s t) ∧
      (tileViewOk (view a) = false → exec (.mzero a) s = .next (raise s { code := 0x02, eval := a.setWidth 64 })) ∧
      (mteHolds s s.cur (a.setWidth 3) = false → exec (.mwait a) s = .next (retire s)) ∧
      (mteHolds s s.cur (a.setWidth 3) = true → exec (.mwait a) s = .next (waiting s (.mwait (a.setWidth 3))))) ∧
    (port → Allowed s [.view d, .view a, .view b, .srcS c] → Reads s [c] [x] s1 →
      ∀ p ∈ ([(.mma d a b c, .mma), (.mmax d a b c, .mmax), (.mmas d a b c, .mmas), (.mmar d a b c, .mmar)] : List (Instr × MKind)),
        mteCheck s1 p.2 (d.setWidth 3) (a.setWidth 3) (b.setWidth 3) x = .ok () →
        (storesDone s = false ∨ mteWait s1 p.2 x true = false → exec p.1 s = .next (blocked s)) ∧
        (storesDone s = true → mteWait s1 p.2 x true = true →
          ∃ t m, exec p.1 s = .next t ∧ (cx t).pc = (cx s).succ ∧ (tileOf t me).mte.queue = (tileOf s me).mte.queue ++ [m] ∧
            m.kind = p.2 ∧ m.c = view d ∧ m.a = view a ∧ m.b = view b ∧ m.ctl = x ∧ m.issuer = s.cur ∧ m.ctx = s.core.ctxnum ∧
            m.tag = actTag s ∧ m.by_ = s.kind ∧ m.after = s.core.txn ∧ RegsSame s t ∧ SameMem s t)) ∧
    (port → Allowed s [.dstS d, .view a] →
      let old := mprogOf s
      (bit old 63 = false ∨ (a.toNat = fld old 39 3 ∧ fld old 44 4 = 4) → ∀ t, writeS s d old = .ok t → exec (.mprog d a) s = .next (retire t)) ∧
      (bit old 63 = true → a.toNat ≠ fld old 39 3 → exec (.mprog d a) s = .next (raise s { code := 0x02, eval := a.setWidth 64 })) ∧
      (bit old 63 = true → a.toNat = fld old 39 3 → fld old 44 4 ≠ 4 →
        let kind := kindOfCode (fld old 42 2)
        let ctl := setFld s.core.mprogc 12 12 (fld old 16 12)
        mteCheck s kind (.ofNat 3 (fld old 39 3)) (.ofNat 3 (fld old 36 3)) (.ofNat 3 (fld old 33 3)) ctl = .ok () →
        (storesDone s = false ∨ mteWait s kind ctl false = false → exec (.mprog d a) s = .next (blocked s)) ∧
        (storesDone s = true → mteWait s kind ctl false = true → (∀ v, ∃ u, writeS s d v = .ok u) →
        ∃ t m, exec (.mprog d a) s = .next t ∧ (cx t).pc = (cx s).succ ∧ bit t.core.mprog 63 = false ∧
          (tileOf t me).mte.queue = (tileOf s me).mte.queue ++ [m] ∧ m.kind = kind ∧ m.ctl = ctl)))

/-! Steps. -/

/-- What a step adds to the state in which `exec` has left an instruction of context `s1`, of a core that stood at `s`: the step trap
that TRCTL.STEP asks for (R422), a gang that the instruction completes (R174), the ck that passes, and what follows every turn: the end of
a registration whose area faults (R397), and the resets that have waited for their tiles (R431). -/
def Claims.stepped (s s1 t : State) : State :=
  let u := stepTrap (userMode s1) (cx s1).pc t
  let v := match (cx u).wait with
    | .gang _ => gangForm u u.cur
    | _ => u
  settle s (elapse v 1)

/-- R15, R22, R28, R31, R34: a step runs the instruction whose words stand at the pc: the fetch installs its leaf and records its
successor, `exec` acts, and what `stepped` names follows. An activation that may issue goes before the task, but in the ck in which
CYCLE[5:0] is 63 (R142). The words are the head in the slot of the leaf that the pc names and its tails, which stand below the tails of
the heads before it, from slot 30 down; the successor is the next slot, or slot 1 of the next leaf after the last head. -/
def Obligations.step_runs_decoded : Prop :=
  (∀ (s s1 : State) (hs : List Half) (i : Instr), Claims.ready s → fetch s = .ok (hs, s1) → decode hs = .ok i →
    step s = match exec i s1 with
      | .next t => .next (Claims.stepped s s1 t)
      | o => o) ∧
  (∀ (s s1 t : State) (hs : List Half) (i : Instr) (a : Activation),
    s.agenda = [] → s.mgmt.powered = true → coreLive s s.cur = true → s.core.act = some a → s.ck < a.endCk →
    s.core.hand.wait = .none → s.core.hand.takes = [] → s.core.hand.pauseEnd = 0 → chunkOn s.core = false →
    fld s.core.trctl 12 20 = 0 → taskEntry s = none → fld (cycleOf s s.core) 0 6 ≠ 63 → fetch { s with kind := .handler } = .ok (hs, s1) → decode hs = .ok i → exec i s1 = .next t →
    t.kind = .handler → (∀ n, (cx t).wait ≠ .gang n) → issuedBetween s.core.hand t.core.hand = true →
    step s = .next (Claims.stepped s s1 t)) ∧
  (∀ (s s1 : State) (hs : List Half), fetch s = .ok (hs, s1) →
    let pc := (cx s).pc
    let n := slotOf pc
    ∃ f, fetchLeaf s pc = .ok f ∧ targetOk pc = true ∧ n ≤ leafH f.image ∧
      (f.fill = true → ∀ i, i < 64 → fld f.image (8 * i) 8 = (byteAt s false (f.pa + i)).toNat) ∧
      hs = leafSlot f.image n :: tailsOf f.image n ∧ hs.length = 1 + (headL (leafSlot f.image n)).toNat ∧
      (∀ j, j < (headL (leafSlot f.image n)).toNat → hs[j + 1]? =
        some (leafSlot f.image (30 - (((List.range (n - 1)).map fun m => (headL (leafSlot f.image (m + 1))).toNat).sum) - j))) ∧
      (cx s1).succ = succOf pc (leafH f.image) ∧ (cx s1).succ = (if n < leafH f.image then pc + 2 else leafOf pc + 66) ∧
      (cx s1).raw = rawOf hs ∧ (cx s1).pc = pc ∧ (∀ j, getS s1 j = getS s j) ∧ (∀ j, getV s1 j = getV s j) ∧ ∀ j, getM s1 j = getM s j)

/-- R14, R22, R30, R32, R33, R38: what a step does when no instruction can be fetched or decoded. An address whose leaf
has no translation traps with 0x06, a leaf that fails a check of R30 with 0x04 and its SEALERR, a slot that holds no head
with 0x03, and words without a meaning with 0x01 and their bits in EVAL. A page that fails its check of integrity raises 0x05, and
the result stands for the next fetch (R352). A leaf that comes from memory with a poisoned byte raises 0x1b there (R32, R230). What follows
every turn follows these too (R397, R431). -/
def Obligations.fetch_faults : Prop :=
  ∀ s : State, Claims.ready s →
    let pc := (cx s).pc
    let next := fun (t : State) => Outcome.next (settle s (elapse t 1))
    (targetOk pc = false → step s = next (raise s { code := 0x03, eval := pc })) ∧
    (targetOk pc = true →
      let r := noteFetch s
      ((∀ pa, translate s (nearOf s s.cur) s.core.ctxnum (leafOf pc).toNat .x ≠ .ok pa) →
        step s = next (raise s { code := 0x06, eval := pc, acc := 2 })) ∧
      (∀ pa, translate s (nearOf s s.cur) s.core.ctxnum (leafOf pc).toNat .x = .ok pa →
        pageOk s s.core.ctxnum ((leafOf pc).toNat / 4096 * 4096) pa = false →
        step s = next (raise r { code := 0x05, eval := .ofNat 64 ((leafOf pc).toNat / 4096 * 4096) }) ∧
          hashResult r s.core.ctxnum ((leafOf pc).toNat / 4096 * 4096) = some false) ∧
      (∀ pa im fill, translate s (nearOf s s.cur) s.core.ctxnum (leafOf pc).toNat .x = .ok pa →
        pageOk s s.core.ctxnum ((leafOf pc).toNat / 4096 * 4096) pa = true →
        imageAt s s.cur s.core.ctxnum (leafOf pc) pa = (im, fill) →
        (∀ j, fill = true → poisonIn s pa 64 = some j → step s = next (raise r { code := 0x1b, eval := leafOf pc + .ofNat 64 j })) ∧
        ((fill = true → poisonIn s pa 64 = none) →
          (leafReason im ≠ 0 → step s = next (raise r { code := 0x04, eval := leafOf pc, sealv := sealErr im })) ∧
          (leafReason im = 0 → leafH im < slotOf pc → step s = next (raise r { code := 0x03, eval := pc }))))) ∧
    (∀ hs s1 e, fetch s = .ok (hs, s1) → decode hs = .error e →
      step s = next (raise s1 { code := 0x01, eval := (cx s1).raw }))

/-- Every step has a next state: nothing is refused, no ordinary data end a run. Without power the compute dies do nothing but let
time go on: a step is a ck in which no core acts, and an event of the compute dies passes without effect (R427). -/
def Obligations.every_step_answers : Prop :=
  (∀ s : State, ∃ t, step s = .next t) ∧
  (∀ s : State, s.mgmt.powered = false → s.agenda = [] → step s = .next (elapse s 1)) ∧
  (∀ (s : State) (i : Instr) (r : List Turn), s.mgmt.powered = false → s.agenda = .event i :: r → onBaseDie i = false →
    step s = .next { s with agenda := r })

/-- R2, R216: every step keeps both memories in canonical form. -/
def Obligations.steps_keep_memory : Prop :=
  ∀ s t : State, MemOk s → step s = .next t → MemOk t

/-- R13, R307, R393, R423 to R430: no instruction reaches what only the management core and the bring-up path may
change: its measurements, fuses, frequency and power, the ramps and the owners of frames. A ck of a core passes one ck; only the resets
that wait for their tiles may be served in it (R431). -/
def Obligations.cores_leave_management : Prop :=
  ∀ s t : State, s.agenda = [] → step s = .next t →
    { t.mgmt with wanted := s.mgmt.wanted, resets := s.mgmt.resets, tested := s.mgmt.tested } = s.mgmt ∧
    (s.mgmt.wanted = [] → t.mgmt = s.mgmt) ∧ t.ramp = s.ramp ∧ t.frames = s.frames ∧ t.ck = s.ck + 1 ∧ t.cur = s.cur ∧ t.agenda = []

/-- R17 to R20, R26, R33, R133, R159, R168, R206, R280, R282, R302, R307, R319, R343, R417: reset and release. The registers
that these rules give a reset value have it; a core that has not been released fetches nothing; TVEC_BRINGUP_WRITE gives it
its vector, and CORE_RELEASE starts it there in supervisor mode with NEST 1 and cause 0. -/
def Obligations.reset_and_release : Prop :=
  MemOk State.reset ∧
  (∀ k, let c := coreOf State.reset k
    (∀ h, let x := c.ctx h
      (∀ r, x.getS r = 0) ∧ (∀ r, vget x.v r 0 = 0) ∧ (∀ r, vget x.m r 0 = 0) ∧ x.epc = 0 ∧ x.eval = 0 ∧ x.cause = 0 ∧
      x.status = 0x430 ∧ x.prv = true ∧ x.pprv = true ∧ x.nest = true ∧ x.ie = false ∧ x.pie = false ∧
      x.sealerr = 0 ∧ x.kscr = 0 ∧ x.faultx = 0) ∧
    c.tvec = 0 ∧ c.ctxnum = 0 ∧ c.vsave = 0 ∧ c.copyid = 0 ∧ c.copyepc = 0 ∧ c.mprog = 0 ∧ c.mprogc = 0 ∧ c.stealf = 0 ∧
    (∀ v, vget c.views v View.reset = View.reset) ∧ (∀ i, i < 64 → vget c.slotCnt i 0 = 4) ∧
    c.act = none ∧ c.released = false ∧ cycleOf State.reset c = 0 ∧ c.timecmp = 0xffffffffffffffff ∧ c.hlimit.toNat = 2000 ∧
    c.trctl = 0x0000ffff00000000 ∧ (∀ b, vget c.bars b 0 = 0) ∧ (∀ j, (slotAt c j).st = .free) ∧
    (∀ w, vget c.wins w Window.reset = Window.reset) ∧ (∀ j, vget c.journal j none = none)) ∧
  (∀ t, (tileOf State.reset t).qmap = 0x000000e4dcb74321 ∧ ∀ j, vget (tileOf State.reset t).queues j [] = []) ∧
  (∀ sg, rampOf State.reset sg = (0x1111111111112222, false)) ∧
  (∀ s : State, s.agenda = [] → s.mgmt.wanted = [] → s.core.released = false → step s = .next (elapse s 1)) ∧
  (∀ (s : State) (k : CoreId) (v : Word), s.mgmt.boot = .running → s.mgmt.linkUp = true ∨ allTested s = true → (coreOf s k).released = false →
    ∃ t, exec (.tvecBringupWrite k v) s = .next t ∧ (coreOf t k).tvec = setBit v 0 false ∧ (coreOf t k).released = false) ∧
  (∀ (s : State) (k : CoreId), s.mgmt.boot = .running → isLit s (tileOfCore k) = true →
    (coreOf s k).released = false → s.mgmt.linkUp = true ∨ (allTested s = true ∧ k.toNat ∈ s.mgmt.tvecs) →
    ∃ t, exec (.coreRelease k) s = .next t ∧ (coreOf t k).released = true ∧ (coreOf t k).task.pc = (coreOf s k).tvec ∧
      (coreOf t k).task.prv = true ∧ (coreOf t k).task.nest = true ∧ (coreOf t k).task.cause = 0 ∧
      (coreOf t k).task.s = (coreOf s k).task.s ∧ (∀ j, j ≠ k → coreOf t j = coreOf s j))

/-! Events of a core. A context `h` of core k moves on: `focus` makes it the one that steps and gives it back. -/

/-- R22, R147, R283, R336 to R338, R345: what enters at a boundary of core k's task context. The first pending event in
the order of R338 enters with EPC at the next instruction, at a boundary of every member of its gang (R147); a death enters with 0x26, EPC 0 and the notice; a completion
entry continues at its handler with the way back in COPYEPC, but not inside a MERGE that waits. -/
def Obligations.core_entries : Prop :=
  ∀ (s : State) (k : CoreId),
    let c := coreOf s k
    (∀ code v q, nextEvent s k = some (code, v, q) →
      ((∀ e ∈ c.eventQ, e.code ∈ eventOrder) → ∀ e ∈ c.eventQ, eventRank code ≤ eventRank e.code) ∧ ((outranking c).isSome → eventRank code ≤ 6)) ∧
    (chunkOn c = false → tvecOk s k = true → atBoundary s k = true →
      (∀ code v q, taskLive s k = true → c.task.ie = true → c.task.wait.abandons = true → nextEvent s k = some (code, v, q) →
        ∃ t, exec (.asyncEventEntry k) s = .next t ∧
          let x := (coreOf t k).task
          x.epc = c.task.pc ∧ x.eval = v ∧ x.cause.toNat = 2 ^ 63 + code.toNat ∧ x.pc = c.tvec ∧ x.prv = true ∧ x.pprv = c.task.prv ∧
          x.pie = true ∧ x.ie = false ∧ x.nest = true ∧ x.s = c.task.s ∧ x.wait = .none ∧ (coreOf t k).eventQ = q ∧
          (coreOf t k).gang = none) ∧
      (∀ w, taskLive s k = true → c.death = some w → c.task.wait.yields = true → c.task.nest = false →
        ∃ t, exec (.deathTrapEntry k) s = .next t ∧
          let x := (coreOf t k).task
          x.epc = 0 ∧ x.eval = w ∧ x.cause = 0x26 ∧ x.pc = c.tvec ∧ x.prv = true ∧ x.nest = true ∧ (coreOf t k).death = none)) ∧
    (∀ e, taskLive s k = true → atBoundary s k = true → eventPending s k = false → c.task.wait.abandons = true → c.task.wait ≠ .merge →
      deliverable s k = some e → checkTarget (focus s k .task) e.handler = .ok () →
      ∃ t, exec (.completionDelivery k) s = .next t ∧ (coreOf t k).task.pc = e.handler ∧ (coreOf t k).copyepc = c.task.pc ∧
        (coreOf t k).copyid.toNat = e.err.toNat * 2 ^ 24 + e.eng.toNat * 2 ^ 16 + e.tid.toNat ∧ (coreOf t k).compQ = c.compQ.erase e ∧
        (coreOf t k).task.s = c.task.s)

/-- R105, R174, R192, R194, R208, R242, R245, R260, R269, R271: a context that waits goes on when what it waits for has come, and
takes its sources then (R42, log 47). WFE, WAITA and BWAIT go on only where the context may issue (R353, R422). BWAIT has not issued: it is
the instruction still, if a fetch gives it (R248), and its queues' roles and links are checked again (R134, R139, R172). A
member of a gang whose wait ends in a fault ends the gang (R147). -/
def Obligations.waits_end : Prop :=
  ∀ (s : State) (k : CoreId) (h : CtxKind), Plain (coreOf s k) → coreLive s k = true →
    let alone := h = .task → (coreOf s k).gang = none
    let f := focus s k h
    let back := fun t : State => Outcome.next (focus t s.cur s.kind)
    let w := ((coreOf s k).ctx h).wait
    let may := h = .handler ∨ taskLive s k = true
    (alone → h = .task → taskLive s k = true → w = .wfe → eventPending s k = true ∨ (deliverable s k).isSome → exec (.wfeWake k) s = back (retire f)) ∧
    (∀ b d a x s1 u, alone → may → sameFetched f = true → w = .bwait b d a true → checkRoles f [.srcS a, .dstS d] = .ok () → readS f a = .ok (x, s1) → writeS s1 d (vget (coreOf s k).bars b.toNat 0) = .ok u →
      exec (.bwaitResume k h) s = back (retire u)) ∧
    (∀ b d a rel e, alone → may → sameFetched f = true → w = .bwait b d a rel → checkRoles f [.srcS a, .dstS d] = .error (.exc e) →
      exec (.bwaitResume k h) s = back (raise (endWait f) e)) ∧
    (∀ d n sx addr p net bs u, alone → w = .remote d n sx addr → takeFirst (isReply k h) s.net = some (p, net) → p.body = .loadReply h bs →
      writeS (takeAll { f with net := net }) d (loaded n sx bs) = .ok u → exec (.loadCompletion k h) s = back (retire u)) ∧
    (∀ d n ea t p net bs u, alone → w = .far d n ea t → takeFirst (isFarReply k h t) s.net = some (p, net) → p.body = .farReply h t bs →
      writeS (takeAll { f with net := net }) d (.ofNat 64 (ofLe bs)) = .ok u → exec (.loadCompletion k h) s = back (retire u)) ∧
    (∀ d n sx addr p net reason a, w = .remote d n sx addr → takeFirst (isReply k h) s.net = some (p, net) → p.body = .loadRefused h reason a →
      (alone → exec (.loadCompletion k h) s =
        back (raise (endWait { f with net := net }) { code := 0x1a, eval := refusalEval addr reason })) ∧
      (∀ g, h = .task → (coreOf s k).gang = some g → gangJoint s k = false →
        ∃ t, exec (.loadCompletion k h) s = .next t ∧ (coreOf t k).gang = none)) ∧
    (w = .fence ∨ w = .fenceRs → resume f = if storesDone f then some (retire (takeAll f)) else none) ∧
    (∀ n t, w = .bind n t → resume f = if n = 0 ∧ storesDone f = true then some (retire (takeAll f)) else none) ∧
    (∀ own segs bs, w = .strel own segs bs →
      (storesDone f = false ∨ (∃ off, own = some off ∧ filled f (lmKey k off) bs.length = false) → resume f = none) ∧
      (storesDone f = true → (∀ off, own = some off → filled f (lmKey k off) bs.length = true) → ∃ t, resume f = some t ∧ (cx t).pc = (cx f).succ ∧ (cx t).wait = .none ∧
        (∀ off, own = some off → ∀ i, i < bs.length → byteAt t true (lmKey k off + i) = bs[i]?.getD 0) ∧
        (∀ pa, own = none → segs = [(pa, bs.length)] → ∀ i, i < bs.length → byteAt t false (pa + i) = bs[i]?.getD 0))) ∧
    (∀ d ea n old segs bs s1 u, alone → may → w = .waita d ea n old → xlat f ea n .r = .ok segs → readPlace f ea n (.virt segs) = .ok (bs, s1) →
      BitVec.ofNat 64 (ofLe bs) ≠ old → writeS (takeAll s1) d (.ofNat 64 (ofLe bs)) = .ok u → exec (.waitaReread k h) s = back (retire u)) ∧
    (alone → w = .writeBack → ∃ t, exec (.writeBackAcceptance k h) s = .next t ∧ (coreOf t k).ctx h = cx (retire (takeAll f)) ∧
      (coreOf t k).links = (takeAll f).core.links ∧ ∀ m, tileOf t m = tileOf (takeAll f) m) ∧
    (∀ n, h = .task → w = .gang n → n = 2 ∨ n = 4 ∨ n = 8 → gangReady s k n = true →
      (∀ i, i < n → Plain (coreOf s (gangMember (gangLeader k n) n i))) →
      ∃ t, exec (.gangFormation k) s = .next t ∧ ∀ i, i < n →
        let m := gangMember (gangLeader k n) n i
        (coreOf t m).gang = some ⟨gangLeader k n, n, i⟩ ∧ (coreOf t m).task.wait = .none ∧
          (coreOf t m).task.pc = (coreOf s (gangLeader k n)).task.succ ∧ rscount (coreOf s m) .task = 0) ∧
    (((coreOf s k).ctx h).pauseEnd ≠ 0 → ∃ t, exec (.pauseWindowEnd k h) s = .next t ∧ ((coreOf t k).ctx h).pauseEnd = 0 ∧
      t.ck = max s.ck ((coreOf s k).ctx h).pauseEnd)

/-- R17, R20, R30, R103, R133, R134, R158, R159, R302, R345: registers written from the outside, the timer, a leaf filled
ahead, the end of an activation by its budget. -/
def Obligations.core_register_events : Prop :=
  ∀ (s : State) (k : CoreId) (h : CtxKind) (v : Word) (te : TileId),
    let c := coreOf s k
    (s.ck < 2 ^ 64 → ∃ t, exec (.timerExpiry k) s = .next t ∧ t.ck = max s.ck (c.ckBase + c.timecmp.toNat) ∧
      (c.ckBase + c.timecmp.toNat < 2 ^ 64 → timerPending t (coreOf t k) = true)) ∧
    (∃ t, exec (.timecmpWrite k v) s = .next t ∧ (coreOf t k).timecmp = v ∧ (coreOf t k).task = c.task) ∧
    (∀ p ∈ ([
      (0x001, 0x80000000000000ff), (0x002, 0xfffffffffffffffe), (0x003, 0xffffffffffffffff), (0x004, 0xfffffffffffffffe), (0x014, 0xfffffffff),
      (0x033, 0xffc0), (0x038, 0x7), (0x03c, 0xfffff), (0x042, 0xfffffffffffff000), (0x045, 0xffffffffffffffff),
      (0x051, 0xfffffffffffffffe)] : List (BitVec 10 × Word)),
      ∃ t, exec (.csrWrite k h p.1 v) s = .next t ∧
        csrGet (focus t k h) p.1.toNat = (csrGet (focus s k h) p.1.toNat &&& ~~~p.2) ||| (v &&& p.2) ∧ (coreOf t k).task.s = c.task.s) ∧
    (∃ t, exec (.qmapWrite te v) s = .next t ∧
      (tileOf t te).qmap = ((tileOf s te).qmap &&& ~~~0x000000fcffffffff) ||| (v &&& 0x000000fcffffffff) ∧
      ∀ j, j < 8 → vget (tileOf t te).queues j [] = if fld v (4 * j) 4 = fld (tileOf s te).qmap (4 * j) 4 then vget (tileOf s te).queues j [] else []) ∧
    (∃ t, exec (.tkillWrite k v) s = .next t ∧
      ((slotAt c (fld v 0 6)).st ≠ .free → slotAt (coreOf t k) (fld v 0 6) = { slotAt c (fld v 0 6) with st := .free, purging := true }) ∧
      (∀ j, j ≠ fld v 0 6 → slotAt (coreOf t k) j = slotAt c j)) ∧
    (∀ r, (tileOf s (tileOfCore k)).mte.run = some r → r.cmd.issuer = k →
      ∃ t, exec (.mprogStopRequest k) s = .next t ∧ (tileOf t (tileOfCore k)).mte.stopReq = some ((tileOf s (tileOfCore k)).mte.stopReq.getD s.ck) ∧ (coreOf t k).mprog = c.mprog) ∧
    (∃ t, exec (.mprogVClear k) s = .next t ∧ bit (coreOf t k).mprog 63 = false ∧ ∀ i, i < 63 → bit (coreOf t k).mprog i = bit c.mprog i) ∧
    (∀ f, fetchLeaf (focus s k h) v = .ok f → f.fill = true →
      ∃ t, exec (.leafFill k h v) s = .next t ∧ (⟨c.ctxnum, leafOf v, f.pa, f.image⟩ : Leaf) ∈ (coreOf t k).icache ∧ leafReason f.image = 0) ∧
    (∀ e, fetchLeaf (focus s k h) v = .error e → ∃ t, exec (.leafFill k h v) s = .next t ∧ (coreOf t k).icache = c.icache) ∧
    (∀ a, c.act = some a →
      let u := elapse s (a.endCk - s.ck)
      ∃ t, exec (.handlerBudgetExpiry k) s = .next t ∧ (coreOf t k).act = none ∧ t.ck = max s.ck a.endCk ∧
        ∃ r, t.eva.inbox.take (u.eva.inbox.length + 1) = u.eva.inbox ++ [r] ∧ fld r.d0 48 8 = 0x25)

/-- R419 to R421: chunks that end. In record mode the record of cause 2 or 3 is sent before the instruction that ends the chunk, which
issues once the EVA has acknowledged it; that of cause 1 or 4 is sent at the end. In replay a chunk ends when its record is the next of the
log, which is then matched; one that the log does not hold sends code 0xff and stops the device; another core's turn makes it hold. -/
def Claims.chunk_ends : Prop :=
  ∀ (s : State) (k : CoreId) (h : CtxKind) (cause : BitVec 8) (v : Word), 1 ≤ cause.toNat → cause.toNat ≤ 4 →
    let c := coreOf s k
    let x := c.ctx h
    let f := focus s k h
    let pcWord := fun (n : Nat) (pc : Word) => BitVec.ofNat 64 (fld pc 0 48 * 65536 + n % 65536)
    (fld c.trctl 0 2 = 1 → x.chunkHeld = false → (k, h) ∉ s.eva.asked →
      ∃ t r, exec (.chunkEnd k h cause v) s = .next t ∧ t.eva.inbox = s.eva.inbox ++ [r] ∧ fld r.d0 56 8 = 11 ∧ fld r.d0 48 8 = cause.toNat ∧
        fld r.d0 0 16 = k.toNat ∧ r.d1 = 0 ∧
        (cause = 2 ∨ cause = 3 → r.d2 = pcWord (x.chunkN + 1) x.succ ∧ ((coreOf t k).ctx h).chunkHeld = true ∧
          t.eva.asked = s.eva.asked ++ [(k, h)] ∧ ((coreOf t k).ctx h).chunkN = x.chunkN) ∧
        (cause = 1 ∨ cause = 4 → r.d2 = pcWord x.chunkN x.pc ∧ ((coreOf t k).ctx h).chunkHeld = false ∧
          t.eva.asked = s.eva.asked ∧ ((coreOf t k).ctx h).chunkN = 0)) ∧
    (∃ t, exec (.chunkRecordAck k h) s = .next t ∧ t = { s with eva := { s.eva with
      grants := s.eva.grants.map fun g => if g.core = k ∧ g.ctx = h then { g with acked := true } else g } }) ∧
    (∀ i t, chunkMode s.core = 1 → exec i s = .next t → (cx t).last = .retired → isSync s i = true ∨ (valueDest s i).isSome = true →
      acked s = false →
      ∃ u, chunked exec i s = .next u ∧ (cx u).pc = (cx s).pc ∧ (cx u).last = .blocked ∧ (cx u).chunkHeld = true ∧ RegsSame s u ∧ SameMem s u) ∧
    (fld c.trctl 0 2 = 2 → cause = 4 ∨ trapDue f = false →
      (∀ r i, nextChunk s = some (r, i) → r.agent = k.toNat → r.fits cause.toNat x.chunkN x.pc = true →
        ∃ t, exec (.chunkEnd k h cause v) s = .next t ∧ t.eva.replay = .ofNat 64 (i + 1) ∧ t.eva.inbox = s.eva.inbox ∧
          ((coreOf t k).ctx h).chunkN = 0 ∧ ∀ j, (coreOf t j).stopped = (coreOf s j).stopped) ∧
      (∀ r i, nextChunk s = some (r, i) → r.agent ≠ k.toNat →
        ∃ t, exec (.chunkEnd k h cause v) s = .next t ∧ t.eva = s.eva ∧ (coreOf t k).ctx h = x) ∧
      (nextChunk s = none →
        ∃ t r, exec (.chunkEnd k h cause v) s = .next t ∧ t.eva.inbox = s.eva.inbox ++ [r] ∧ fld r.d0 56 8 = 11 ∧ fld r.d0 48 8 = 0xff ∧
          ∀ j, (coreOf t j).stopped = true))

/-- R204, R212, R418, R422: the bank array, stamp fills, samples and a halt of the device. -/
def Claims.record_events : Prop :=
  ∀ (s : State) (k : CoreId) (region : Nat),
    let c := coreOf s k
    (∃ t, exec (.bankArrayCycle k) s = .next t ∧ t.ck = s.ck + 1 ∧
      let b := fun (q : BankReq) => q.off / 64 % 8
      ∃ served : List BankReq, served.length ≤ 3 ∧ (served.filter (·.write)).length ≤ 1 ∧ (served.filter (!·.write)).length ≤ 2 ∧
        (coreOf t k).banks = served.foldl List.erase c.banks ∧
        (∀ q, c.banks.find? (·.write) = some q → q ∈ served) ∧
        (∀ q r, q ∈ served → q.write = true → r ∈ served → r.write = false → b q ≠ b r) ∧ (coreOf t k).task.s = c.task.s) ∧
    (∃ t, exec (.stampFillComplete region) s = .next t ∧ SMap.get? t.fills region = none ∧
      (∀ r, r ≠ region → SMap.get? t.fills r = SMap.get? s.fills r) ∧ t.arr = s.arr ∧
      ∀ ck, SMap.get? s.fills region = some ck → t.ck = max s.ck ck) ∧
    (∀ j, c.running = some j → fld c.trctl 12 20 ≠ 0 → (cycleOf s c).toNat % (fld c.trctl 12 20 * 1024) = 0 →
      ∃ t r, exec (.sampleRecord k) s = .next t ∧ t.eva.inbox = s.eva.inbox ++ [r] ∧ fld r.d0 56 8 = 9 ∧
        fld r.d0 16 16 = k.toNat * 64 + j ∧ r.d1 = c.task.pc ∧ r.d2 = cycleOf s c) ∧
    (∃ t, exec .managementHalt s = .next t ∧ ∀ j, (coreOf t j).stopped = true ∧ taskLive t j = false)

/-- R204, R212, R418 to R422: the bank array, stamp fills, samples, chunks and a halt of the device. -/
def Obligations.core_record_events : Prop :=
  Claims.record_events ∧ Claims.chunk_ends
/-! Events of the networks and inboxes. -/

/-- The packet `p` comes next for its target: none before it in the network has its target or its sender. `rest` is the
network without it. -/
def Claims.next_packet (s : State) (p : Packet) (rest : List Packet) : Prop :=
  ∃ pre post, s.net = pre ++ p :: post ∧ rest = pre ++ post ∧ ∀ q ∈ pre, q.dst ≠ p.dst ∧ q.src ≠ p.src

/-- R24, R148, R153, R155, R161, R165, R187, R246: what the inbox of core k takes from the network: a launch into the launch queue, whose
head takes a free slot as the ck ends; an active message, an arrival, an atomic or a COPYX request into the active queue; a stream word into
its entry. A message for an empty handler entry and a word for an entry of another source are refused; an atomic that comes again under its
tag is answered from its record. A launch of a context that the core no longer runs is gone (log 68); a core that a double fault has stopped
takes nothing. -/
def Claims.messages_taken : Prop :=
  ∀ (s : State) (k : CoreId) (p : Packet) (rest : List Packet),
    let c := coreOf s k
    let src := p.src
    let queued := fun (ev : Instr) (m : ActiveMsg) =>
      ∃ t, exec ev s = .next t ∧ (coreOf t k).activeQ = c.activeQ ++ [m] ∧ t.net = rest ∧ (coreOf t k).task = c.task
    let refused := fun (ev : Instr) (w : Word) (resv : Bool) (cr : Option (CoreId × BitVec 4 × Bool)) =>
      ∃ t q r, exec ev s = .next t ∧ t.net = rest ++ [q] ∧ q.src = k ∧ q.dst = src ∧ q.body = .refused w resv cr ∧
        t.eva.inbox = s.eva.inbox ++ [r] ∧ fld r.d0 56 8 = 1 ∧ fld r.d0 48 8 = 0x13 ∧ r.d1 = w
    (c.dead = true → isDark s (tileOfCore k) = false →
      exec (.activeMessageArrival src k) s = .next s ∧ exec (.streamWordArrival src k) s = .next s ∧ exec (.remoteAtomicApply k) s = .next s) ∧
    (∀ l q j, c.launchQ = l :: q → coreOpen s k = true → freeSlot c = some j →
      let t := launchAccept s k
      (l.ctx = c.ctxnum → slotAt (coreOf t k) j = launchSlot l (cycleOf s c) c.readyCount ∧
        (∀ i, i ≠ j → slotAt (coreOf t k) i = slotAt c i) ∧ (coreOf t k).launchQ = q ∧
        (l.rootQ.isSome → ∀ i e, vget (coreOf t k).handlers i none = some e → e.owner = some (tagOf k j))) ∧
      (l.ctx ≠ c.ctxnum → (coreOf t k).launchQ = q ∧ (coreOf t k).slots = c.slots)) ∧
    ((listedCores s).filter (fun j => (coreOf s j).launchDue) = [k] →
      launchesIn s = launchAccept (modCore s k fun c => { c with launchDue := false }) k) ∧
    (isDark s (tileOfCore k) = false → c.dead = false → Claims.next_packet s p rest → p.dst = k →
      (∀ l, p.body = .launch l → c.launchQ.length < 4 →
        ∃ t q', exec (.launchAccept k) s = .next t ∧ (coreOf t k).launchQ = c.launchQ ++ l :: q' ∧ (coreOf t k).launchDue = true ∧
          (coreOf t k).slots = c.slots) ∧
      (∀ h n m v, p.body = .again h n m false → doneOf c.done src.toNat n = some v →
        ∃ t, exec (.activeMessageArrival src k) s = .next t ∧ t.arr = s.arr ∧ (coreOf t k).activeQ = c.activeQ ∧
          t.net = rest ++ [⟨k, src, p.tag, c.ctxnum, .atomicReply h n (leBytes m v.toNat)⟩]) ∧
      (∀ hdr pay, p.body = .active hdr pay → (vget c.handlers (fld hdr 32 4) none).isSome →
        (bit hdr 27 = false → requestRoom c = true) → (bit hdr 27 = true → replyRoom c = true) →
        queued (.activeMessageArrival src k) (.soft src (fld hdr 32 4) hdr pay (!bit hdr 27))) ∧
      (∀ hdr pay, p.body = .active hdr pay → vget c.handlers (fld hdr 32 4) none = none → bit hdr 27 = false →
        refused (.activeMessageArrival src k) (refusalWord p.tag 1 1 k (fld hdr 32 4)) true none) ∧
      (∀ b, p.body = .arrival b → requestRoom c = true → queued (.activeMessageArrival src k) (.arrival src b p.tag)) ∧
      (∀ h off req seq addr, p.body = .atomic h off req seq addr → requestRoom c = true →
        queued (.activeMessageArrival src k) (.atomic src h off req p.ctx p.tag seq addr)) ∧
      (∀ cmd, p.body = .copyx cmd → requestRoom c = true → mveUsed (tileOf s (tileOfCore k)) < 8 →
        queued (.activeMessageArrival src k) (.copyx cmd)) ∧
      (∀ hdr data, p.body = .stream hdr data →
        let e := fld hdr 32 4
        let ent := vget c.streams e StreamEnt.reset
        let mine := e < 8 ∧ bit ent.word 0 = true ∧ coreAt (fld ent.word 18 5) (fld ent.word 23 5) = src
        (mine → ∃ t, exec (.streamWordArrival src k) s = .next t ∧ t.net = rest ∧
          let ent' := vget (coreOf t k).streams e StreamEnt.reset
          ent'.buf = ent.buf ++ [(hdr, data)] ∧ fld ent'.word 32 16 = (fld ent.word 32 16 + 1) % 65536 ∧
            fld ent'.word 0 32 = fld ent.word 0 32 ∧ fld ent'.word 48 16 = fld ent.word 48 16) ∧
        (¬mine → refused (.streamWordArrival src k) (refusalWord p.tag 2 1 k e) false (some (k, .ofNat 4 e, bit hdr 26)))))

/-- R156, R159, R164, R169, R195, R207, R245, R246, R422: what comes of the head of the active queue. An atomic is applied, and its result
recorded under its tag; one that no window admits when it is applied is refused (log 69), and one on a region that is being
filled waits. An arrival joins the events of its ck at its barrier (`barrier_events` says what they come to), and is refused by one
without a target; a COPYX request goes to the MVE, which carries it out as a COPY (R315); a software message starts the idle handler context with
the header in s1 and the payload from s2, all other registers zero, under its entry's budget; a core that is stopped starts none. -/
def Claims.messages_applied : Prop :=
  ∀ (s : State) (k : CoreId) (q : List ActiveMsg),
    let c := coreOf s k
    c.dead = false →
    (∀ src h off req ctx tag seq addr, c.activeQ = .atomic src h off req ctx tag seq addr :: q →
      let key := lmKey k off
      let old := arrRead s ctx key req.size
      let sent := fun (t : State) (b : Body) => t.net = s.net ++ [⟨k, src, tag, c.ctxnum, b⟩] ∧ (coreOf t k).activeQ = q
      (filled s key req.size = false → exec (.remoteAtomicApply k) s = .next s) ∧
      (filled s key req.size = true →
      (∀ r, refusal s k src ctx off req.size .at = some r →
        ∃ t, exec (.remoteAtomicApply k) s = .next t ∧ sent t (.loadRefused h r addr) ∧ t.arr = s.arr) ∧
      (refusal s k src ctx off req.size .at = none →
        ∃ t, exec (.remoteAtomicApply k) s = .next t ∧ sent t (.atomicReply h seq old) ∧
          doneOf (coreOf t k).done src.toNat seq = some (.ofNat 64 (ofLe old)) ∧
          (∀ i, i < req.size → byteAt t true (key + i) = ((req.bytes old).getD old)[i]?.getD 0) ∧
          ∀ a, a < key ∨ key + req.size ≤ a → stampOf s (a / 4096) = ctx.toNat → byteAt t true a = byteAt s true a))) ∧
    (∀ src b tag, c.activeQ = .arrival src b tag :: q →
      let e := (SMap.get? c.barIn b.toNat).getD (0, 0)
      (barTarget (vget c.bars b.toNat 0) = 0 → ∃ t p, exec (.barrierArrival k) s = .next t ∧ t.net = s.net ++ [p] ∧ p.dst = src ∧
        p.body = .refused (refusalWord tag 3 1 k b.toNat) false none ∧ (coreOf t k).bars = c.bars ∧ (coreOf t k).barIn = c.barIn ∧
        (coreOf t k).activeQ = q) ∧
      (barTarget (vget c.bars b.toNat 0) ≠ 0 → ∃ t, exec (.barrierArrival k) s = .next t ∧ (coreOf t k).activeQ = q ∧ t.net = s.net ∧
        (coreOf t k).bars = c.bars ∧ SMap.get? (coreOf t k).barIn b.toNat = some (e.1 + 1, e.2))) ∧
    (∀ cmd, c.activeQ = .copyx cmd :: q →
      ∃ t, exec (.copyxRequest k) s = .next t ∧ (coreOf t k).activeQ = q ∧
        (tileOf t (tileOfCore k)).mve = (tileOf s (tileOfCore k)).mve ++ [{ cmd with kind := .copy }] ∧
        (tileOf t (tileOfCore k)).reserved = (tileOf s (tileOfCore k)).reserved - 1) ∧
    (∀ src idx hdr pay mr e, c.act = none → c.activeQ = .soft src idx hdr pay mr :: q → coreOpen s k = true → c.stopped = false →
      vget c.handlers idx none = some e → pay.length ≤ 8 →
      ∃ t, exec (.handlerActivation k) s = .next t ∧ (coreOf t k).activeQ = q ∧ (coreOf t k).task = c.task ∧
        (coreOf t k).act = some ⟨hdr, e, s.ck + (if e.budget = 0 then c.hlimit.toNat else e.budget), mr, src⟩ ∧
        let x := (coreOf t k).hand
        x.pc = e.addr ∧ x.getS 1 = hdr ∧ (∀ i, i < pay.length → x.getS (2 + i) = pay[i]?.getD 0) ∧
          (∀ r, 2 + pay.length ≤ r → x.getS r = 0) ∧ (∀ r, vget x.v r 0 = 0) ∧ (∀ r, vget x.m r 0 = 0) ∧ x.prv = false ∧ x.wait = .none) ∧
    (∀ src idx hdr pay mr, c.act = none → c.activeQ = .soft src idx hdr pay mr :: q → coreOpen s k = true → c.stopped = false →
      vget c.handlers idx none = none → ∃ t, exec (.handlerActivation k) s = .next t ∧ (coreOf t k).act = none ∧ (coreOf t k).activeQ = q) ∧
    (c.stopped = true → exec (.handlerActivation k) s = .next s)

/-- R160 to R164, R344: while its owner runs outside the kernel a reduction takes its oldest word into the accumulator
register and gives a credit back; an end-of-stream word leaves a handler activation with the entry and its count. -/
def Claims.streams_reduce : Prop :=
  ∀ (s : State) (k : CoreId) (e : BitVec 3),
    let c := coreOf s k
    let ent := vget c.streams e.toNat StreamEnt.reset
    let src := coreAt (fld ent.word 18 5) (fld ent.word 23 5)
    let a := fld ent.word 10 5
    (∀ w r, ent.eos = none → ent.buf = w :: r → bit ent.word 0 = true → bit ent.word 9 = true → c.running.isSome →
      fld ent.word 48 16 = (c.runTag k).toNat → c.task.nest = false →
      ∃ t p, exec (.streamReduceApply k e) s = .next t ∧
        vget (coreOf t k).task.v a 0 = reduceOp (fld ent.word 15 3) (vget c.task.v a 0) w.2 ∧
        (∀ i, i ≠ a → vget (coreOf t k).task.v i 0 = vget c.task.v i 0) ∧ (coreOf t k).task.s = c.task.s ∧
        vget (coreOf t k).streams e.toNat StreamEnt.reset = ⟨ent.word, r, if bit w.1 26 then some w.1 else none⟩ ∧
        t.net = s.net ++ [p] ∧ p.dst = src ∧ p.body = .credit k (.ofNat 4 e.toNat) (bit w.1 26)) ∧
    (∀ (x y : Vec) (i : Nat), (i < 16 → lane (reduceOp 1 x y) 32 i = lane x 32 i + lane y 32 i) ∧
      (i < 8 → lane (reduceOp 2 x y) 64 i = lane x 64 i + lane y 64 i) ∧ reduceOp 0 x y = y ∧ reduceOp 6 x y = x ||| y) ∧
    (∀ hdr, ent.eos = some hdr → (vget c.handlers (fld ent.word 28 4) none).isSome → requestRoom c = true →
      ∃ t, exec (.streamEosActivation k e) s = .next t ∧ (vget (coreOf t k).streams e.toNat StreamEnt.reset).eos = none ∧
        (coreOf t k).activeQ = c.activeQ ++
          [.soft src (fld ent.word 28 4) hdr [.ofNat 64 e.toNat, .ofNat 64 (fld ent.word 32 16)] false]) ∧
    (∀ hdr, ent.eos = some hdr → vget c.handlers (fld ent.word 28 4) none = none →
      ∃ t p, exec (.streamEosActivation k e) s = .next t ∧ (vget (coreOf t k).streams e.toNat StreamEnt.reset).eos = none ∧
        t.net = s.net ++ [p] ∧ p.dst = src ∧ p.body = .refused (refusalWord (.ofNat 16 (fld hdr 48 16)) 2 1 k e.toNat) false none)

/-- R137, R138, R140, R155, R162, R166, R178, R182, R280, R336, R345, R346: what returns to a core: link words and
slots, credits, refusals (event 0x13), COPYM slots, reply reservations, notices (event 0x16); and the end of a death's
purge, which frees the slot and takes the dead task's messages out of the network, and no other task's. -/
def Claims.messages_returned : Prop :=
  ∀ (s : State) (k : CoreId) (d : Dir) (p : Packet) (rest : List Packet) (tag : BitVec 16),
    let c := coreOf s k
    let l := c.links.get d
    (∀ o w r, neighbour k d = some o → storeInFlight s o k = false → l.flight = w :: r →
      ∃ t, exec (.linkWordArrival k d) s = .next t ∧ (coreOf t k).links.get d = ⟨l.words ++ [w], r, l.returning⟩ ∧
        ∀ d', d' ≠ d → (coreOf t k).links.get d' = c.links.get d') ∧
    (∃ t, exec (.linkSlotReturn k d) s = .next t ∧ (coreOf t k).links.get d = ⟨l.words, l.flight, l.returning - 1⟩) ∧
    (Claims.next_packet s p rest → p.dst = k →
      (∀ dst e eos i x, p.body = .credit dst e eos → creditLine c dst e = some i → c.credits[i]? = some x →
        ∃ t, exec (.streamCreditReturn k) s = .next t ∧ t.net = rest ∧
          (coreOf t k).credits = if 7 ≤ x.credits ∧ (x.eosBack || eos) = true then c.credits.eraseIdx i
            else c.credits.set i ⟨x.target, x.entry, min 8 (x.credits + 1), x.eosBack || eos⟩) ∧
      (∀ w resv, p.body = .refused w resv none → c.eventQ.length < 32 →
        ∃ t, exec (.messageRefusalArrival k) s = .next t ∧ t.net = rest ∧ (coreOf t k).eventQ = c.eventQ ++ [⟨0x13, w⟩] ∧
          (coreOf t k).resv = if resv then c.resv - 1 else c.resv) ∧
      (p.body = .slotReturn → sgOf p.src = sgOf k →
        let n := vget c.slotCnt (sgIndex p.src) 0
        (n ≠ 15 → ∃ t, exec (.slotReturnArrival k) s = .next t ∧ t.net = rest ∧ vget (coreOf t k).slotCnt (sgIndex p.src) 0 = n + 1 ∧
          ∀ i, i ≠ sgIndex p.src → vget (coreOf t k).slotCnt i 0 = vget c.slotCnt i 0) ∧
        (n = 15 → ∃ t r, exec (.slotReturnArrival k) s = .next t ∧ (coreOf t k).slotCnt = c.slotCnt ∧
          t.eva.inbox = s.eva.inbox ++ [r] ∧ fld r.d0 56 8 = 1 ∧ fld r.d0 48 8 = 0xe1)) ∧
      (p.body = .resvRelease → ∃ t, exec (.reservationRelease k) s = .next t ∧ t.net = rest ∧ (coreOf t k).resv = c.resv - 1) ∧
      (∀ w, p.body = .notice w → noticeReady s w = true → c.eventQ.length < 32 →
        ∃ t, exec (.noticeArrival k) s = .next t ∧ t.net = rest ∧ (coreOf t k).eventQ = c.eventQ ++ [⟨0x16, w⟩])) ∧
    ((slotAt (coreOf s (tagCore tag)) (tagSlot tag)).purging = true →
      ∃ t, exec (.deathPurgeComplete tag) s = .next t ∧
        (slotAt (coreOf t (tagCore tag)) (tagSlot tag)).purging = false ∧
        let ctx := (coreOf s (tagCore tag)).ctxnum
        (∀ q ∈ t.net, q.tag = tag → q.ctx = ctx → q.purgeable = false) ∧
        (∀ q ∈ s.net, q.tag ≠ tag ∨ q.ctx ≠ ctx → q ∈ t.net) ∧
        ∀ j, (coreOf s j).ctxnum = ctx → j = s.cur ∨ (SMap.get? s.others j.toNat).isSome → ∀ m ∈ (coreOf t j).activeQ, m.ofTag tag = false)

/-- R148 to R166, R345: messages at the inbox and on their way back. -/
def Obligations.messages : Prop :=
  Claims.messages_taken ∧ Claims.messages_applied ∧ Claims.streams_reduce ∧ Claims.messages_returned

/-! Accesses at another agent. -/

/-- R206 to R209, R212, R367: a remote load or posted store at its owner, once no fill of a region that it touches goes on. Every
piece is checked before anything is done, and a load needs one window that holds all its pieces in the core (log 46); a refusal names the
first piece that is refused, else the first. An access is not taken before an earlier request of its sender to the core (R357, log 70). A load is
answered with the bytes, a store writes all its pieces, a later one over an earlier one, and is acknowledged. A dark tile does
neither. -/
def Claims.remote_served : Prop :=
  ∀ (s : State) (p : Packet) (rest : List Packet), Claims.next_packet s p rest →
    let k := p.dst
    let answer := fun (t : State) (b : Body) => t.net = rest ++ [⟨k, p.src, p.tag, (coreOf s k).ctxnum, b⟩]
    let recorded := fun (t : State) (code : Nat) =>
      ∃ r, t.eva.inbox = s.eva.inbox ++ [r] ∧ fld r.d0 56 8 = 1 ∧ fld r.d0 48 8 = code
    (isDark s (tileOfCore k) = true →
      exec (.remoteLoadRequest p.src k) s = .next s ∧ exec (.remoteStoreArrival p.src k) s = .next s) ∧
    (∀ h ps addr, p.body = .load h ps addr → isDark s (tileOfCore k) = false → unfilled s p = true → earlierRequest s [] p = false →
      let one := (coreOf s k).wins.toList.any fun w => ps.all fun q => w.admits p.src q.off q.n .rd
      ((∀ q ∈ ps, refusal s k p.src p.ctx q.off q.n .rd = none) →
        (one = true → ∃ t, exec (.remoteLoadRequest p.src k) s = .next t ∧ t.arr = s.arr ∧
          answer t (.loadReply h (ps.flatMap fun q => arrRead s p.ctx (lmKey k q.off) q.n))) ∧
        (one = false → ∃ t, exec (.remoteLoadRequest p.src k) s = .next t ∧ t.arr = s.arr ∧ recorded t 0x1a ∧
          answer t (.loadRefused h 1 (setFld addr 0 21 ((ps.head?.map (·.off)).getD 0))))) ∧
      (∀ ps1 q ps2 r, ps = ps1 ++ q :: ps2 → (∀ q' ∈ ps1, refusal s k p.src p.ctx q'.off q'.n .rd = none) →
        refusal s k p.src p.ctx q.off q.n .rd = some r →
        ∃ t, exec (.remoteLoadRequest p.src k) s = .next t ∧ t.arr = s.arr ∧ recorded t 0x1a ∧ answer t (.loadRefused h r (setFld addr 0 21 q.off)))) ∧
    (∀ j h data addr rel, p.body = .store j h data addr rel → isDark s (tileOfCore k) = false → unfilled s p = true → earlierRequest s [] p = false →
      let cells := fun (q : Nat × List Byte) (a : Nat) => lmKey k q.1 ≤ a ∧ a < lmKey k q.1 + q.2.length
      ((∀ q ∈ data, refusal s k p.src p.ctx q.1 q.2.length .wr = none) →
        ∃ t, exec (.remoteStoreArrival p.src k) s = .next t ∧ answer t (.storeAck j) ∧
          (∀ d1 q d2 i, data = d1 ++ q :: d2 → i < q.2.length → (∀ q' ∈ d2, ¬cells q' (lmKey k q.1 + i)) →
            byteAt t true (lmKey k q.1 + i) = q.2[i]?.getD 0) ∧
          ∀ a, (∀ q ∈ data, ¬cells q a) → stampOf s (a / 4096) = p.ctx.toNat → byteAt t true a = byteAt s true a) ∧
      (∀ d1 q d2 r, data = d1 ++ q :: d2 → (∀ q' ∈ d1, refusal s k p.src p.ctx q'.1 q'.2.length .wr = none) →
        refusal s k p.src p.ctx q.1 q.2.length .wr = some r →
        ∃ t, exec (.remoteStoreArrival p.src k) s = .next t ∧ t.arr = s.arr ∧ recorded t 0x12 ∧
          answer t (.storeRefused j r (setFld addr 0 21 q.1))))

/-- R209, R211, R345: the answer to a posted store frees its journal entry. A refusal is event 0x12 for a task that still
has not died since, nothing for one that has, and the death of the owner of a handler. -/
def Claims.store_answers : Prop :=
  ∀ (s : State) (p : Packet) (rest : List Packet), Claims.next_packet s p rest →
    let k := p.dst
    let c := coreOf s k
    (∀ j, p.body = .storeAck j → j < 32 →
      ∃ t, exec (.storeAckArrival k) s = .next t ∧ t.net = rest ∧ vget (coreOf t k).journal j none = none ∧
        ∀ i, i ≠ j → vget (coreOf t k).journal i none = vget c.journal i none) ∧
    (∀ j reason addr e, p.body = .storeRefused j reason addr → j < 32 → vget c.journal j none = some e →
      let freed := fun (t : State) => vget (coreOf t k).journal j none = none ∧
        ∀ i, i ≠ j → vget (coreOf t k).journal i none = vget c.journal i none
      (e.kind = .task → e.live = true → c.eventQ.length < 32 →
        ∃ t, exec (.storeRefusalArrival k) s = .next t ∧ freed t ∧ t.net = rest ∧
          (coreOf t k).eventQ = c.eventQ ++ [⟨0x12, storeEval e.tag j reason addr⟩]) ∧
      (e.live = false → ∃ t, exec (.storeRefusalArrival k) s = .next t ∧ freed t ∧ t.net = rest ∧ (coreOf t k).eventQ = c.eventQ ∧
        (coreOf t k).slots = c.slots) ∧
      (e.kind = .handler → e.live = true → e.tag ≠ 0xffff → (slotAt (coreOf s (tagCore e.tag)) (tagSlot e.tag)).st ≠ .free →
        ∃ t, exec (.storeRefusalArrival k) s = .next t ∧ freed t ∧
          slotAt (coreOf t (tagCore e.tag)) (tagSlot e.tag) =
            { slotAt (coreOf s (tagCore e.tag)) (tagSlot e.tag) with st := .free, purging := true }))

/-- The bytes that a reduction entry writes over memory `m` (R251). -/
def Claims.redBytes (m : Mem) (e : RedEntry) : List Byte :=
  let n := RedKind.bytes e.k
  let old := ofLe (Mem.read m e.pa n)
  leBytes n (match e.k with
    | .f => fp32.addC .ne old (fld e.value 0 32)
    | .w => (old + e.value.toNat) % 2 ^ 32
    | .d => (old + e.value.toNat) % 2 ^ 64)

/-- R217, R223, R224: a request `b` of core `src` for the address `pa`, sent to slice `at_`, reaches a slice. While a move of its bucket
waits, the slice holds the request; a slice that does not own the bucket applies it nowhere, and it is sent again to the owner, whose
number the tile's copy of the table takes over unless it is stale. -/
def Claims.not_at_home (s : State) (p : Packet) (rest : List Packet) (ev : Instr) (pa at_ : Nat) (b : Nat → Body) : Prop :=
  let bu := bucketOf pa
  let again := fun (t : State) (sl : Nat) => t.net = rest ++ [⟨p.src, p.dst, p.tag, p.ctx, b sl⟩] ∧ t.pmem = s.pmem ∧ t.coh = s.coh ∧
    t.logs = s.logs ∧ ∀ j, coreOf t j = coreOf s j
  (s.coh.move.map (·.1) = some bu → ∃ t, exec ev s = .next t ∧ again t at_ ∧ t.tiles = s.tiles) ∧
  (s.coh.move.map (·.1) ≠ some bu → at_ ≠ sliceOf s bu →
    ∃ t, exec ev s = .next t ∧ again t (sliceOf s bu) ∧
      tileOf t (tileOfCore p.src) = (tileOf s (tileOfCore p.src)).redirect bu ((SMap.get? s.coh.map bu).getD (bu % 64, 0)))

/-- R224, R245, R246, R248, R250, R251, R266 to R268, R357: at the home slice. A far atomic is applied once, its old value recorded under
its tag and returned; one that comes again is answered from the record, and the loss of an answer makes the requester send it again so
(log 66). A RED is appended with the next number of its agent and its context goes on, or faults with 0x22 when no log place is
left; a context that waits for it no longer is left alone. MERGE applies the entries it took in the order of R251 (by physical
address, log 26); an invalidation of BIND removes the leaves and counts for its own BIND only. -/
def Claims.home_slice : Prop :=
  (∀ (s : State) (p : Packet) (rest : List Packet), Claims.next_packet s p rest →
    let src := p.src
    let answer := fun (t : State) (b : Body) => t.net = rest ++ [⟨src, src, p.tag, (coreOf s src).ctxnum, b⟩]
    let home := fun (pa at_ : Nat) => s.coh.move.map (·.1) ≠ some (bucketOf pa) ∧ at_ = sliceOf s (bucketOf pa)
    (∀ h pa req seq at_, p.body = .far h pa req seq at_ →
      let n := req.size
      let old := Mem.read s.pmem pa n
      Claims.not_at_home s p rest (.farAtomicApply src) pa at_ (.far h pa req seq) ∧
      (home pa at_ →
        (∀ i, poisonIn s pa n = some i →
          ∃ t, exec (.farAtomicApply src) s = .next t ∧ answer t (.farBad h seq i) ∧ t.pmem = s.pmem) ∧
        (poisonIn s pa n = none →
          ∃ t, exec (.farAtomicApply src) s = .next t ∧ answer t (.farReply h seq old) ∧
            doneFar t src.toNat seq = some (.ofNat 64 (ofLe old)) ∧
            t.pmem = (match req.bytes old with | some bs => Mem.write s.pmem pa bs | none => s.pmem)))) ∧
    (∀ h seq n v, p.body = .again h seq n true → doneFar s src.toNat seq = some v →
      ∃ t, exec (.farAtomicApply src) s = .next t ∧ answer t (.farReply h seq (leBytes n v.toNat)) ∧ t.pmem = s.pmem ∧ t.coh = s.coh) ∧
    (∀ e n at_, p.body = .red e n at_ → Plain (coreOf s src) → coreLive s src = true → (e.ctx = .task → (coreOf s src).gang = none) →
      ((coreOf s src).ctx e.ctx).wait ≠ .acked →
      let key := homeOf s e.pa * 1024 + p.ctx.toNat
      let l := (SMap.get? s.logs key).getD []
      let y := (coreOf s src).ctx e.ctx
      Claims.not_at_home s p rest (.redLogAppend src) e.pa at_ (.red e n) ∧
      (home e.pa at_ →
        ((l.filter fun x => !x.spilled).length < 4096 →
          ∃ t, exec (.redLogAppend src) s = .next t ∧ t.net = rest ∧ t.pmem = s.pmem ∧
            SMap.get? t.logs key = some (l ++ [{ e with seq := nextSeq s p.ctx e }]) ∧
            (∀ sl x, x ∈ (SMap.get? s.logs (sl * 1024 + p.ctx.toNat)).getD [] → sl < 64 → x.requester = e.requester → x.ctx = e.ctx →
              x.seq < nextSeq s p.ctx e) ∧
            let x := (coreOf t src).ctx e.ctx
            (∀ va, y.wait = .red va n → x.pc = y.succ ∧ x.wait = .none ∧ x.s = y.s) ∧
            ((∀ va, y.wait ≠ .red va n) → x = y)) ∧
        (4096 ≤ (l.filter fun x => !x.spilled).length → spillRoom s p.ctx ≤ spilledOf s p.ctx →
          ∀ va, y.wait = .red va n →
          let u := asCore (countReq { s with net := rest } (e.pa / 128)) src e.ctx fun u => raise (endWait u) { code := 0x22, eval := e.va }
          exec (.redLogAppend src) s = .next (if e.ctx = .task then dissolveTrapped u src else u)))) ∧
    (∀ h n pages, p.body = .bindInv h n pages →
      ∃ t, exec (.bindInvalidation p.dst) s = .next t ∧ t.net = rest ∧
        (∀ l, l ∈ (coreOf t p.dst).icache ↔ l ∈ (coreOf s p.dst).icache ∧ l.meets pages = false) ∧
        ∀ left n', ((coreOf s src).ctx h).wait = .bind left n' →
          ((coreOf t src).ctx h).wait = .bind (if n' = n then left - 1 else left) n')) ∧
  (∀ (s : State) (k : CoreId) (h : CtxKind),
    let key := 2 * k.toNat + ctxCode h
    let es := (SMap.get? s.taken key).getD []
    (sortRed es).Perm es ∧ (sortRed es).Pairwise (fun a b => RedEntry.before b a = false) ∧
    ∃ t, exec (.mergeApplication k h) s = .next t ∧ SMap.get? t.taken key = none ∧
      t.pmem = (sortRed es).foldl (fun m e => Mem.write m e.pa (Claims.redBytes m e)) s.pmem) ∧
  (∀ (s : State) (src dst : CoreId),
    exec (.linkFlitError src dst) s = .next s ∧
    ∃ t r, exec (.linkLoss src dst) s = .next t ∧ t.net.length = s.net.length ∧
      (∀ (i : Nat) (q : Packet), s.net[i]? = some q → t.net[i]? = some (if q.dst = src ∧ q.src = dst then (match q.body with
        | .atomicReply h n bs => ⟨src, dst, q.tag, q.ctx, .again h n bs.length false⟩
        | .farReply h n bs => ⟨src, dst, q.tag, q.ctx, .again h n bs.length true⟩
        | _ => q) else q)) ∧ t.pmem = s.pmem ∧ t.eva.inbox = s.eva.inbox ++ [r] ∧
      fld r.d0 56 8 = 6 ∧ fld r.d0 48 8 = 1)

/-- R206 to R211, R224, R245 to R251, R357: accesses served by another agent. -/
def Obligations.accesses_served : Prop :=
  Claims.remote_served ∧ Claims.store_answers ∧ Claims.home_slice

/-! Events of the coherence fabric. -/

/-- A line has a way of its slice, or one of the ways that a colour may take is free in its set (R213, R225; log 22). -/
def Claims.hasRoom (s : State) (c : Option Nat) (l : Nat) : Prop :=
  let sl := sliceOf s (bucketOf (l * 128))
  (lineOf s l).way.isSome = true ∨ ∃ k, k < 16 ∧ (wayMask s sl c).getLsbD k = true ∧ ∀ e ∈ s.coh.lines, e.2.way = some k →
    sliceOf s (bucketOf (e.1 * 128)) ≠ sl ∨ Config.dscSet e.1 % 1024 ≠ Config.dscSet l % 1024

/-- R217, R223, R224: a slice that owns a bucket no longer answers a request with a redirect, which the tile takes unless it is stale; one
that is about to move it holds the request. No token moves. -/
def Claims.requests_turned_away : Prop :=
  ∀ (s : State) (line : Line) (r : BitVec 11) (w : Bool),
    let l := line.toNat
    let n := r.toNat
    let b := bucketOf (l * 128)
    let te := tileOfReq n
    let own := (SMap.get? (tileOf s te).map b).getD (b % 64, 0)
    let now := (SMap.get? s.coh.map b).getD (b % 64, 0)
    let d := (now.2 + 65536 - own.2) % 65536
    let x := lineOf s l
    let sends := fun (ev : Instr) => (ev = .tokenRequest line r w ∧ n < 1280 ∧ satisfied x n w = false) ∨
      (ev = .persistentRequest line r w ∧ 64 < retriesOf x n ∧ (x.waiting.any fun y => y.1 == n) = false ∧ x.active.map (·.1) ≠ some n)
    ∀ ev, sends ev →
      (own.1 ≠ now.1 → ∃ t, exec ev s = .next t ∧ t.coh = s.coh ∧ t.hostOut = s.hostOut ∧ (∀ k, k ≠ te → tileOf t k = tileOf s k) ∧
        (1 ≤ d → d ≤ 32767 → SMap.get? (tileOf t te).map b = some now) ∧ (d = 0 ∨ 32767 < d → tileOf t te = tileOf s te)) ∧
      (own.1 = now.1 → (∃ c, s.coh.move = some (b, c)) → exec ev s = .next s)

/-- R218 to R222, R226: an accepted read request gets one token, with the data, from the holder of the owner token, which keeps its last, the
home slice among the holders; a write request all that the holders the directory names hold, and the home's where the halves permit it. The
home slice gives the line a way, and asks the host for halves it lacks. -/
def Claims.tokens_move : Prop :=
  ∀ (s : State) (line : Line) (r : BitVec 11) (w : Bool),
    let l := line.toNat
    let n := r.toNat
    let x := lineOf s l
    let far := fun (h : Nat × Nat) => h.1 != n && x.dir.names h.1
    let c := colourOfReq s n
    let dev := isDevMem s (l * 128)
    let ask := fun (hi : Bool) => if w then (if dev then [HostMsg.biSnpInv line hi] else [HostMsg.rdOwn line hi])
      else (if dev then [HostMsg.biSnpData line hi] else [HostMsg.rdShared line hi])
    let fetch := fun (hi : Bool) => if dev then [HostMsg.biSnpData line hi] else []
    let lacks := fun (hi : Bool) => match x.half hi with
      | .m | .e => []
      | .i => (if w then fetch hi else []) ++ ask hi
      | _ => if w then ask hi else []
    n < 1280 → turnedAway s l n = none →
      (satisfied x n w = true → ∃ t, exec (.tokenRequest line r w) s = .next t ∧
        (lineOf t l).hold = x.hold ∧ (lineOf t l).flight = x.flight ∧ retriesOf (lineOf t l) n = 0) ∧
      (satisfied x n w = false → (x.ownerHome = true → someHalf x = true → Claims.hasRoom s c l) →
       ∃ t, exec (.tokenRequest line r w) s = .next t ∧
        let y := lineOf t l
        retriesOf y n = retriesOf x n + 1 ∧ y.active = x.active ∧ t.pmem = s.pmem ∧
        (∀ a aw, x.active = some (a, aw) → a ≠ n → y.hold = x.hold ∧ y.flight = x.flight ∧ y.owner = x.owner) ∧
        (∀ aw, x.active = some (n, aw) → n % 5 = 0 → (aw = true ∨ grantsAll x = true → y.hold = [(n, 2048)] ∧ y.owner = some n) ∧
          (aw = false → grantsAll x = false → y.hold = [(n, 2047)] ∧ y.owner = none)) ∧
        (x.active = none → w = false → ∀ o, x.owner = some o → o ≠ n → 2 ≤ x.plain o → x.dir.names o = true →
          y.flight = x.flight ++ [⟨n, 1, false, false, (x.has o false, x.has o true)⟩] ∧ y.plain o = x.plain o - 1 ∧ y.owner = some o ∧
            y.dir = x.dir.add n ∧ t.hostOut = s.hostOut) ∧
        (x.active = none → w = false → x.ownerHome = true → 2 ≤ x.atHome → someHalf x = true →
          y.flight = x.flight ++ [⟨n, 1, false, false, (x.h0 != .i, x.h1 != .i)⟩] ∧ y.hold = x.hold ∧ y.owner = none ∧ y.dir = x.dir.add n) ∧
        (x.active = none → w = false → (∀ o, x.owner = some o → o = n ∨ x.plain o < 2 ∨ x.dir.names o = false) →
          (x.owner = none → x.ownerHome = false ∨ x.atHome < 2 ∨ someHalf x = false) → y.flight = x.flight ∧ y.hold = x.hold) ∧
        (x.active = none → w = true → y.hold = x.hold.filter (fun h => !far h) ∧ y.dir = x.dir.add n ∧
          y.flight = x.flight ++ ((x.hold.filter far).map fun h =>
              let o := x.owner == some h.1
              ⟨n, h.2, o, o && x.dirty, (o && x.has h.1 false, o && x.has h.1 true)⟩) ++
            (if grantsAll x && x.atHome != 0 then
              [⟨n, x.atHome, x.ownerHome, false, if x.ownerHome then (x.h0 != .i, x.h1 != .i) else (false, false)⟩] else []) ∧
          y.owner = if (x.hold.filter far).any (fun h => x.owner == some h.1) then none else x.owner) ∧
        (x.active = none → x.ownerHome = true → x.asked = [] → y.way = (if someHalf x then y.way else x.way) ∧
          (someHalf x = true → ∃ k, y.way = some k ∧ (x.way = none → (wayMask s (sliceOf s (bucketOf (l * 128))) c).getLsbD k = true)) ∧
          t.hostOut = s.hostOut ++ if w = false ∧ someHalf x = true then [] else lacks false ++ lacks true))

/-- R218, R220, R221: what is in flight reaches its requester with the data, or goes on to another whose persistent request is active. -/
def Claims.tokens_arrive : Prop :=
  ∀ (s : State) (line : Line) (r : BitVec 11),
    let l := line.toNat
    let n := r.toNat
    let x := lineOf s l
    let got := x.flight.filter fun m => m.dest == n
    got ≠ [] → ∃ t, exec (.tokenResponse line r) s = .next t ∧ t.pmem = s.pmem ∧
      let y := lineOf t l
      (x.active = none ∨ (∃ w, x.active = some (n, w)) →
        y.plain n = x.plain n + (got.map (·.plain)).sum ∧ y.flight = x.flight.filter (fun m => m.dest != n) ∧
        (∀ o, o ≠ n → y.plain o = x.plain o) ∧ y.owner = (if got.any (·.owner) then some n else x.owner) ∧
        y.dirty = (x.dirty || got.any (·.dirty)) ∧
        ∀ hi, y.has n hi = (x.has n hi || got.any fun m => if hi then m.data.2 else m.data.1)) ∧
      (∀ a w, x.active = some (a, w) → a ≠ n →
        y = { x with flight := x.flight.map fun m => if m.dest = n then { m with dest := a } else m })

/-- R221: after 64 retries a requester asks persistently; the requests of a line are active one at a time, the lowest number above the last
first; the active one collects the tokens, performs its access when it holds what it needs, and ends, with the tokens. -/
def Claims.persistent_requests : Prop :=
  ∀ (s : State) (line : Line) (r : BitVec 11) (w : Bool),
    let l := line.toNat
    let n := r.toNat
    let x := lineOf s l
    let collected := fun (y : LineSt) (m : Nat) (all : Bool) =>
      (m % 5 = 0 → y.hold = [(m, if all then 2048 else 2047)] ∧ y.owner = if all then some m else none) ∧
      (m % 5 ≠ 0 → y.hold = [] ∧ ∃ p, y.flight = [p] ∧ p.dest = m ∧ p.plain = (if all then 2048 else 2047) ∧ p.owner = all)
    (retriesOf x n ≤ 64 → exec (.persistentRequest line r w) s = .next s) ∧
    (64 < retriesOf x n → (x.waiting.any fun y => y.1 == n) = false → x.active.map (·.1) ≠ some n → turnedAway s l n = none →
      ∃ t, exec (.persistentRequest line r w) s = .next t ∧
        let y := lineOf t l
        (x.active.isSome → y.waiting = x.waiting ++ [(n, w)] ∧ y.active = x.active ∧ y.hold = x.hold) ∧
        (x.active = none → x.waiting = [] → y.active = some (n, w) ∧ y.waiting = [] ∧ collected y n (w || grantsAll x))) ∧
    (∀ a, x.active = some a →
      (satisfied x a.1 a.2 = false → exec (.persistentDeactivation line) s = .next s) ∧
      (satisfied x a.1 a.2 = true → s.coh.move = none → ∃ t, exec (.persistentDeactivation line) s = .next t ∧
        let y := lineOf t l
        y.lastReq = a.1 ∧ y.active = nextWaiting x.waiting a.1 ∧ retriesOf y a.1 = 0 ∧
        (a.2 = true → y.h0 = .m ∧ y.h1 = .m) ∧
        (nextWaiting x.waiting a.1 = none → y.hold = x.hold ∧ y.owner = x.owner ∧ y.dirty = (x.dirty || a.2) ∧
          ∀ hi, y.has a.1 hi = (x.has a.1 hi || x.half hi != .i)) ∧
        ∀ b, nextWaiting x.waiting a.1 = some b → (∀ c ∈ y.waiting, c.1 ≠ b.1) ∧ collected y b.1 (b.2 || a.2 || grantsAll x)) ∧
      (∀ b c, satisfied x a.1 a.2 = true → s.coh.move = some (b, c) → bucketBusy (endActive s l a.1 a.2) b = false →
        ∃ t, exec (.persistentDeactivation line) s = .next t ∧ t.coh.move = none ∧
          SMap.get? t.coh.map b = some (c, (s.coh.gen + 1) % 65536))) ∧
    (∀ ws b, nextWaiting ws n = some b → b ∈ ws ∧ (n < b.1 → ∀ c ∈ ws, n < c.1 → b.1 ≤ c.1) ∧
      (b.1 ≤ n → ∀ c ∈ ws, c.1 ≤ n ∧ b.1 ≤ c.1))

/-- R217, R223: at the end of each window of 65,536 ck the rebalancer moves the busiest free bucket of a slice that gets more than five
fourths of its share to the least busy slice, under a new generation; the move waits for a persistent request active on the bucket. A
tile takes only an entry newer than its own. -/
def Claims.buckets_move : Prop :=
  (∀ s : State,
    let e := elapseTo s (s.coh.winFrom + 65536)
    let total := (e.coh.counts.map (·.2)).sum
    let cnt := fun (b : Nat) => (SMap.get? e.coh.counts b).getD 0
    let ends := fun (t : State) => t.coh.counts = [] ∧ t.coh.winFrom = e.coh.winFrom + 65536 ∧ t.pmem = e.pmem
    ((∀ j, j < 64 → 256 * sliceCount e j ≤ 5 * total) ∨ e.coh.move.isSome →
      ∃ t, exec .rebalanceWindowEnd s = .next t ∧ ends t ∧ t.coh.map = e.coh.map ∧ t.coh.move = e.coh.move) ∧
    (∀ hi lo b, hi < 64 → lo < 64 → 5 * total < 256 * sliceCount e hi → e.coh.move = none →
      (∀ j, j < 64 → j ≠ hi → sliceCount e j < sliceCount e hi) → (∀ j, j < 64 → j ≠ lo → sliceCount e lo < sliceCount e j) →
      b ∈ e.coh.counts.map (·.1) → sliceOf e b = hi → bucketReserved e b = false →
      (∀ b' ∈ e.coh.counts.map (·.1), b' ≠ b → sliceOf e b' = hi → bucketReserved e b' = false → cnt b' < cnt b) →
      ∃ t, exec .rebalanceWindowEnd s = .next t ∧ ends t ∧
        (bucketBusy e b = true → t.coh.map = e.coh.map ∧ t.coh.move = some (b, lo)) ∧
        (bucketBusy e b = false → SMap.get? t.coh.map b = some (lo, (e.coh.gen + 1) % 65536) ∧ t.coh.gen = (e.coh.gen + 1) % 65536 ∧
          t.coh.move = none ∧ ∀ b', b' ≠ b → SMap.get? t.coh.map b' = SMap.get? e.coh.map b'))) ∧
  (∀ (s : State) (te : TileId) (b : BitVec 12),
    let own := (SMap.get? (tileOf s te).map b.toNat).getD (b.toNat % 64, 0)
    let new := (SMap.get? s.coh.map b.toNat).getD (b.toNat % 64, 0)
    let d := (new.2 + 65536 - own.2) % 65536
    ∃ t, exec (.indirectionUpdate te b) s = .next t ∧ t.coh = s.coh ∧
      (1 ≤ d → d ≤ 32767 → SMap.get? (tileOf t te).map b.toNat = some new) ∧ (d = 0 ∨ 32767 < d → tileOf t te = tileOf s te))

/-- R226 to R230, R245, R271: halves of a line and the host, while no persistent request of the line is active and the link to the host is up (R423,
R430). Each answer names the state of the half it changes, where the data go, whether they are poisoned (log 54 for what arrives), and that
the tokens come home before the host gets what it wants. -/
def Claims.halves_move : Prop :=
  ∀ (s : State) (line : Line) (half : Bool) (v : Vec),
    let l := line.toNat
    let st := fun (t : State) (b : Bool) => (lineOf t l).half b
    let dev := isDevMem s (l * 128)
    let chunk := 4 * l + 2 * half.toNat
    let goes := fun (ev : Instr) (h : HalfSt) (m : Mem) =>
      ∃ t, exec ev s = .next t ∧ st t half = h ∧ st t (!half) = st s (!half) ∧ t.pmem = m ∧ t.arr = s.arr
    let home := fun (ev : Instr) (out : List HostMsg) =>
      ∀ t, exec ev s = .next t → (lineOf t l).hold = [] ∧ (lineOf t l).owner = none ∧ t.hostOut = s.hostOut ++ out
    let put := Mem.write s.pmem (l * 128 + half.toNat * 64) (leBytes 64 v.toNat)
    let arrives := fun (ev : Instr) => ∀ t, exec ev s = .next t → ∀ c, c ∈ t.poison ↔
      if c = chunk ∨ c = chunk + 1 then Config.hostBad s.fresh = true else c ∈ s.poison
    let bad := fun (b : Bool) => s.poison.contains (4 * l + 2 * b.toNat) || s.poison.contains (4 * l + 2 * b.toNat + 1)
    let back := fun (b : Bool) => if st s b = .m then [HostMsg.writeBack line b (bad b)] else []
    let room := Claims.hasRoom s (colourOfLine s l) l
    hostUp s = true → (lineOf s l).active = none →
    (dev = false →
      goes (.hostSnpData line half) (if st s half = .m ∨ st s half = .e then .s else st s half) s.pmem ∧ home (.hostSnpData line half) (back half) ∧
      goes (.hostSnpInv line half) .i s.pmem ∧ home (.hostSnpInv line half) (back half) ∧
      (st s half = .i → room → goes (.rdownComplete line half (some v)) .e put ∧ goes (.rdownComplete line half none) .e s.pmem ∧
        goes (.rdsharedComplete line half false (some v)) .s put ∧ goes (.rdsharedComplete line half true (some v)) .e put ∧
        arrives (.rdownComplete line half (some v)) ∧ arrives (.rdsharedComplete line half false (some v)) ∧
        (∀ t, exec (.rdownComplete line half none) s = .next t → (lineOf t l).way.isSome = true ∧
          ∀ c, c ∈ t.poison ↔ c ∈ s.poison ∨ ((c = chunk ∨ c = chunk + 1) ∧ bad half = true))) ∧
      (st s half = .s → goes (.rdownComplete line half (some v)) .e s.pmem) ∧
      (∃ t, exec (.dscEviction line) s = .next t ∧ st t false = .i ∧ st t true = .i ∧ t.pmem = s.pmem ∧ (lineOf t l).hold = [] ∧
        (lineOf t l).way = none ∧ t.hostOut = s.hostOut ++ back false ++ back true)) ∧
    (dev = true →
      (st s half ≠ .i → goes (.hostMemrd line half) (if st s half = .m ∨ st s half = .o then .o else .s) s.pmem ∧
        (∀ t, exec (.hostMemrd line half) s = .next t → t.hostOut = s.hostOut ++ [.data line half (bad half)] ∧ t.poison = s.poison ∧
          (lineOf t l).hold = if (lineOf s l).atHome = 0 then [] else (lineOf s l).hold) ∧
        goes (.hostReadOwn line half) .i s.pmem ∧ home (.hostReadOwn line half) [.data line half (bad half)]) ∧
      (st s half = .i → room → goes (.hostWriteback line half true v) .m put ∧ goes (.hostWriteback line half false v) .e put ∧
        arrives (.hostWriteback line half true v) ∧ goes (.bisnpdataComplete line half (some v)) .s put) ∧
      (st s half = .o ∨ st s half = .s → goes (.bisnpinvComplete line half) .m s.pmem) ∧
      (∃ t, exec (.dscEviction line) s = .next t ∧ t.pmem = s.pmem ∧ t.hostOut = s.hostOut ∧ (lineOf t l).way = none ∧
        ∀ b, st t b = if (lineOf s l).anyDirty then st s b else match st s b with | .m => .e | .o => .s | h => h)) ∧
    (∀ (pa : PAddr) (op : AmoOp) (u : Word), isDevMem s pa.toNat = true → pa.toNat % 8 = 0 → poisonIn s pa.toNat 8 = none →
      Claims.hasRoom s none (pa.toNat / 128) →
      let old : Word := .ofNat 64 (ofLe (Mem.read s.pmem pa.toNat 8))
      ∃ t ms, exec (.hostAtomic pa op u) s = .next t ∧ t.hostOut = s.hostOut ++ ms ++ [.atomic old] ∧
        t.pmem = Mem.write s.pmem pa.toNat (leBytes 8 (amoVal op old u).toNat) ∧ (lineOf t (pa.toNat / 128)).hold = [] ∧
        (lineOf t (pa.toNat / 128)).half (pa.toNat / 64 % 2 == 1) = .m)

/-- R423, R430: while the link to the host is down, no access of the host and no answer of it reaches the machine. -/
def Claims.host_shut_out : Prop :=
  ∀ (s : State) (line : Line) (half b : Bool) (v : Vec) (o : Option Vec) (pa : PAddr) (op : AmoOp) (u : Word),
    hostUp s = false → ∀ ev ∈ [Instr.hostSnpData line half, .hostSnpInv line half, .rdownComplete line half o, .rdsharedComplete line half b o,
      .hostMemrd line half, .hostReadOwn line half, .hostWriteback line half b v, .bisnpinvComplete line half, .bisnpdataComplete line half o,
      .hostAtomic pa op u], exec ev s = .next s

/-- R230, R356, R392: poison. The 32-byte chunk that holds the address is poisoned and a record of KIND 5 names it; an
uncorrectable error of device memory does the same for each chunk it touches. -/
def Claims.poison_detected : Prop :=
  ∀ (s : State) (agent : BitVec 16) (pa : PAddr) (line : Line) (bad : BitVec 4),
    (∃ t r, exec (.poisonDetection agent pa) s = .next t ∧ (∀ c, c ∈ t.poison ↔ c = pa.toNat / 32 ∨ c ∈ s.poison) ∧ t.pmem = s.pmem ∧
      t.eva.inbox = s.eva.inbox ++ [r] ∧ fld r.d0 56 8 = 5 ∧ fld r.d0 0 16 = agent.toNat ∧ r.d1.toNat = pa.toNat / 32 * 32) ∧
    (isDevMem s (line.toNat * 128) = true → bad ≠ 0 →
      ∃ t r, exec (.lpddr6ReadReturn line bad) s = .next t ∧ t.eva.inbox = s.eva.inbox ++ [r] ∧ fld r.d0 56 8 = 5 ∧
        ∀ c, c ∈ t.poison ↔ (c / 4 = line.toNat ∧ bit bad (c % 4) = true) ∨ c ∈ s.poison) ∧
    (bad = 0 → exec (.lpddr6ReadReturn line bad) s = .next s)

/-- R217 to R230, R245, R271, R392, R423: the coherence fabric. -/
def Obligations.coherence : Prop :=
  Claims.requests_turned_away ∧ Claims.tokens_move ∧ Claims.tokens_arrive ∧ Claims.persistent_requests ∧ Claims.buckets_move ∧
  Claims.halves_move ∧ Claims.host_shut_out ∧ Claims.poison_detected

/-! Events of the engines. -/

/-- R239, R242, R278, R279, R281, R286, R288, R314, R316, R318, R353: data that an engine moves, once the issuer's earlier stores
have been answered and while no switch has stopped the engine. A chunk of a command lands as a whole: its source bytes are read, written
where they belong and counted at the barrier; it lands once. A plain COPY writes the source bytes as they stood before its own landings
overwrote them, also where its page has been moved since (log 20). What takes regions of another owner takes them all first, and lands after
their fills (R212; log 52). A CONV converts 32 elements at a time; poison fails it with nothing written. -/
def Claims.data_land : Prop :=
  ∀ (s : State) (te : TileId) (i c : Nat) (m : Cmd),
    let comp := dwordOf m.blk 5
    ((tileOf s te).mve[i]? = some m → c ∉ m.landed → cmdGoes s te m = false → exec (.chunkLanding te i c) s = .next s) ∧
    (cmdGoes s te m = true → (tileOf s te).mve[i]? = some m → c < chunkCount m → c ∉ m.landed →
      (c % (max (receivers m).length 1) = 0 ∨ c - 1 ∈ m.landed) →
      (∀ ps b xs s1 m2 s2, chunkAt m c = some (ps, b) → readParts s te m ps = .ok (xs, s1) →
        (compDsp comp = true → ∀ x ∈ xs, ∀ y ∈ x, y.2 = false) → engTake s1 m (ps.map fun p => (dstBase m b, p.dd, p.n)) = .ok () →
        writeParts s1 te m (dstBase m b) (ps.zip xs) = .ok (m2, s2) →
        ∃ t x, exec (.chunkLanding te i c) s = .next t ∧ (tileOf t te).mve[i]? = some x ∧ (∀ j, j ∈ x.landed ↔ j = c ∨ j ∈ m.landed) ∧
          x.bytes = m.bytes + (ps.map (·.n)).sum ∧ x.fail = none ∧ t.pmem = s2.pmem ∧ t.arr = s2.arr ∧
          (compBe comp = false → t.core.bars = s2.core.bars ∧ t.core.barIn = s2.core.barIn) ∧
          (compBe comp = true → coreOf t (barOf m b) =
            coreOf (barAdd s2 (barOf m b) (compBar comp) 0 (-((ps.map (·.n)).sum : Int))) (barOf m b))) ∧
      (∀ ps b xs s1 rs, chunkAt m c = some (ps, b) → readParts s te m ps = .ok (xs, s1) →
        engTake s1 m (ps.map fun p => (dstBase m b, p.dd, p.n)) = .error (.claim rs) →
        ∃ t, exec (.chunkLanding te i c) s = .next t ∧ (tileOf t te).mve[i]? = some m ∧ t.pmem = s.pmem ∧ ∀ r ∈ rs, stampOf t r = m.ctx.toNat) ∧
      (∀ (lo : Int) n pa pb, m.kind = .copy → compSsp comp = false → compDsp comp = false → chunkAt m c = some ([⟨lo, lo, n⟩], 0) → 0 < n →
        engXlat s te m (dwordOf m.blk 0 + .ofInt 64 lo) n .r = .ok [(pa, n)] →
        engXlat s te m (dwordOf m.blk 1 + .ofInt 64 lo) n .w = .ok [(pb, n)] →
        ∃ t, exec (.chunkLanding te i c) s = .next t ∧ t.arr = s.arr ∧
          t.pmem = Mem.write s.pmem pb ((upto n).map fun j =>
            match SMap.get? m.old.va (((dwordOf m.blk 0 + .ofInt 64 lo).toNat + j) % 2 ^ 64) with
            | some y => y.1
            | none => kept m.old.mem (pa + j) (Mem.get s.pmem (pa + j))) ∧
          ∀ x, (tileOf t te).mve[i]? = some x → ∀ j, j < n →
            SMap.get? x.old.mem (pb + j) = some (kept m.old.mem (pb + j) (Mem.get s.pmem (pb + j))))) ∧
    ((tileOf s te).mve[i]? = some m → c ∈ m.landed → exec (.chunkLanding te i c) s = .next s) ∧
    (cmdGoes s te m = true → (tileOf s te).cve[i]? = some m → m.allLanded = false →
      let aux := dwordOf m.blk 3
      let n := min 32 (fld (dwordOf m.blk 2) 0 32 - m.next)
      let bits := codeBits (auxSfmt aux)
      let at_ := m.next * bits / 8
      codeMx (auxSfmt aux) = false →
      ∀ bs s1, engRead s te m (dwordOf m.blk 0) at_ (compSsp comp) (n * bits / 8) = .ok (bs, s1) →
        (bs.any (·.2) = true → ∃ t x a, exec (.cveBlockConvert te i) s = .next t ∧ (tileOf t te).cve[i]? = some x ∧
          x.fail = some ⟨0x06, a, 0⟩ ∧ x.next = m.next ∧ t.pmem = s.pmem ∧ t.arr = s.arr) ∧
        (∀ k m3 s3, bs.any (·.2) = false →
          let out := convOut m m.next ((elemsFrom bits n (ofLe (bs.map (·.1)))).map (elemVal (auxSfmt aux)))
          engTake s1 m (out.map fun o => (dwordOf m.blk (if o.1 then 7 else 1), (o.2.1 : Int), o.2.2.length)) = .ok () →
          convWrite s1 te m out 0 = .ok (k, m3, s3) →
          ∃ t x, exec (.cveBlockConvert te i) s = .next t ∧ (tileOf t te).cve[i]? = some x ∧ x.next = m.next + n ∧ x.bytes = m.bytes + k ∧
            x.fail = none ∧ t.pmem = s3.pmem ∧ t.arr = s3.arr))

/-- R178, R281 to R287, R356: reports. A command whose bytes have all landed leaves its slot with its stream word and its
completion entry; without a credit, or a place in the queue, it waits. A failed one reports likewise with its code, and
leaves a record, and event 0x15 where it names no handler. -/
def Claims.commands_report : Prop :=
  ∀ (s : State) (te : TileId) (cve : Bool) (i : Nat) (m : Cmd), cmdAt s te cve i = some m → isDark s te = false → (tileOf s te).engStop = none →
    let comp := dwordOf m.blk 5
    let k := coreOf s m.issuer
    let list := fun (t : State) => if cve then (tileOf t te).cve else (tileOf t te).mve
    let entry := fun (err : BitVec 8) => (⟨m.owner, handlerAddr m, err, .ofNat 8 (engNum m), m.tid⟩ : Completion)
    (m.moving = true → m.allLanded = true →
      (compSe comp = false ∨ m.streamed = true →
        (handlerAddr m ≠ 0 → m.live = true → k.compQ.length < 16 →
          ∃ t, exec (.commandCompletion te cve i) s = .next t ∧ list t = (list s).eraseIdx i ∧ (coreOf t m.issuer).compQ = k.compQ ++ [entry 0]) ∧
        (handlerAddr m = 0 ∨ m.live = false →
          ∃ t, exec (.commandCompletion te cve i) s = .next t ∧ list t = (list s).eraseIdx i ∧ (coreOf t m.issuer).compQ = k.compQ) ∧
        (handlerAddr m ≠ 0 → m.live = true → 16 ≤ k.compQ.length →
          ∃ t, exec (.commandCompletion te cve i) s = .next t ∧ list t = list s ∧ (coreOf t m.issuer).compQ = k.compQ)) ∧
      (compSe comp = true → m.streamed = false →
        (takeCredit k (compStrCore comp) (compEntry comp) = none → exec (.commandCompletion te cve i) s = .next s) ∧
        (∀ k', takeCredit k (compStrCore comp) (compEntry comp) = some k' → handlerAddr m = 0 → coreShut s m.issuer (compStrCore comp) = false →
          ∃ t p hdr, exec (.commandCompletion te cve i) s = .next t ∧ list t = (list s).eraseIdx i ∧ (coreOf t m.issuer).credits = k'.credits ∧
            t.net = s.net ++ [p] ∧ p.dst = compStrCore comp ∧ p.body = .stream hdr (streamWord m 0 0)))) ∧
    (∀ f, m.fail = some f → compSe comp = false ∨ m.streamed = true → m.live = true →
      (handlerAddr m = 0 → k.eventQ.length < 32 →
        ∃ t r e, exec (.commandFailure te cve i) s = .next t ∧ list t = (list s).eraseIdx i ∧ t.eva.inbox = s.eva.inbox ++ [r] ∧
          fld r.d0 56 8 = 1 ∧ fld r.d0 48 8 = f.code.toNat ∧ r.d1 = f.addr ∧ (coreOf t m.issuer).eventQ = k.eventQ ++ [⟨0x15, e⟩] ∧
          fld e 48 16 = m.owner.toNat ∧ fld e 24 8 = f.code.toNat ∧ fld e 0 16 = m.tid.toNat) ∧
      (handlerAddr m ≠ 0 → k.compQ.length < 16 →
        ∃ t r, exec (.commandFailure te cve i) s = .next t ∧ list t = (list s).eraseIdx i ∧ t.eva.inbox = s.eva.inbox ++ [r] ∧
          fld r.d0 48 8 = f.code.toNat ∧ (coreOf t m.issuer).compQ = k.compQ ++ [entry f.code] ∧ (coreOf t m.issuer).eventQ = k.eventQ))

/-- R72, R295 to R302, R305 to R308, R353: the matrix engine. A command that waits alone for a grant starts at a step boundary of
the governor, of which none comes twice; each slice adds its products to the blocks; after the last slice, or at a stop judged at the
boundary before the first slice, at that after each, and while an MMAS waits there for its bytes, the blocks are stored in C and a write-back follows, which counts bytes at the
barrier or records the stop in MPROG. -/
def Claims.matrix_runs : Prop :=
  ∀ (s : State) (te : TileId), isDark s te = false →
    let e := mteOf s te
    (∀ sg : BitVec 4,
      let u := elapse s (toBoundary s sg.toNat)
      let f := mteOf u te
      (∃ t, exec (.sgvStep sg) s = .next t ∧ SMap.get? t.sgvAt sg.toNat = some (t.ck + 1) ∧
        t.ck = if s.ck % 4 = 0 ∧ SMap.get? s.sgvAt sg.toNat = some (s.ck + 1) then s.ck + 4 else (s.ck + 3) / 4 * 4) ∧
      (∀ j m q, j < 16 → te = sgTile sg.toNat j → f.queue = m :: q → m.kind = .mma → m.noGrant = false → f.run = none → f.filler ≤ u.ck →
        f.rect = none → f.granted = false → engStopped u te = false → m.acceptCk < u.ck →
        (∀ i, i < 16 → i ≠ j → waitsSince u (sgTile sg.toNat i) = none) →
        1 ≤ fld (rampOf u sg.toNat).1
          (4 * min (((upto 16).map (sgTile sg.toNat)).filter fun x => mteRunning u.ck (mteOf u x)).length 15) 4 →
        ∃ t, exec (.sgvStep sg) s = .next t ∧ (mteOf t te).queue = q ∧
          (mteOf t te).run = some ⟨m, [(te, loadC u m.ctx te m.c)], ctlStart m.ctl,
            max u.ck (fillEnd u (tsKey te (vRow0 m.c * 512)) 32768) + loadTime u te m, none⟩)) ∧
    (∀ r, e.run = some r →
      let m := r.cmd
      let acc := List.zipWith (fun (x : TileId × List (BitVec 32)) (p : TileId × TileId × TileId) =>
        (x.1, sliceBlock (cmdInt m) x.2 (aRows s m p.2.1 r.k) (bRows s r p.2.2 r.k))) r.acc (cmdTiles te m)
      let ended := fun (ev : Instr) (stop : Option (Nat × BitVec 8 × Nat)) =>
        ∃ t a, exec ev s = .next t ∧ (mteOf t te).wb = e.wb ++ [⟨m, r.acc.map (·.1), stop, a, e.stopReq.isSome⟩]
      let first := if r.k = ctlStart m.ctl then stopCause s te r.first else none
      let fed := operandsFilled s te m r.k = true
      (darkTile s te m = none → waitStop s te r = none → (m.kind = .mmas ∧ r.stream = none) ∨ operandsFilled s te m r.k = false →
        exec (.mteSliceEnd te) s = .next s) ∧
      (darkTile s te m = none → m.kind = .mmas → r.stream = none → first = none → (tileOf s te).engStop.isSome →
        ended (.mteSliceEnd te) (some (3, 0, r.k)) ∧
          (answered s m.issuer m.by_ m.after = true → ended (.mmasStreamArrival te) (some (3, 0, r.k)))) ∧
      (darkTile s te m = none → (m.kind = .mmas → r.stream.isSome) → r.acc.map (·.1) = (cmdTiles te m).map (·.1) →
        (∀ c, first = some c → ended (.mteSliceEnd te) (some (c, 0, r.k))) ∧
        (first = none → fed → r.k + 1 < ctlN m.ctl → stopCause s te s.ck = none →
          ∃ t, exec (.mteSliceEnd te) s = .next t ∧ (mteOf t te).run = some ⟨m, acc, r.k + 1, r.first, none⟩ ∧ t.arr = s.arr) ∧
        (first = none → fed → ctlN m.ctl ≤ r.k + 1 → ended (.mteSliceEnd te) none ∧ ∀ t, exec (.mteSliceEnd te) s = .next t → m.kind ≠ .mmar →
          (e.queue = [] → (mteOf t te).run = none ∧ (mteOf t te).filler = s.ck + 16) ∧
          (∀ m' q, e.queue = m' :: q → m'.kind = .mma → engStopped s te = false →
            (mteOf t te).queue = q ∧ (mteOf t te).run.map (·.cmd) = some m')) ∧
        (∀ c, first = none → fed → r.k + 1 < ctlN m.ctl → stopCause s te s.ck = some c → ended (.mteSliceEnd te) (some (c, 0, r.k + 1)))) ∧
      (∀ blk, darkTile s te m = none → first = none → fed → m.kind = .mma → acc = [(te, blk)] → ctlN m.ctl ≤ r.k + 1 → vCol0 m.c + 256 ≤ 512 →
        ∃ t, exec (.mteSliceEnd te) s = .next t ∧ ∀ i j, i < 64 → j < 256 →
          byteAt t true (tsKey te ((vRow0 m.c + i) * 512 + vCol0 m.c) + j) = .ofNat 8 ((blk[64 * i + j / 4]?.getD 0).toNat / 256 ^ (j % 4))) ∧
      (∀ x, darkTile s te m = some x → ended (.mteFailure te 8) (some (4, 8, r.k))) ∧
      (∀ bs s1, m.kind = .mmas → r.stream = none → waitStop s te r = none → answered s m.issuer m.by_ m.after = true → streamRead s te m.ctx (streamPieces m.b r.k) = .ok (bs, [], s1) →
        ∃ t, exec (.mmasStreamArrival te) s = .next t ∧ (mteOf t te).run = some { r with stream := some bs })) ∧
    (∀ w rest, e.wb = w :: rest → wbFilled s w = false → exec (.mteWritebackComplete te) s = .next s) ∧
    (∀ w rest, e.wb = w :: rest → wbFilled s w = true →
      (w.stop = none → ctlBe w.cmd.ctl = false → ∃ t, exec (.mteWritebackComplete te) s = .next t ∧ (mteOf t te).wb = rest ∧ t.others = s.others ∧ t.core = s.core) ∧
      (∀ u, w.stop = none → ctlBe w.cmd.ctl = true → w.tiles = [u] →
        ∃ t, exec (.mteWritebackComplete te) s = .next t ∧ (mteOf t te).wb = rest ∧
          t = barAdd (modMte s te fun e => { e with wb := rest }) w.cmd.issuer (ctlBar w.cmd.ctl) 0 (-16384)) ∧
      (∀ cause err k, w.stop = some (cause, err, k) →
        ∃ t, exec (.mteWritebackComplete te) s = .next t ∧ (mteOf t te).wb = rest ∧
          (coreOf t w.cmd.issuer).mprog = mprogWord w.cmd cause err k ∧ (coreOf t w.cmd.issuer).mprogc = w.cmd.ctl ∧
          (cause = 2 ∨ cause = 3 → (coreOf t w.cmd.issuer).eventQ = (coreOf s w.cmd.issuer).eventQ ∧ t.eva = s.eva) ∧
          (cause = 1 → (coreOf s w.cmd.issuer).eventQ.length < 32 →
            (coreOf t w.cmd.issuer).eventQ = (coreOf s w.cmd.issuer).eventQ ++ [⟨0x14, w.addr⟩] ∧ t.eva = s.eva) ∧
          (cause = 4 → (coreOf s w.cmd.issuer).eventQ.length < 32 →
            (coreOf t w.cmd.issuer).eventQ = (coreOf s w.cmd.issuer).eventQ ++ [⟨0x14, 0⟩] ∧
            ∃ r, t.eva.inbox = s.eva.inbox ++ [r] ∧ fld r.d0 48 8 = err.toNat ∧ r.d1 = w.addr))) ∧
    (∀ q, stopCause s te q = (if e.stopReq.any (fun x => decide (x < q)) then some 2
      else if (tileOf s te).engStop.any (fun x => decide (x ≤ q)) then some 3 else none)) ∧
    (∀ m q, e.run = none → e.queue = m :: q → m.kind = .mzero → e.filler ≤ s.ck → engStopped s te = false → e.granted = false →
      vCol0 m.c + vCols m.c ≤ 512 → rowsFilled s te (vRow0 m.c) (vRows m.c) = true →
      (viewForeign s te m.ctx m.c ≠ [] → ∃ t, exec (.mzeroComplete te) s = .next t ∧ (mteOf t te).queue = m :: q ∧
        ∀ r ∈ viewForeign s te m.ctx m.c, stampOf t r = m.ctx.toNat) ∧
      (viewForeign s te m.ctx m.c = [] → ∃ t, exec (.mzeroComplete te) s = .next t ∧ (mteOf t te).queue = q ∧
        (vBe m.c = true → coreOf t m.issuer = coreOf (barAdd s m.issuer (vBar m.c) 0 (-((vRows m.c * vCols m.c : Nat) : Int))) m.issuer) ∧
        ∀ i j, i < vRows m.c → j < vCols m.c → byteAt t true (tsKey te ((vRow0 m.c + i) * 512 + vCol0 m.c) + j) = 0))

/-- R178, R278 to R302, R305, R307, R314 to R318: what the engines do on their own. -/
def Obligations.engines_run : Prop :=
  Claims.data_land ∧ Claims.commands_report ∧ Claims.matrix_runs

/-! Partition switches. -/

/-- R212, R351, R353, R354, R373, R404, R405: the switch of a partition, step by step, and the two reasons for which a slice ends.
Only a partition whose slice has ended, or that has been pre-empted for an Interactive launch, that is not real-time, and whose tiles a launch
to whose class it gives way, a partition that comes back, or the reset of a tile needs, is held; its engines stop at their boundaries; what is
on its way to it is parked; its state is saved, and comes back as it was, but for what belongs to the core and not to the context
(logs 30, 51), and not onto tiles that have been reserved meanwhile; then it goes on. A tile that is not LIT, or no longer the partition's, is skipped. -/
def Obligations.partition_switch : Prop :=
  ∀ (s : State) (te : TileId),
    (∀ i p, heldPart s te = some (i, p) →
      let part := fun (t : State) => SMap.get? t.lds.parts i
      (p.step = 0 → p.expired = true ∨ p.preempt = true → p.ended = false → 2 ≤ p.cls.toNat → mustLeave s i = true → ∃ t, exec (.switchHold te) s = .next t ∧
        part t = some { p with step := 1 } ∧ (∀ u ∈ liveTiles s i p, (tileOf t u).held = true) ∧ ∀ u, u ∉ liveTiles s i p → tileOf t u = tileOf s u) ∧
      (p.cls.toNat < 2 ∨ (p.expired = false ∧ p.preempt = false) ∨ p.ended = true ∨ mustLeave s i = false → exec (.switchHold te) s = .next s) ∧
      (∀ q u r w, SMap.get? s.lds.queues q = some u → u.pending = some r → isRt u = false → (∀ x ∈ rectsFor s u r, rectFree s x = false) →
        (rectsFor s u r).find? (fun x => tilesGive s (ctlClass u.ctl) x.tiles) = some w → (∃ x ∈ w.tiles, (tileOf s x).holder = some i) → mustLeave s i = true) ∧
      (∀ x ∈ s.mgmt.wanted, (tileOf s (.ofNat 8 x)).holder = some i → mustLeave s i = true) ∧
      (∀ cls, p.preempt = true → p.expired = false → p.ended = false → p.step = 0 → (p.givesWay cls = true ↔ cls = 2 ∧ 2 ≤ p.cls.toNat)) ∧
      (p.step = 1 → holdDone s i p = true → ∃ t, exec (.switchEngineStop te) s = .next t ∧ part t = some { p with step := 2 } ∧
        ∀ u ∈ liveTiles s i p, tileOf t u = { tileOf s u with engStop := some s.ck }) ∧
      (p.step = 1 → holdDone s i p = false → exec (.switchEngineStop te) s = .next s) ∧
      (p.step = 2 → enginesDone s i p = true → journalsDone s i p = true → ∃ t, exec (.switchDrain te) s = .next t ∧
        part t = some { p with step := 3, parked := p.parked ++ s.net.filter (goesTo (liveTiles s i p)) } ∧
        t.net = s.net.filter fun q => !goesTo (liveTiles s i p) q) ∧
      (p.step = 3 → (∀ u ∈ liveTiles s i p, ∃ segs, areaSegs s p.ctx u = .ok segs) →
        ∃ t sv, exec (.switchSave te) s = .next t ∧ part t = some { p with step := 4, saved := some sv, parked := p.parked ++ s.net.filter (goesTo (liveTiles s i p)) } ∧ t.arr = s.arr ∧
          (∀ k ∈ tileCores (liveTiles s i p), (coreOf t k).ctxnum = 0 ∧ (∀ r, (coreOf t k).task.getS r = 0) ∧ (coreOf t k).dead = (coreOf s k).dead ∧
            (coreOf t k).task.halted = (coreOf s k).task.halted) ∧
          (∀ u ∈ liveTiles s i p, (tileOf t u).holder = none ∧ SMap.get? sv.tiles u.toNat = some (tileOf s u)) ∧
          (∀ k ∈ tileCores (liveTiles s i p), SMap.get? sv.cores k.toNat = some ((coreOf s k).freeze s.ck)) ∧
          ∀ a, Mem.get sv.arr a =
            if inRanges (savedRanges p (liveTiles s i p)) a = true ∧ stampOf s (a / 4096) = p.ctx.toNat then Mem.get s.arr a else 0) ∧
      (p.step = 5 → (∀ q ∈ p.parked, goesTo (liveTiles s i p) q = true) → ∃ t, exec (.switchResume te) s = .next t ∧
        part t = some { p with step := 0, parked := [], since := s.ck, expired := false, preempt := false } ∧ t.net = p.parked ++ s.net ∧
        (∀ u ∈ liveTiles s i p, (tileOf t u).held = false ∧ (tileOf t u).engStop = none ∧ (mteOf t u).held = none) ∧
        ∀ k ∈ tileCores (liveTiles s i p), bit (coreOf s k).mprog 63 = true → fld (coreOf s k).mprog 44 4 = 3 → bit (coreOf t k).mprog 63 = false) ∧
      (p.since + p.slice ≤ s.ck → 2 ≤ p.cls.toNat → ∃ t, exec (.sliceExpiry te) s = .next t ∧ part t = some { p with expired := true }) ∧
      (s.ck < p.since + p.slice ∨ p.cls.toNat < 2 → exec (.sliceExpiry te) s = .next s) ∧
      (p.cls = 3 → p.since + 8000 ≤ s.ck → interactiveWaits s = true →
        ∃ t, exec (.bulkPreemptionPoint te) s = .next t ∧ part t = some { p with preempt := true }) ∧
      (p.cls ≠ 3 ∨ s.ck < p.since + 8000 ∨ interactiveWaits s = false → exec (.bulkPreemptionPoint te) s = .next s)) ∧
    (∀ (ctx : CtxNum) (i : Nat) (p : Part) (sv : Saved),
      s.lds.parts.find? (fun x => x.2.ctx == ctx && x.2.rect.has te && x.2.saved.isSome && x.2.step == 4) = some (i, p) → p.saved = some sv →
      (2 ≤ p.cls.toNat → (∃ r ∈ s.lds.resvs, ∃ u ∈ backTiles s p sv, r.rect.has u = true) → exec (.switchRestore te ctx) s = .next s) ∧
      ((backTiles s p sv).all (tileFree s) = true → stillInClass s p (backTiles s p sv) = true → areaBad s ctx (backTiles s p sv) = none → Mem.wf sv.arr = true →
      (giveColour (dropEnded s p.rect) ctx = none → exec (.switchRestore te ctx) s = .next s) ∧
      ∀ c s1, giveColour (dropEnded s p.rect) ctx = some (c, s1) →
      let rs := savedRanges p (backTiles s p sv)
      ∃ t, exec (.switchRestore te ctx) s = .next t ∧ SMap.get? t.lds.parts i = some { p with step := 5, saved := none } ∧
        (∃ d, SMap.get? t.lds.ctxs ctx.toNat = some d ∧ d.colour = some c) ∧
        (∀ k ∈ tileCores (backTiles s p sv), ∀ c, SMap.get? sv.cores k.toNat = some c → coreOf t k = keepCore (coreOf s k) c s.ck) ∧
        ∀ a, byteAt t true a = (if inRanges rs a = true then Mem.get sv.arr a else byteAt s true a) ∧
          stampOf t (a / 4096) = if inRanges rs a = true then p.ctx.toNat else stampOf s (a / 4096))) ∧
    (∀ (old new : Core) (ck : Nat),
      let c := keepCore old new ck
      c.task = { new.task with halted := old.task.halted } ∧ c.stopped = old.stopped ∧ c.hand = new.hand ∧ c.bars = new.bars ∧ c.views = new.views ∧ c.eventQ = new.eventQ ∧ c.compQ = new.compQ ∧
        c.streams = new.streams ∧ c.credits = new.credits ∧ c.wins = new.wins ∧ c.dead = old.dead ∧ c.released = old.released ∧
        c.ckBase = old.ckBase ∧ c.utlb = old.utlb ∧ c.icache = old.icache) ∧
    (∀ ctx : CtxNum, (∀ x ∈ s.lds.parts, ¬(x.2.ctx = ctx ∧ x.2.rect.has te = true ∧ x.2.saved.isSome ∧ x.2.step = 4)) →
      (tileOf s te).holder = none → isLit s te = true →
      ∃ t, exec (.switchRestore te ctx) s = .next t ∧ ∀ k ∈ coresOfTile te,
        let c := coreOf t k
        c.ctxnum = ctx ∧ c.task.pc = (coreOf s k).tvec ∧ c.task.prv = true ∧ c.task.nest = true ∧ (∀ r, c.task.getS r = 0) ∧
          c.released = (coreOf s k).released ∧ c.dead = (coreOf s k).dead ∧ c.task.halted = (coreOf s k).task.halted)

/-! Keepers. -/

/-- The message `m` comes next on the side band of tile `te`; `rest` is the side band without it. -/
def Claims.next_side (s : State) (te : TileId) (m : SideMsg) (rest : List (TileId × SideMsg)) : Prop :=
  ∃ pre post, s.side = pre ++ (te, m) :: post ∧ rest = pre ++ post ∧ ∀ q ∈ pre, q.1 ≠ te

/-- R359 to R362, R371: beacons, suspicion and votes. A keeper suspects a neighbour whose good beacons have not come for
4,352 ck, that sent data without a credit, or the fourth malformed flit of a period; it votes once, with a record; a vote goes hop by
hop along its path, and expires; a majority of the live neighbours declares the tile dark. -/
def Claims.keepers_vote : Prop :=
  ∀ (s : State) (te x : TileId) (d : Dir) (w : BitVec 32), tileBeside te d = some x →
    let kp := keeperOf s te
    let voted := fun (ev : Instr) (reason : Nat) => ∃ t r, exec ev s = .next t ∧
      (∃ v ∈ (keeperOf t te).votes, v.voter = te ∧ v.suspect = x ∧ v.reason.toNat = reason ∧ v.born = s.ck) ∧
      r ∈ t.eva.inbox ∧ fld r.d0 56 8 = 7 ∧ fld r.d0 48 8 = reason ∧ r.d1.toNat = te.toNat * 256 + x.toNat
    let may := keeperWorks s te = true ∧ kp.sees x = false ∧ ∀ v ∈ kp.votes, v.voter = te → v.suspect = x → v.live s.ck = false
    let e := elapseTo s (nextBeat kp s.ck)
    (∃ t, exec (.beaconSend te) s = .next t ∧ t.side = e.side ++ (tilesBeside te).map (fun y => (y, .beacon te (beaconWord e te))) ∧
      (keeperOf t te).bad = ⟨0, 0, 0, 0⟩ ∧ t.ck = nextBeat kp s.ck ∧ s.ck ≤ t.ck ∧ (t.ck - kp.base) % 1024 = 0 ∧ (keeperOf t te).beat = t.ck + 1) ∧
    (let b := beaconWord s te
     fld b 16 16 = crc16 (leBytes 2 (fld b 0 16)) ∧ fld b 12 4 = tileX te ∧ fld b 8 4 = tileY te ∧ bcState b = kp.state.code) ∧
    (fld w 16 16 ≠ crc16 (leBytes 2 (fld w 0 16)) →
      ∃ t, exec (.beaconReceive te d w) s = .next t ∧ keeperOf t te = { kp with row := kp.row.set d 0 }) ∧
    (fld w 16 16 = crc16 (leBytes 2 (fld w 0 16)) → fld w 12 4 = tileX x → fld w 8 4 = tileY x → bcState w ≤ 4 → kp.state ≠ .appeal →
      ∃ t, exec (.beaconReceive te d w) s = .next t ∧ keeperOf t te =
        { kp with good := kp.good.set d s.ck, beacon := kp.beacon.set d w, row := kp.row.set d (if s.ck ≤ kp.good.get d + 1280 then kp.row.get d + 1 else 1) }) ∧
    (fld w 16 16 = crc16 (leBytes 2 (fld w 0 16)) → fld w 12 4 ≠ tileX x ∨ fld w 8 4 ≠ tileY x ∨ 4 < bcState w → kp.bad.get d < 3 →
      ∃ t, exec (.beaconReceive te d w) s = .next t ∧ keeperOf t te = { kp with bad := kp.bad.set d (kp.bad.get d + 1), row := kp.row.set d 0 }) ∧
    (s.ck < kp.good.get d + 4352 → exec (.silenceTimeout te d) s = .next s) ∧
    (may → (kp.good.get d + 4352 ≤ s.ck → voted (.silenceTimeout te d) 1) ∧ voted (.malformedFlit te d true) 2 ∧
      (3 ≤ kp.bad.get d → voted (.malformedFlit te d false) 2)) ∧
    (kp.bad.get d < 3 → ∃ t, exec (.malformedFlit te d false) s = .next t ∧
      keeperOf t te = { kp with bad := kp.bad.set d (kp.bad.get d + 1), row := kp.row.set d 0 } ∧ t.eva = s.eva) ∧
    (∃ t, exec (.voteExpiry te) s = .next t ∧ (keeperOf t te).votes = kp.votes.filter fun v => decide (s.ck < v.born + 8192)) ∧
    (∀ path v rest, Claims.next_side s te (.vote path v) rest →
      let s' : State := { s with side := rest }
      (keeperWorks s te = false ∨ path = [] ∧ (kp.sees v.voter = true ∨ s.ck ≥ v.born + 8192) → exec (.voteRelay te) s = .next s') ∧
      (∀ y p, keeperWorks s te = true → path = y :: p →
        exec (.voteRelay te) s = .next (if sideOpen s te y then { s with side := rest ++ [(y, .vote p v)] } else s')) ∧
      (keeperWorks s te = true → path = [] → kp.sees v.voter = false → s.ck < v.born + 8192 →
        exec (.voteRelay te) s = .next (countAll (modKeeper s' te fun kp => { kp with
          votes := (kp.votes.filter fun u => !(u.voter == v.voter && u.suspect == v.suspect)) ++ [v] }) te))) ∧
    ((∀ y ∈ tilesBeside te, mustDeclare s te y = false) → countAll s te = s) ∧
    ((∀ y ∈ tilesBeside te, y ≠ x → mustDeclare s te y = false) → mustDeclare s te x = true →
      isDark (countAll s te) x = true ∧ (keeperOf (countAll s te) te).sees x = true)

/-- R139, R363, R365, R367, R368, R371: darkness. A declaration is relayed, or binds the keeper that receives it; the declared tile's
tasks die with their notices; its own keeper enters DARK with its reset. In the ck after it the ports close: what was on its way through a
port is answered or discarded, the link words with it; what is past the port goes on (log 27). -/
def Claims.tiles_darken : Prop :=
  ∀ (s : State) (te x : TileId) (d : Dir),
    (∀ path y rest, Claims.next_side s te (.declare path y) rest →
      let s' : State := { s with side := rest }
      (keeperWorks s te = false ∨ path = [] ∧ y ≠ te ∧ (keeperOf s te).sees y = true → exec (.darkDeclaration te) s = .next s') ∧
      (∀ z p, keeperWorks s te = true → path = z :: p →
        exec (.darkDeclaration te) s = .next (if sideOpen s te z then { s with side := rest ++ [(z, .declare p y)] } else s')) ∧
      (keeperWorks s te = true → path = [] → isDark s y = false → (y ≠ te → (keeperOf s te).sees y = false) →
        ∃ t, exec (.darkDeclaration te) s = .next t ∧ isDark t y = true ∧
          (y ≠ te → (keeperOf t te).sees y = true ∧ ∀ k ∈ coresOfTile y, ∀ j, j < 64 → (slotAt (coreOf s k) j).st ≠ .free →
            ∃ r ∈ t.eva.inbox, fld r.d0 56 8 = 2 ∧ fld r.d0 48 8 = 8 ∧ fld r.d1 48 16 = (tagOf k j).toNat ∧ fld r.d1 40 8 = 2 ∧
              fld r.d1 32 8 = 8 ∧
              fld r.d1 0 16 = ((SMap.get? (tileOf s y).mirror (tagOf k j).toNat).getD (slotAt (coreOf s k) j).parent).toNat) ∧
          (y = te → (keeperOf t te).state = .dark ∧ (keeperOf t te).fails = (keeperOf s te).fails ∧
            ∀ k ∈ coresOfTile y, (coreOf t k).released = false) ∧
          ∀ k ∈ coresOfTile y, coreLive t k = false ∧ (coreOf t k).act = none ∧ (coreOf t k).activeQ = [] ∧ (coreOf t k).launchQ = [] ∧
            ∀ j, (slotAt (coreOf t k) j).st = .free)) ∧
    (∀ c, tileBeside te d = some x → (keeperOf s te).due.get d = some (c, true) → s.ck < c →
      ∃ t, exec (.portClose te d) s = .next t ∧ t.ck = c ∧ (keeperOf t te).closed.get d = true ∧ (keeperOf t te).due.get d = none ∧
        (∀ p ∈ t.net, tileOfCore p.src = te → tileOfCore p.dst = x → isAnswer p = true) ∧
        ∀ k ∈ coresOfTile te, ∀ o, neighbour k d = some o → tileOfCore o ≠ te →
          (coreOf t o).links.get (dirOpp d) = LinkEnd.reset ∧ ((coreOf t k).links.get d).flight = []) ∧
    (∀ f, ∀ p ∈ s.net, tileOfCore p.dst ≠ x → p ∈ (closePath s x f).net) ∧
    ((∀ c, (keeperOf s te).due.get d ≠ some (c, true)) → exec (.portClose te d) s = .next s) ∧
    (∀ c shut, (tileOf s x).shadow.due = some (c, shut) → s.ck < c → (tileOf (elapseTo s c) x).shadow = ⟨shut, shut, none⟩) ∧
    (∀ c, tileBeside te d = some x → (keeperOf s te).due.get d = some (c, false) → s.ck < c →
      (keeperOf (elapseTo s c) te).closed.get d = false ∧ (keeperOf (elapseTo s c) te).good.get d = c)

/-- R368 to R370, R430: the way back. The self-test takes 163,840 ck; a tile that passes appeals after four beacons, the
neighbours that see it dark and get its beacons accept, a majority of those live in its view relights it in ADMIT in time, with an acceptance
or a change of the view; a third failure fences it. -/
def Claims.tiles_relight : Prop :=
  ∀ (s : State) (te x : TileId) (d : Dir) (rest : List (TileId × SideMsg)),
    let kp := keeperOf s te
    let failed := fun (ev : Instr) => ∃ t r, exec ev s = .next t ∧ (keeperOf t te).fails = kp.fails + 1 ∧
      (keeperOf t te).state = (if 3 ≤ kp.fails + 1 then .fenced else .dark) ∧ r ∈ t.eva.inbox ∧ fld r.d0 56 8 = 7 ∧ fld r.d0 48 8 = 6
    (kp.state = .dark →
      (∃ t, exec (.selfTestDone te true) s = .next t ∧ (keeperOf t te).state = .appeal ∧ (keeperOf t te).sent = 0 ∧
        t.ck = max s.ck (kp.base + 163840)) ∧
      failed (.selfTestDone te false)) ∧
    (s.mgmt.boot = .running → s.mgmt.linkUp = false → kp.state = .lit → (∀ k ∈ coresOfTile te, (coreOf s k).released = false) →
      allReset s = true → te.toNat ∉ s.mgmt.tested →
      (∃ t r, exec (.selfTestDone te false) s = .next t ∧ (keeperOf t te).state = .fenced ∧ isDark t te = true ∧ r ∈ t.eva.inbox ∧
        fld r.d0 56 8 = 7 ∧ fld r.d0 48 8 = 7 ∧ te.toNat ∈ t.mgmt.tested) ∧
      let u := elapseTo s (kp.base + 163840)
      exec (.selfTestDone te true) s = .next { u with mgmt := { u.mgmt with tested := insertNat te.toNat u.mgmt.tested } }) ∧
    (kp.state = .appeal → kp.appealCk = none →
      (4 ≤ kp.sent → ∃ t, exec (.relightAppeal te) s = .next t ∧ (keeperOf t te).appealCk = some s.ck ∧
        t.side = s.side ++ ((tilesBeside te).filter fun y => !kp.sees y).map fun y => (y, .appeal te)) ∧
      (kp.sent < 4 → exec (.relightAppeal te) s = .next s)) ∧
    (tileBeside te d = some x →
      (Claims.next_side s te (.appeal x) rest → kp.state = .lit ∨ kp.state = .admitting →
        (kp.sees x = true → 4 ≤ kp.row.get d → s.ck ≤ kp.good.get d + 1280 → exec (.appealReceipt te d) s = .next { s with side := rest ++ [(x, .accept te)] }) ∧
        (kp.sees x = false ∨ kp.row.get d < 4 ∨ kp.good.get d + 1280 < s.ck → exec (.appealReceipt te d) s = .next { s with side := rest })) ∧
      (∀ c, Claims.next_side s te (.accept x) rest → kp.state = .appeal → kp.appealCk = some c → s.ck < c + 8192 →
        let n := (insertNat x.toNat kp.accepted).length
        (majority (liveBeside kp te) ≤ n → ∃ t r, exec (.acceptanceReceipt te d) s = .next t ∧ (keeperOf t te).state = .admitting ∧
          (tileOf t te).dark = false ∧ (tileOf t te).shadow.due = some (s.ck + 1, false) ∧ r ∈ t.eva.inbox ∧ fld r.d0 56 8 = 7 ∧
          fld r.d0 48 8 = 5 ∧ t.net = (s.net.filter fun p => !(tileOfCore p.dst == te && isAnswer p)) ∧
          ∀ y ∈ tilesNear te, y ≠ te → ∀ z p, pathTo kp.sees te y = some (z :: p) → (z, SideMsg.relight p te) ∈ t.side) ∧
        (n < majority (liveBeside kp te) → ∃ t, exec (.acceptanceReceipt te d) s = .next t ∧ (keeperOf t te).state = .appeal ∧
          (keeperOf t te).accepted = insertNat x.toNat kp.accepted)) ∧
      (∀ path, Claims.next_side s te (.relight path x) rest →
        (∀ y p, path = y :: p → exec (.relightDeclaration te) s = .next { s with side := rest ++ [(y, .relight p x)] }) ∧
        (path = [] → ∃ t, exec (.relightDeclaration te) s = .next t ∧ (keeperOf t te).sees x = false ∧ x.toNat ∉ rebuildView t te ∧
          (kp.state ≠ .appeal ∨ kp.appealCk = none → t.side = rest) ∧
          ∀ d', dirTo te x = some d' → keeperWorks s te = true → (keeperOf t te).due.get d' = some (s.ck + 1, false)))) ∧
    (∀ w : BitVec 32, tileBeside te d = some x → kp.state = .appeal → fld w 16 16 = crc16 (leBytes 2 (fld w 0 16)) → fld w 12 4 = tileX x →
      fld w 8 4 = tileY x → bcState w ≤ 4 →
      let v := rebuildView (modKeeper s te fun kp => { kp with good := kp.good.set d s.ck, beacon := kp.beacon.set d w }) te
      let live := ((tilesBeside te).filter fun y => !v.contains y.toNat).length
      ∃ t, exec (.beaconReceive te d w) s = .next t ∧ (keeperOf t te).dark = v ∧
        ∀ c, kp.appealCk = some c → s.ck < c + 8192 →
          (live / 2 + 1 ≤ kp.accepted.length → (keeperOf t te).state = .admitting ∧ isDark t te = false) ∧
          (kp.accepted.length < live / 2 + 1 → (keeperOf t te).state = .appeal ∧ (keeperOf t te).accepted = kp.accepted)) ∧
    (∀ c, kp.state = .appeal → kp.appealCk = some c →
      (c + 8192 ≤ s.ck → failed (.appealTimeout te)) ∧ (s.ck < c + 8192 → exec (.appealTimeout te) s = .next s))

/-- R358 to R371, R430: keepers. -/
def Obligations.keepers : Prop :=
  Claims.keepers_vote ∧ Claims.tiles_darken ∧ Claims.tiles_relight

/-! The mailbox and the dispatcher. -/

/-- R393 to R399: the mailbox, while the link to the host is up (R430), the dispatcher is enabled and BUSY is 0; a write of OP at any other time is ignored (log 53). REGCTX gives the lowest free number to a descriptor; UNREG
ends a context with its tasks, folios and queues, and nothing of it is left to the next of its number (R8; log 68); REGFOLIO and REGQUEUE check what they register; SETOWN gives frames to a
context and touches no byte outside them; READMIT opens a relit tile. RES says how each ended. -/
def Claims.mailbox_commands : Prop :=
  ∀ (s : State) (a0 a1 a2 : Word),
    (hostUp s = false ∨ s.lds.enabled = false ∨ s.lds.mbBusy = true →
      ∀ ev ∈ [Instr.regctx a0, .unreg a0, .regfolio a0 a1, .regqueue a0 a1 a2, .unregqueue a0 a1, .readmit a0, .setown a0 a1 a2],
        exec ev s = .next s) ∧
    (hostUp s = true → s.lds.enabled = true → s.lds.mbBusy = false →
    let res := fun (ev : Instr) (n : Nat) (p : State → Prop) =>
      ∃ t, exec ev s = .next t ∧ t.lds.mbRes.toNat = n ∧ t.lds.mbBusy = false ∧ p t
    let started : State := mbEnd { s with lds := { s.lds with mbOp := 4 } } s.lds.mbRes [a0, a1, a2]
    let registered := fun (t : State) => ∃ i id tl, SMap.get? t.lds.queues i = some { newQueue id (.ofNat 10 a0.toNat) a1 a2 with tailLine := tl } ∧
      id < t.lds.nextQ ∧
      ∀ pa, translate s [] (.ofNat 10 a0.toNat) a1.toNat .r = .ok pa → tl = some (pa / 128)
    let same := fun (t : State) => t.lds.ctxs = s.lds.ctxs ∧ t.lds.folios = s.lds.folios ∧ t.lds.queues = s.lds.queues ∧ t.pmem = s.pmem
    let known := (SMap.get? s.lds.ctxs a0.toNat).isSome
    let ctx : CtxNum := .ofNat 10 a0.toNat
    (let d := descOf (blkWords (Mem.read s.pmem a0.toNat 64))
     (a0.toNat % 64 ≠ 0 ∨ d.walk = 3 → res (.regctx a0) 2 same) ∧
     (∀ n, a0.toNat % 64 = 0 → d.walk ≠ 3 → 1 ≤ n → n < 1024 → SMap.get? s.lds.ctxs n = none →
       (∀ j, 1 ≤ j → j < n → (SMap.get? s.lds.ctxs j).isSome) →
       res (.regctx a0) 0 fun t => SMap.get? t.lds.ctxs n = some d ∧ t.lds.mbA[0] = .ofNat 64 n ∧
         ∀ j, j ≠ n → SMap.get? t.lds.ctxs j = SMap.get? s.lds.ctxs j) ∧
     (a0.toNat % 64 = 0 → d.walk ≠ 3 → (∀ j, 1 ≤ j → j < 1024 → (SMap.get? s.lds.ctxs j).isSome) → res (.regctx a0) 1 same)) ∧
    (a0 = 0 → res (.unreg a0) 2 same) ∧
    (a0 ≠ 0 → ¬known → res (.unreg a0) 3 same) ∧
    (a0 ≠ 0 → known → a0.toNat < 1024 → res (.unreg a0) 0 fun t => SMap.get? t.lds.ctxs a0.toNat = none ∧
      (∀ f ∈ t.lds.folios, f.ctx ≠ ctx) ∧ (∀ u ∈ t.lds.queues, u.2.ctx ≠ ctx) ∧ (∀ r ∈ t.lds.resvs, r.ctx ≠ ctx) ∧
      (∀ x ∈ t.lds.parts, x.2.ctx ≠ ctx) ∧ (∀ p ∈ t.net, p.ctx ≠ ctx) ∧ (∀ r ∈ t.tsu.reqs, r.ctx ≠ ctx) ∧
      (∀ x ∈ t.logs, x.1 % 1024 ≠ a0.toNat) ∧ (∀ x ∈ t.stamps, x.2 ≠ a0.toNat) ∧
      ∀ k j, k = s.cur ∨ (SMap.get? s.others k.toNat).isSome → (coreOf s k).ctxnum = ctx → (slotAt (coreOf t k) j).st = .free) ∧
    (¬known → res (.regfolio a0 a1) 3 same ∧ res (.regqueue a0 a1 a2) 3 same) ∧
    (known → a0.toNat < 1024 →
      (∀ h, h < 65536 → (∀ f ∈ s.lds.folios, f.handle.toNat ≠ h) → (∀ j, j < h → ∃ f ∈ s.lds.folios, f.handle.toNat = j) →
        (folioOf s ctx (.ofNat 16 h) a1 = none → res (.regfolio a0 a1) 2 same) ∧
        (∀ f, folioOf s ctx (.ofNat 16 h) a1 = some f → res (.regfolio a0 a1) 0 fun t => t.lds.folios = s.lds.folios ++ [f] ∧ t.lds.mbA[0] = .ofNat 64 h)) ∧
      (a1.toNat % 4096 ≠ 0 ∨ pageUsable s ctx a1 = false ∨ (fld a2 6 24 ≠ 0 ∧ (fld a2 6 24 < 8000 ∨ 8000000 < fld a2 6 24)) →
        res (.regqueue a0 a1 a2) 2 same) ∧
      (fld a2 0 2 < 2 → fld a2 60 4 = 0 ∨ 127 < fld a2 52 8 ∨ (ctlRect a2).inGrid = false → res (.regqueue a0 a1 a2) 2 same) ∧
      (a1.toNat % 4096 = 0 → pageUsable s ctx a1 = true → fld a2 6 24 = 0 ∨ (8000 ≤ fld a2 6 24 ∧ fld a2 6 24 ≤ 8000000) → 2 ≤ fld a2 0 2 →
        res (.regqueue a0 a1 a2) 0 registered) ∧
      (a1.toNat % 4096 = 0 → pageUsable s ctx a1 = true → fld a2 6 24 = 0 → fld a2 0 2 < 2 → 1 ≤ fld a2 60 4 → fld a2 52 8 ≤ 127 →
        (ctlRect a2).inGrid = true →
        (reserve started ctx a2 = none → res (.regqueue a0 a1 a2) 1 same) ∧
        (∀ rows s1, reserve started ctx a2 = some (rows, s1) →
          res (.regqueue a0 a1 a2) 0 fun t => registered t ∧ t.lds.resvs = s1.lds.resvs))) ∧
    (∀ x, s.lds.queues.find? (fun x => x.2.ctx.toNat == a0.toNat && x.2.page == a1) = some x →
      res (.unregqueue a0 a1) 0 fun t => SMap.get? t.lds.queues x.1 = none ∧
      (∀ n ∈ t.lds.notices, n.1 ≠ x.2.id)) ∧
    ((∀ x ∈ s.lds.queues, ¬(x.2.ctx.toNat = a0.toNat ∧ x.2.page = a1)) → res (.unregqueue a0 a1) 3 same) ∧
    (256 ≤ a0.toNat → res (.readmit a0) 2 same) ∧
    (a0.toNat < 256 →
      let te : TileId := .ofNat 8 a0.toNat
      ((keeperOf s te).state ≠ .admitting → res (.readmit a0) 4 same) ∧
      ((keeperOf s te).state = .admitting → res (.readmit a0) 0 fun t => (keeperOf t te).state = .lit ∧
        ∀ k ∈ coresOfTile te, (coreOf t k).released = true ∧
          ((coreOf s k).released = false → (coreOf t k).task.pc = (coreOf s k).tvec ∧ (coreOf t k).task.prv = true))) ∧
    (let lo := s.mgmt.hdmBase
     let hi := lo + hdmSize s
     (a0 ≠ 0 → ¬known → res (.setown a0 a1 a2) 3 same) ∧
     (a0 = 0 ∨ (known ∧ a0.toNat < 1024) →
       (a1.toNat % 4096 ≠ 0 ∨ a1.toNat < lo ∨ hi < a1.toNat + 4096 * a2.toNat → res (.setown a0 a1 a2) 2 same) ∧
       (a1.toNat % 4096 = 0 → lo ≤ a1.toNat → a1.toNat + 4096 * a2.toNat ≤ hi →
         res (.setown a0 a1 a2) 0 fun t =>
           (∀ i, i < a2.toNat → frameOwner t (a1.toNat / 4096 + i) = a0.toNat) ∧
           (∀ f, f < a1.toNat / 4096 ∨ a1.toNat / 4096 + a2.toNat ≤ f → frameOwner t f = frameOwner s f) ∧
           ∀ a, (a / 4096 < a1.toNat / 4096 ∨ a1.toNat / 4096 + a2.toNat ≤ a / 4096 ∨ frameOwner s (a / 4096) = a0.toNat) →
             Mem.get t.pmem a = Mem.get s.pmem a))))

/-- R397: a page asked for within the SWITCH, SPILL or VSAVE area of a registered context that is not mapped writable ends its registration,
with a record of KIND 1, code 0xe2, and the address (log 65). -/
def Claims.areas_fail : Prop :=
  ∀ (s : State) (before : List PageReq) (r : PageReq) (d : CtxDesc), s.tsu.reqs.filter (fun x => !before.contains x) = [r] → r.ctx ≠ 0 →
    SMap.get? s.lds.ctxs r.ctx.toNat = some d →
    let t := areaFault before s
    let inside := (r.va - d.switch).toNat < 2 ^ 28 ∨ (r.va - d.spill).toNat < d.spsize ∨ (r.va - d.vbase).toNat < 147456 * 1024
    ((inside ∧ ∀ pa, translate s [] r.ctx r.va.toNat .w ≠ .ok pa) →
      SMap.get? t.lds.ctxs r.ctx.toNat = none ∧ ∃ x ∈ t.eva.inbox, fld x.d0 56 8 = 1 ∧ fld x.d0 48 8 = 0xe2 ∧ x.d1 = r.va) ∧
    (¬inside ∨ (∃ pa, translate s [] r.ctx r.va.toNat .w = .ok pa) → t = s)

/-- R390, R399 to R406: user queues and launches. A doorbell stores TAIL and takes the dispatcher's token of its line; a read of TAIL takes it
again, and notes when its records came; a TAIL too far ahead stops the queue; a record is taken, checked and, where it fails, counted in QERR; in a lane the order is that of R404; a launch takes the first free rectangle of its shape, configures its
cores and sends its tasks; it has ended when its cores and engines have nothing left. -/
def Claims.launches : Prop :=
  ∀ (s : State) (q : Nat) (u : UQueue) (tail : Word), SMap.get? s.lds.queues q = some u →
    let queue := fun (t : State) => SMap.get? t.lds.queues q
    (hostUp s = false → exec (.doorbell q tail) s = .next s) ∧
    (hostUp s = true → ∀ pa, translate s [] u.ctx u.page.toNat .r = .ok pa →
      ∃ t, exec (.doorbell q tail) s = .next t ∧ t.pmem = Mem.write s.pmem pa (leBytes 8 tail.toNat) ∧ queue t = some u ∧
        (lineOf t (pa / 128)).hold = [] ∧ (lineOf t (pa / 128)).half (pa / 64 % 2 == 1) = .i ∧
        ((lineOf s (pa / 128)).active = none → isDevMem s (pa / 128 * 128) = false → t.hostOut = s.hostOut ++
          if (lineOf s (pa / 128)).half (pa / 64 % 2 == 1) = .m then
            [.writeBack (.ofNat 45 (pa / 128)) (pa / 64 % 2 == 1) (halfPoisoned s (pa / 128) (pa / 64 % 2 == 1))] else [])) ∧
    (∀ bs, u.stopped = false → ldsRead s u.ctx u.page 8 = some bs →
      let far := fun n => (n + 2 ^ 64 - u.head) % 2 ^ 64
      let ahead := far (ofLe bs)
      (ahead ≤ 60 → ∃ t tl ms, exec (.tailRead q) s = .next t ∧ queue t = some { u with tailLine := tl, tail := ofLe bs, arrivals := ms } ∧ t.pmem = s.pmem ∧
        (ahead ≠ 0 → (∀ m ∈ u.arrivals, far m.1 < ahead) → ms = u.arrivals ++ [(ofLe bs, s.ck)]) ∧
        (∀ m ∈ u.arrivals, far m.1 < ahead → m ∈ ms) ∧
        (hasTailToken s q u = true → tl = u.tailLine ∧ t.coh = s.coh) ∧
        (hasTailToken s q u = false → ∀ pa, translate s [] u.ctx u.page.toNat .r = .ok pa →
          tl = some (pa / 128) ∧ (lineOf t (pa / 128)).plain (ldsReq q) ≠ 0)) ∧
      (60 < ahead → ∃ t tl v, exec (.tailRead q) s = .next t ∧ queue t = some { u with tailLine := tl, stopped := true, qerr := v } ∧
        fld v 24 8 = 7 ∧ fld v 32 32 = u.head % 2 ^ 32 ∧ fld v 0 16 = (fld u.qerr 0 16 + 1) % 65536)) ∧
    (u.stopped = true → exec (.tailRead q) s = .next s ∧ exec (.recordTake q) s = .next s) ∧
    (mayTake s u = false → exec (.recordTake q) s = .next s) ∧ (mayPlace s u = false → exec (.launchPlacement q) s = .next s) ∧
    (mayTake s u = true → ∀ j v, SMap.get? s.lds.queues j = some v → isRt v = isRt u → (launchAt s j v).isNone) ∧
    (mayTake s u = true → ∀ j v, SMap.get? s.lds.queues j = some v → (nextRecord s v).isSome → isRt v = isRt u → ctlClass u.ctl ≤ ctlClass v.ctl ∧
      (ctlClass u.ctl = ctlClass v.ctl → isRt u = false → u.headArrived ≤ v.headArrived)) ∧
    (∀ bs, u.stopped = false → u.pending = none → u.head ≠ u.tail → mayTake s u = true →
      ldsRead s u.ctx (u.page + .ofNat 64 (0x100 + 64 * (u.head % 60))) 64 = some bs →
      let r := blkWords bs
      let n := (u.head + 1) % 2 ^ 64
      let took : UQueue := { u with head := n, arrived := u.headArrived, arrivals := u.arrivals.filter fun m => m.1 != n }
      (recCheck s u r = 0 → ∃ t, exec (.recordTake q) s = .next t ∧ queue t = some { took with pending := some r }) ∧
      (recCheck s u r ≠ 0 → ∃ t v, exec (.recordTake q) s = .next t ∧ queue t = some { took with pending := none, qerr := v } ∧
        fld v 24 8 = recCheck s u r % 256 ∧ fld v 32 32 = u.head % 2 ^ 32)) ∧
    (∀ r, u.pending = some r → mayPlace s u = true →
      (∀ f d p c s1, folioFor s u r = some f → SMap.get? s.lds.ctxs u.ctx.toNat = some d → (rectsFor s u r).find? (rectFree s) = some p →
        giveColour (dropEnded s p) u.ctx = some (c, s1) →
        ∃ t i, exec (.launchPlacement q) s = .next t ∧ queue t = some { u with pending := none } ∧
          t.net = (s.net.filter fun x => !goesTo (p.tiles.filter (mustFreshen s u.ctx)) x) ++ (launchCores r p).map (fun x => (⟨x.1, x.1, 0xffff, u.ctx, .launch ⟨recEntry r, dwordOf r 1 + .ofNat 64 x.2,
            .ofNat 64 (fld (dwordOf r 2) 0 42), .ofNat 2 (fld (dwordOf r 2) 48 2), 0xffff, dwordOf r 3, u.ctx, some u.id⟩⟩ : Packet)) ∧
          (∀ te ∈ p.tiles, (tileOf t te).holder = some i ∧ (tileOf t te).part = some p ∧ (tileOf t te).held = false) ∧
          ∀ k ∈ tileCores p.tiles, (coreOf t k).ctxnum = u.ctx ∧ (coreOf t k).slotCnt = Vector.replicate 64 4 ∧
            vget (coreOf t k).wins 0 Window.reset = window0 r p k ∧ (coreOf t k).handlers = handlerTable f) ∧
      ((rectsFor s u r).find? (rectFree s) = none → exec (.launchPlacement q) s = .next s)) ∧
    (∀ i p, SMap.get? s.lds.parts i = some p →
      ∃ t, exec .launchEndSample s = .next t ∧
        SMap.get? t.lds.parts i = some (if p.step = 0 ∧ p.saved = none ∧ launchEnded s p then { p with ended := true } else p)) ∧
    (∀ m, ∃ t r, exec (.moduleTrainingFail m) s = .next t ∧ (if m then t.mgmt.mod1 else t.mgmt.mod0) = false ∧
      t.eva.inbox = s.eva.inbox ++ [r] ∧ fld r.d0 56 8 = 6)

/-- R390, R393 to R406: registration, ownership and launches. -/
def Obligations.dispatcher : Prop :=
  Claims.mailbox_commands ∧ Claims.areas_fail ∧ Claims.launches

/-! Records and translations. -/

/-- R346 to R352, R356, R403, R416: the event arbiter and the translation service. A record gets the next SEQ and its place
in the ring, and a root task's notice goes on to its queue, while that is registered; a translation obtained is kept at all levels; the host's answer
to a page request is event 0x17, in the saved queue of the partition that asked while that is switched out, or goes to the engine that waits; an invalidation
removes every entry it overlaps, and completes when no request, and no MERGE, that used one is still to be performed; without the link nothing of the host's comes; a page of a gathering is checked once. -/
def Obligations.records_and_translations : Prop :=
  ∀ s : State,
    (s.eva.inbox = [] → exec .recordReceive s = .next s) ∧
    (∀ r rest, s.eva.inbox = r :: rest → r.asks = false →
      let i := s.eva.seq
      let at_ := s.eva.base + 32 * (i.toNat % s.eva.size)
      let bs := leBytes 8 r.d0.toNat ++ leBytes 8 r.d1.toNat ++ leBytes 8 r.d2.toNat ++ leBytes 8 i.toNat
      let noted := fun (n : Nat × Word) => n.2 = r.d1 ∧ (fld r.d0 56 8 = 2 ∨ fld r.d0 56 8 = 3)
      ((∀ n ∈ s.lds.notices, ¬noted n) → ∃ t, exec .recordReceive s = .next t ∧ t.eva.inbox = rest ∧ t.eva.seq = i + 1 ∧
        t.pmem = Mem.write s.pmem at_ bs ∧ t.lds = s.lds) ∧
      (∀ n j u, s.lds.notices = [n] → noted n → s.lds.queues.find? (fun x => x.2.id == n.1) = some (j, u) →
        ∃ t, exec .recordReceive s = .next t ∧ t.eva.inbox = rest ∧ t.eva.seq = i + 1 ∧ t.lds.notices = [] ∧
          SMap.get? t.lds.queues j = some { u with ncount := u.ncount + 1 }) ∧
      (∀ n, s.lds.notices = [n] → noted n → (∀ x ∈ s.lds.queues, x.2.id ≠ n.1) →
        ∃ t, exec .recordReceive s = .next t ∧ t.lds.notices = [] ∧ t.lds.queues = s.lds.queues)) ∧
    (∀ k va x, tsuXlat s (coreOf s k).ctxnum va.toNat .r = some x →
      ∃ t, exec (.translationResponse k va) s = .next t ∧ x ∈ (coreOf t k).utlb ∧ x ∈ (tileOf t (tileOfCore k)).tlb ∧ x ∈ t.tsu.cache ∧
        (coreOf t k).utlb.length ≤ 32 ∧ (tileOf t (tileOfCore k)).tlb.length ≤ 256 ∧ t.pmem = s.pmem) ∧
    (∀ k va, tsuXlat s (coreOf s k).ctxnum va.toNat .r = none → exec (.translationResponse k va) s = .next s) ∧
    (hostUp s = false → ∀ pt ok p pasid va len, exec (.pageResponse pt ok p) s = .next s ∧ exec (.atsInvalidationRequest pasid va len) s = .next s ∧
      exec .atsInvalidationComplete s = .next s) ∧
    (hostUp s = true → ∀ r ok, r ∈ s.tsu.reqs → (∀ r' ∈ s.tsu.reqs, r'.ptag = r.ptag → r' = r) →
      (∀ p, r.engine = false → savedOf s r.part r.core = none → (coreOf s r.core).ctxnum = r.ctx → (coreOf s r.core).eventQ.length < 32 →
        ∃ t e, exec (.pageResponse r.ptag ok p) s = .next t ∧ t.tsu.reqs = s.tsu.reqs.erase r ∧
          (coreOf t r.core).eventQ = (coreOf s r.core).eventQ ++ [⟨0x17, e⟩] ∧ fld e 48 16 = r.tag.toNat ∧ fld e 0 16 = r.ptag.toNat ∧
          (bit e 16 = ok) ∧ (ok = true → ∀ h, p = some h → h ∈ t.tsu.host)) ∧
      (∀ p (i : Nat) part sv c, r.engine = false → savedOf s r.part r.core = some (i, part, sv, c) → c.eventQ.length < 32 →
        ∃ t e sv' c', exec (.pageResponse r.ptag ok p) s = .next t ∧ SMap.get? t.lds.parts i = some { part with saved := some sv' } ∧
          SMap.get? sv'.cores r.core.toNat = some c' ∧ c'.eventQ = c.eventQ ++ [⟨0x17, e⟩] ∧ fld e 0 16 = r.ptag.toNat ∧ (bit e 16 = ok)) ∧
      (r.engine = true → ∃ t, exec (.pageResponse r.ptag ok none) s = .next t ∧ t.tsu.reqs = s.tsu.reqs.erase r ∧
        ∀ te (i : Nat) c, (SMap.get? s.tiles te.toNat).isSome → (tileOf s te).mve[i]? = some c → c.ptag = some r.ptag →
          ∃ c', (tileOf t te).mve[i]? = some c' ∧ c'.ptag = none ∧
            c'.fail = if ok then c.fail else some ⟨if r.perm then 0x02 else 0x01, r.va, 0⟩)) ∧
    (∀ pt ok p, (∀ r ∈ s.tsu.reqs, r.ptag ≠ pt) → exec (.pageResponse pt ok p) s = .next s) ∧
    (hostUp s = true → ∀ pasid va len, ∃ t gone, exec (.atsInvalidationRequest pasid va len) s = .next t ∧ t.tsu.inval = s.tsu.inval ++ [gone] ∧
      let hit := fun (x : Xlat) => pasidOf s x.ctx = pasid ∧ x.va < va.toNat + len.toNat ∧ va.toNat < x.va + 4096 * 2 ^ x.lg
      (∀ x, hit x → (x ∈ s.tsu.cache ∨ ∃ k, x ∈ (coreOf s k).utlb) → (x.pa, 4096 * 2 ^ x.lg) ∈ gone) ∧
      (∀ p ∈ s.tsu.host, p.pasid = pasid → p.va.toNat < va.toNat + len.toNat → va.toNat < p.va.toNat + 4096 * 2 ^ p.lg.toNat →
        (p.pa.toNat, 4096 * 2 ^ p.lg.toNat) ∈ gone ∧ p ∉ t.tsu.host) ∧
      (∀ x, x ∈ t.tsu.cache ↔ x ∈ s.tsu.cache ∧ ¬hit x) ∧ (∀ k x, x ∈ (coreOf t k).utlb ↔ x ∈ (coreOf s k).utlb ∧ ¬hit x) ∧
      (∀ te x, x ∈ (tileOf t te).tlb ↔ x ∈ (tileOf s te).tlb ∧ ¬hit x) ∧ t.pmem = s.pmem) ∧
    (∀ rs rest x e, s.tsu.inval = rs :: rest → x ∈ s.taken → e ∈ x.2 → (∃ r ∈ rs, r.1 ≤ e.pa ∧ e.pa < r.1 + r.2) →
      exec .atsInvalidationComplete s = .next s) ∧
    (hostUp s = true → ∀ rs rest, s.tsu.inval = rs :: rest →
      (stillUsed s rs = false → ∃ t, exec .atsInvalidationComplete s = .next t ∧ t.tsu.inval = rest ∧ t.hostOut = s.hostOut ++ [.invalDone]) ∧
      (stillUsed s rs = true → exec .atsInvalidationComplete s = .next s)) ∧
    (s.tsu.inval = [] → exec .atsInvalidationComplete s = .next s) ∧
    (∀ ctx page pa h, let va := page.toNat / 4096 * 4096
      translate s [] ctx va .x = .ok pa → pageHash s ctx va = some h → hashResult s ctx va = none →
      ∃ t, exec (.pageHashCheck ctx page) s = .next t ∧ t.pmem = s.pmem ∧
        hashResult t ctx va = some (Config.sha512 (Mem.read s.pmem (pa / 4096 * 4096) 4096) == h)) ∧
    (∀ ctx page, let va := page.toNat / 4096 * 4096
      pageHash s ctx va = none ∨ (hashResult s ctx va).isSome → exec (.pageHashCheck ctx page) s = .next s)

/-! The management core. -/

/-- R423 to R425: boot and measurement. Power-on reset leaves the reset state with MR0 extended by the ROM's digest; a
chain whose first stage does not verify, or that is empty, ends in recovery, where the link carries CXL.io alone and only DOE discovery is answered; the firmware answers SPDM once it runs and the
link is up, every response signed, over the nonce where the request has one, a measurement with its index (log 38); MR4 to MR7 take at most 256 extensions each. -/
def Claims.boot_and_measure : Prop :=
  ∀ (s : State) (rom d : BitVec 512) (b : BootImage) (nonce : BitVec 256) (i : BitVec 2),
    let ext := fun (m : Mgmt) (j : Nat) (x : BitVec 512) => Config.sha512 (leBytes 64 (vget m.mr j 0).toNat ++ leBytes 64 x.toNat)
    let out := fun (ev : Instr) (m : HostMsg) => ∃ t, exec ev s = .next t ∧ t.hostOut = s.hostOut ++ [m] ∧ t.mgmt = s.mgmt ∧ t.pmem = s.pmem
    (∃ t, exec (.powerOnReset rom []) s = .next t ∧ t.mgmt.boot = .recovery ∧ vget t.mgmt.mr 0 0 = ext State.reset.mgmt 0 rom ∧
      t.core = Core.reset ∧ (∀ a, byteAt t false a = if isDevMem s a then 0 else byteAt s false a) ∧ t.arr = [] ∧ t.eva = State.reset.eva ∧ t.lds = State.reset.lds) ∧
    (∃ t, exec (.powerOnReset rom [b]) s = .next t ∧ t.mgmt.boot = (if firstOk b then .running else .recovery) ∧ t.mgmt.linkUp = false ∧
      vget t.mgmt.mr 0 0 = ext State.reset.mgmt 0 rom ∧
      vget t.mgmt.mr 1 0 = (if firstOk b then ext State.reset.mgmt 1 (Config.sha512 b.image) else 0) ∧
      vget t.mgmt.mr 3 0 = if firstOk b then ext State.reset.mgmt 3 Config.fuseDigest else 0) ∧
    (spdmOpen s = true →
      (∀ p ∈ ([(.getVersion, 0), (.getCapabilities, 1), (.negotiateAlgorithms, 2), (.getDigests, 3), (.getCertificate, 4)] : List (Instr × Nat)),
        out p.1 (.spdm p.2 (Config.spdmBody p.2) (Config.spdmSign s.fresh (Config.spdmBody p.2)))) ∧
      out (.challenge nonce) (.spdm 5 (Config.spdmBody 5) (Config.spdmSign s.fresh (leBytes 32 nonce.toNat ++ Config.spdmBody 5))) ∧
      (let data := (upto 8).flatMap fun k => BitVec.ofNat 8 (k + 1) :: leBytes 64 (vget s.mgmt.mr k 0).toNat
       out (.getMeasurements nonce) (.spdm 6 data (Config.spdmSign s.fresh (leBytes 32 nonce.toNat ++ data)))) ∧
      out .doeDiscovery .doe) ∧
    (s.mgmt.boot = .recovery → s.mgmt.mod0 = true ∨ s.mgmt.mod1 = true →
      exec .linkTraining s = .next { s with mgmt := { s.mgmt with linkUp := true } }) ∧
    (spdmOpen s = false →
      (∀ ev ∈ [Instr.getVersion, .getCapabilities, .negotiateAlgorithms, .getDigests, .getCertificate, .challenge nonce, .getMeasurements nonce],
        exec ev s = .next s) ∧
      (s.mgmt.boot = .recovery → s.mgmt.linkUp = true → out .doeDiscovery .doe) ∧
      (s.mgmt.boot ≠ .recovery ∨ s.mgmt.linkUp = false → exec .doeDiscovery s = .next s)) ∧
    (s.mgmt.boot = .running →
      (vget s.mgmt.exts i.toNat 0 < 256 → ∃ t, exec (.measurementExtension i d) s = .next t ∧
        vget t.mgmt.mr (4 + i.toNat) 0 = ext s.mgmt (4 + i.toNat) d ∧ (∀ j, j ≠ 4 + i.toNat → vget t.mgmt.mr j 0 = vget s.mgmt.mr j 0) ∧
        vget t.mgmt.exts i.toNat 0 = vget s.mgmt.exts i.toNat 0 + 1) ∧
      (256 ≤ vget s.mgmt.exts i.toNat 0 → exec (.measurementExtension i d) s = .next s))

/-- R394, R416, R421, R425, R428: what the management core, the host and system software do beside the opcode table, as turns of the agenda
(log 4). The ring's base and size are set before the last RAMP is locked (log 39); BAR 0 reads PSTAT, the SEQ that the next record
receives, and the mailbox; measurement k + 1 is MR[k]; a replay starts from the SEQ named (log 72). -/
def Claims.outside_inputs : Prop :=
  ∀ (s : State) (r : List Turn),
    (∀ base size, s.agenda = .ring base size :: r →
      let ok := s.mgmt.boot = .running ∧ s.mgmt.memGib ≠ 0 ∧ rampsLocked s = false ∧ 4096 ≤ size ∧ (∃ n, size = 2 ^ n) ∧ base % 32 = 0 ∧
        s.mgmt.hdmBase ≤ base ∧ base + 32 * size ≤ s.mgmt.hdmBase + hdmSize s
      (ok → step s = .next { s with agenda := r, eva := { s.eva with base := base, size := size } }) ∧
      (¬ok → step s = .next { s with agenda := r })) ∧
    (∀ seq, s.agenda = .replayFrom seq :: r → step s = .next { s with agenda := r, eva := { s.eva with named := seq } }) ∧
    (∀ off, s.agenda = .barRead off :: r →
      (hostUp s = false → step s = .next { s with agenda := r }) ∧
      (hostUp s = true → ∃ v, step s = .next { s with agenda := r, hostOut := s.hostOut ++ [.bar v] } ∧
        (off = 0x2000 → v = s.eva.seq) ∧
        (off = 0x3000 → fld v 32 8 = s.mgmt.tj.toNat ∧ fld v 16 8 = s.mgmt.cap.toNat ∧ fld v 0 4 = s.mgmt.freq.toNat ∧
          fld v 40 24 = 0 ∧ fld v 24 8 = 0 ∧ fld v 4 12 = 0) ∧
        (off = 0x1000 → fld v 0 8 = s.lds.mbOp.toNat) ∧
        (off = 0x1008 → fld v 0 8 = s.lds.mbRes.toNat ∧ bit v 63 = s.lds.mbBusy))) ∧
    (∀ (k : Nat) nonce, k < 8 → s.agenda = .measure (.ofNat 8 (k + 1)) nonce :: r → spdmOpen s = true →
      ∃ t, step s = .next t ∧ t.mgmt = s.mgmt ∧
        let data := leBytes 64 (vget s.mgmt.mr k 0).toNat
        t.hostOut = s.hostOut ++ [.spdm 6 data (Config.spdmSign s.fresh (leBytes 32 nonce.toNat ++ data))])

/-- R307, R390, R392, R426 to R432: power and bring-up. ck changes at a boundary of four ck, holds the cap (log 13) and rises only below
100 °C; 105 °C steps it down by 100 MHz, and below 100 °C a reading steps it up as far as the cap lets it, 1 ms after the step before; at 115 °C
the compute dies lose their power, what their caches alone held of dirty lines with it (log 27), and then only the base die acts while time
goes on. Memory is trained once; a locked RAMP stays; a tile without a context's state is reset, the reset of another waits for its switch;
the steps of bring-up follow one another, and the link comes last. -/
def Claims.power_and_bring_up : Prop :=
  ∀ s : State,
    let now := s.mgmt.freq.toNat
    let tj := s.mgmt.tj.toNat
    (∀ w, (90 ≤ w.toNat → w.toNat ≤ 240 → ∃ t, exec (.powerCapSet w) s = .next t ∧ t.mgmt.cap = w ∧
        4 ≤ t.mgmt.capCk.toNat ∧ t.mgmt.capCk.toNat ≤ 8 ∧ t.mgmt.freq.toNat = if tj < 100 then t.mgmt.capCk.toNat else min t.mgmt.capCk.toNat now) ∧
      (w.toNat < 90 ∨ 240 < w.toNat → exec (.powerCapSet w) s = .next s)) ∧
    (∀ f, (4 ≤ f.toNat → f.toNat ≤ s.mgmt.capCk.toNat → tj < 100 ∨ f.toNat < now → f.toNat ≠ now →
        ∃ t, exec (.frequencyChange f) s = .next t ∧ t.mgmt.freq = f ∧ t.ck = (s.ck + 3) / 4 * 4) ∧
      (100 ≤ tj → now ≤ f.toNat → exec (.frequencyChange f) s = .next s) ∧ (f.toNat < 4 ∨ s.mgmt.capCk.toNat < f.toNat → exec (.frequencyChange f) s = .next s)) ∧
    (∀ x, 4 ≤ now → now ≤ 8 → ∃ t, exec (.thermalStep x) s = .next t ∧ t.mgmt.tj = x ∧
      t.mgmt.thermAt = max s.ck (s.mgmt.thermAt + 100000 * now) ∧ t.mgmt.thermAt ≤ t.ck ∧
      (115 ≤ x.toNat → t.mgmt.powered = false ∧ t.core = Core.reset ∧ t.others = [] ∧ t.arr = []) ∧
      (105 ≤ x.toNat → x.toNat < 115 → t.mgmt.freq.toNat = max 4 (now - 1)) ∧ (100 ≤ x.toNat → x.toNat < 105 → t.mgmt.freq = s.mgmt.freq) ∧
      (x.toNat < 100 → t.mgmt.freq.toNat = min s.mgmt.capCk.toNat (now + 1))) ∧
    (∀ x, (115 ≤ x.toNat → ∃ t, exec (.overtempPowerOff x) s = .next t ∧ t.mgmt.powered = false ∧ t.core = Core.reset ∧ t.others = [] ∧
        t.arr = [] ∧ (∀ a, (∀ x ∈ s.coh.lines, x.1 = a / 128 → x.2.dirty = false) → Mem.get t.pmem a = Mem.get s.pmem a) ∧
        (∀ x ∈ t.coh.lines, x.2.hold = [] ∧ x.2.dirty = false) ∧
        (s.agenda = [] → ∃ u, step t = .next u ∧ u.ck = s.ck + 1 ∧ u.core = Core.reset ∧ u.arr = [] ∧ u.pmem = t.pmem) ∧
        ∀ i r, s.agenda = .event i :: r → onBaseDie i = false → step t = .next { t with agenda := r }) ∧
      (x.toNat < 115 → exec (.overtempPowerOff x) s = .next s)) ∧
    (∀ rate gib, (s.mgmt.boot = .running → s.mgmt.memGib = 0 → rate.toNat < 3 → gib = 48 ∨ gib = 96 ∨ gib = 192 →
        ∃ t, exec (.lpddrTraining rate gib) s = .next t ∧ t.mgmt.memGib = gib.toNat ∧ t.mgmt.memRate = rate ∧ t.frames = []) ∧
      (s.mgmt.memGib ≠ 0 → exec (.lpddrTraining rate gib) s = .next s)) ∧
    (∀ sg v lock, (s.mgmt.boot = .running → s.mgmt.memGib ≠ 0 → (rampOf s sg.toNat).2 = false →
        ∃ t, exec (.rampWrite sg v lock) s = .next t ∧ (rampOf t sg.toNat).2 = lock ∧
          (∀ i, i < 16 → fld (rampOf t sg.toNat).1 (4 * i) 4 = if fld v (4 * i) 4 = 0 then 1 else fld v (4 * i) 4) ∧
          ∀ g, g ≠ sg.toNat → rampOf t g = rampOf s g) ∧
      ((rampOf s sg.toNat).2 = true → exec (.rampWrite sg v lock) s = .next s)) ∧
    (∀ k v, s.mgmt.boot = .running → s.mgmt.linkUp = true ∨ allTested s = true → ∃ t, exec (.tvecBringupWrite k v) s = .next t ∧ (coreOf t k).tvecKept = setBit v 0 false ∧
      (coreOf t k).tvec = (if (coreOf s k).released then (coreOf s k).tvec else setBit v 0 false) ∧ k.toNat ∈ t.mgmt.tvecs) ∧
    (s.mgmt.linkUp = false →
      (allTested s = false → ∀ k v, exec (.tvecBringupWrite k v) s = .next s ∧ exec (.coreRelease k) s = .next s) ∧
      (∀ k, k.toNat ∉ s.mgmt.tvecs → exec (.coreRelease k) s = .next s) ∧
      (rampsLocked s = false → ∀ te, exec (.tileReset te) s = .next s)) ∧
    (∀ te, s.mgmt.boot = .running → s.mgmt.linkUp = true ∨ rampsLocked s = true → holdsState s te = false → (keeperOf s te).state ≠ .dark → (tileOf s te).dark = false ∨ keeperWorks s te = false →
      ∃ t, exec (.tileReset te) s = .next t ∧ (keeperOf t te).state = .lit ∧
        (s.mgmt.linkUp = false → te.toNat ∈ t.mgmt.resets ∧ te.toNat ∉ t.mgmt.tested) ∧ ∀ k ∈ coresOfTile te, let c := coreOf t k
        c.released = s.mgmt.linkUp ∧ c.tvec = (coreOf s k).tvecKept ∧ cycleOf t c = 0 ∧ c.dead = false ∧ c.ctxnum = 0 ∧
          c.timecmp = 0xffffffffffffffff ∧ (∀ r, c.task.getS r = 0) ∧ c.task.prv = true ∧ c.task.nest = true ∧
          ∀ a, lmKey k 0 ≤ a → a < lmKey k 0 + lmSize → byteAt t true a = 0) ∧
    (∀ te, s.mgmt.boot = .running → s.mgmt.linkUp = true ∨ rampsLocked s = true →
      (holdsState s te = true → exec (.tileReset te) s =
        .next { s with mgmt := { s.mgmt with wanted := insertNat te.toNat s.mgmt.wanted } }) ∧
      (s.mgmt.wanted = [te.toNat] → (holdsState s te = true → serveResets s = s) ∧
        (holdsState s te = false → exec (.tileReset te) s = .next (serveResets s) ∧ (serveResets s).mgmt.wanted = []))) ∧
    (s.mgmt.boot = .running → s.mgmt.memGib ≠ 0 → rampsLocked s = true → arrayReleased s = true → s.mgmt.mod0 = true ∨ s.mgmt.mod1 = true →
      ∃ t, exec .linkTraining s = .next t ∧ t.mgmt.linkUp = true ∧ t.lds.enabled = true ∧ (SMap.get? t.lds.ctxs 0).isSome) ∧
    (s.mgmt.boot ≠ .recovery → rampsLocked s = false ∨ arrayReleased s = false ∨ s.mgmt.memGib = 0 → exec .linkTraining s = .next s) ∧
    (s.mgmt.mod0 = false → s.mgmt.mod1 = false → exec .linkTraining s = .next s)

/-- R307, R390, R392, R423 to R432: the management core. -/
def Obligations.management : Prop :=
  Claims.boot_and_measure ∧ Claims.outside_inputs ∧ Claims.power_and_bring_up
end

