-- ==== Sys2Proof/Laws/Lanes.lean ====
section
/-!
SUPPORT. A vector is its lanes: what a lane of a vector built from lanes is, and that lanes determine the vector.
-/
namespace Sys2Proof.Machine

theorem digits_lt (w : Nat) (f : Nat → BitVec w) : ∀ n, digits w f n < 2 ^ (w * n)
  | 0 => by simp [digits]
  | k + 1 => by
    have h := digits_lt w f k
    have hf : (f k).toNat + 1 ≤ 2 ^ w := (f k).isLt
    have e : ((f k).toNat + 1) * 2 ^ (w * k) ≤ 2 ^ w * 2 ^ (w * k) := Nat.mul_le_mul_right _ hf
    rw [digits, Nat.shiftLeft_eq, Nat.mul_succ, Nat.pow_add, Nat.mul_comm (2 ^ (w * k))]
    rw [Nat.succ_mul] at e
    omega

/-- Digit i of a number built from digits. -/
theorem digits_digit (w : Nat) (f : Nat → BitVec w) : ∀ n i, i < n → digits w f n / 2 ^ (w * i) % 2 ^ w = (f i).toNat
  | k + 1, i, h => by
    rw [digits, Nat.shiftLeft_eq]
    rcases Nat.lt_succ_iff_lt_or_eq.mp h with hlt | rfl
    · have hk : w * k = w + w * (k - i - 1) + w * i := by
        have e : k = 1 + (k - i - 1) + i := by omega
        rw [congrArg (w * ·) e, Nat.mul_add, Nat.mul_add, Nat.mul_one]
      rw [hk, Nat.pow_add, ← Nat.mul_assoc, Nat.add_mul_div_right _ _ (Nat.two_pow_pos _), Nat.pow_add,
        Nat.mul_left_comm, Nat.add_mul_mod_self_left]
      exact digits_digit w f k i hlt
    · rw [Nat.add_mul_div_right _ _ (Nat.two_pow_pos _), Nat.div_eq_of_lt (digits_lt w f i), Nat.zero_add,
        Nat.mod_eq_of_lt (f i).isLt]

/-- Lane i of a vector built from lanes. -/
theorem lane_ofLanes {w n i : Nat} (f : Nat → BitVec w) (h : i < n) (hn : w * n ≤ 512) : lane (ofLanes w n f) w i = f i := by
  apply BitVec.eq_of_toNat_eq
  have hd := Nat.lt_of_lt_of_le (digits_lt w f n) (Nat.pow_le_pow_right (n := 2) (by decide) hn)
  simp only [lane, ofLanes, BitVec.extractLsb'_toNat, BitVec.toNat_ofNat, Nat.mod_eq_of_lt hd, Nat.shiftRight_eq_div_pow]
  exact digits_digit w f n i h

/-- Two vectors with the same lanes are equal, for a width that divides 512. -/
theorem vec_ext {w : Nat} (hw : 0 < w) (hd : w * (512 / w) = 512) {u v : Vec} (h : ∀ i, i < 512 / w → lane u w i = lane v w i) :
    u = v := by
  apply BitVec.eq_of_getLsbD_eq
  intro j hj
  have hlt : j / w < 512 / w := (Nat.div_lt_iff_lt_mul hw).mpr (by rw [Nat.mul_comm]; omega)
  have e := congrArg (fun x : BitVec w => x.getLsbD (j % w)) (h _ hlt)
  simp only [lane, BitVec.getLsbD_extractLsb', Nat.mod_lt _ hw, decide_true, Bool.true_and, Nat.div_add_mod] at e
  exact e

/-- A vector with given lanes is the one built from them. -/
theorem eq_ofLanes {w : Nat} (hw : 0 < w) (hd : w * (512 / w) = 512) {v : Vec} {f : Nat → BitVec w} (h : LanesAre w v f) :
    v = ofLanes w (512 / w) f :=
  vec_ext hw hd fun i hi => by rw [h i hi, lane_ofLanes f hi (Nat.le_of_eq hd)]

theorem laneBits_pos (k : LaneW) : 0 < laneBits k := by cases k <;> decide
theorem laneBits_divides (k : LaneW) : laneBits k * (512 / laneBits k) = 512 := by cases k <;> decide

/-- Merged lanes are the one vector whose enabled lanes are those of `new` and whose others are those of `old`. -/
theorem mergeLanes_eq {w : Nat} (hw : 0 < w) (hd : w * (512 / w) = 512) {p : Word} {old new v : Vec} {f : Nat → BitVec w}
    (hn : LanesAre w new f) (h : Enabled w p old v f) : mergeLanes w p old new = v := by
  refine vec_ext hw hd fun i hi => ?_
  rw [mergeLanes, lane_ofLanes _ hi (Nat.le_of_eq hd), hn i hi]
  exact (h i hi).symm

/-- What a lane operation does when its operands can be read. -/
theorem vecOp_next {s s1 : State} {d a b : Spec} {rx : RX} {u : BUse} {hasC : Bool} {g w : Nat} {x y z v : Vec}
    {f : Vec → Vec → Vec → Vec} {l : Nat → BitVec w} (hw : 0 < w) (hd : w * (512 / w) = 512)
    (h : vecSrc s (.dstV d) a b rx u hasC g = .ok ((x, y, z), s1)) (hf : LanesAre w (f x y z) l)
    (hv : Enabled w (govern s rx) (getV s d.toNat) v l) :
    vecOp s d a b rx u hasC g w f = .next (retire (putV s1 d.toNat v)) := by
  simp [vecOp, finish, h, bind, Except.bind, pure, Except.pure, mergeLanes_eq hw hd hf hv]

end Sys2Proof.Machine
end

