-- ==== Sys2Proof/Laws/State.lean ====
section
/-!
SUPPORT. What each update of the machine leaves alone: one equation per update and field it does not touch, true by
computation, so that no later proof unfolds a record.
-/
namespace Sys2Proof.Machine

variable (s : State)

/-! `setCx`. -/

@[simp] theorem setCx_cur (x : Ctx) : (setCx s x).cur = s.cur := rfl
@[simp] theorem setCx_kind (x : Ctx) : (setCx s x).kind = s.kind := rfl
@[simp] theorem setCx_others (x : Ctx) : (setCx s x).others = s.others := rfl
@[simp] theorem setCx_tiles (x : Ctx) : (setCx s x).tiles = s.tiles := rfl
@[simp] theorem setCx_arr (x : Ctx) : (setCx s x).arr = s.arr := rfl
@[simp] theorem setCx_stamps (x : Ctx) : (setCx s x).stamps = s.stamps := rfl
@[simp] theorem setCx_fills (x : Ctx) : (setCx s x).fills = s.fills := rfl
@[simp] theorem setCx_pmem (x : Ctx) : (setCx s x).pmem = s.pmem := rfl
@[simp] theorem setCx_poison (x : Ctx) : (setCx s x).poison = s.poison := rfl
@[simp] theorem setCx_ck (x : Ctx) : (setCx s x).ck = s.ck := rfl
@[simp] theorem setCx_agenda (x : Ctx) : (setCx s x).agenda = s.agenda := rfl
@[simp] theorem setCx_fresh (x : Ctx) : (setCx s x).fresh = s.fresh := rfl
@[simp] theorem setCx_gangView (x : Ctx) : (setCx s x).gangView = s.gangView := rfl
@[simp] theorem setCx_net (x : Ctx) : (setCx s x).net = s.net := rfl
@[simp] theorem setCx_side (x : Ctx) : (setCx s x).side = s.side := rfl
@[simp] theorem setCx_coh (x : Ctx) : (setCx s x).coh = s.coh := rfl
@[simp] theorem setCx_logs (x : Ctx) : (setCx s x).logs = s.logs := rfl
@[simp] theorem setCx_taken (x : Ctx) : (setCx s x).taken = s.taken := rfl
@[simp] theorem setCx_tsu (x : Ctx) : (setCx s x).tsu = s.tsu := rfl
@[simp] theorem setCx_lds (x : Ctx) : (setCx s x).lds = s.lds := rfl
@[simp] theorem setCx_eva (x : Ctx) : (setCx s x).eva = s.eva := rfl
@[simp] theorem setCx_ramp (x : Ctx) : (setCx s x).ramp = s.ramp := rfl
@[simp] theorem setCx_sgvAt (x : Ctx) : (setCx s x).sgvAt = s.sgvAt := rfl
@[simp] theorem setCx_mgmt (x : Ctx) : (setCx s x).mgmt = s.mgmt := rfl
@[simp] theorem setCx_hostOut (x : Ctx) : (setCx s x).hostOut = s.hostOut := rfl
@[simp] theorem setCx_frames (x : Ctx) : (setCx s x).frames = s.frames := rfl

/-! `putS`. -/

@[simp] theorem putS_cur (i : Nat) (x : Word) : (putS s i x).cur = s.cur := rfl
@[simp] theorem putS_kind (i : Nat) (x : Word) : (putS s i x).kind = s.kind := rfl
@[simp] theorem putS_others (i : Nat) (x : Word) : (putS s i x).others = s.others := rfl
@[simp] theorem putS_tiles (i : Nat) (x : Word) : (putS s i x).tiles = s.tiles := rfl
@[simp] theorem putS_arr (i : Nat) (x : Word) : (putS s i x).arr = s.arr := rfl
@[simp] theorem putS_stamps (i : Nat) (x : Word) : (putS s i x).stamps = s.stamps := rfl
@[simp] theorem putS_fills (i : Nat) (x : Word) : (putS s i x).fills = s.fills := rfl
@[simp] theorem putS_pmem (i : Nat) (x : Word) : (putS s i x).pmem = s.pmem := rfl
@[simp] theorem putS_poison (i : Nat) (x : Word) : (putS s i x).poison = s.poison := rfl
@[simp] theorem putS_ck (i : Nat) (x : Word) : (putS s i x).ck = s.ck := rfl
@[simp] theorem putS_agenda (i : Nat) (x : Word) : (putS s i x).agenda = s.agenda := rfl
@[simp] theorem putS_fresh (i : Nat) (x : Word) : (putS s i x).fresh = s.fresh := rfl
@[simp] theorem putS_gangView (i : Nat) (x : Word) : (putS s i x).gangView = s.gangView := rfl
@[simp] theorem putS_net (i : Nat) (x : Word) : (putS s i x).net = s.net := rfl
@[simp] theorem putS_side (i : Nat) (x : Word) : (putS s i x).side = s.side := rfl
@[simp] theorem putS_coh (i : Nat) (x : Word) : (putS s i x).coh = s.coh := rfl
@[simp] theorem putS_logs (i : Nat) (x : Word) : (putS s i x).logs = s.logs := rfl
@[simp] theorem putS_taken (i : Nat) (x : Word) : (putS s i x).taken = s.taken := rfl
@[simp] theorem putS_tsu (i : Nat) (x : Word) : (putS s i x).tsu = s.tsu := rfl
@[simp] theorem putS_lds (i : Nat) (x : Word) : (putS s i x).lds = s.lds := rfl
@[simp] theorem putS_eva (i : Nat) (x : Word) : (putS s i x).eva = s.eva := rfl
@[simp] theorem putS_ramp (i : Nat) (x : Word) : (putS s i x).ramp = s.ramp := rfl
@[simp] theorem putS_sgvAt (i : Nat) (x : Word) : (putS s i x).sgvAt = s.sgvAt := rfl
@[simp] theorem putS_mgmt (i : Nat) (x : Word) : (putS s i x).mgmt = s.mgmt := rfl
@[simp] theorem putS_hostOut (i : Nat) (x : Word) : (putS s i x).hostOut = s.hostOut := rfl
@[simp] theorem putS_frames (i : Nat) (x : Word) : (putS s i x).frames = s.frames := rfl

/-! `putV`. -/

@[simp] theorem putV_cur (i : Nat) (x : Vec) : (putV s i x).cur = s.cur := rfl
@[simp] theorem putV_kind (i : Nat) (x : Vec) : (putV s i x).kind = s.kind := rfl
@[simp] theorem putV_others (i : Nat) (x : Vec) : (putV s i x).others = s.others := rfl
@[simp] theorem putV_tiles (i : Nat) (x : Vec) : (putV s i x).tiles = s.tiles := rfl
@[simp] theorem putV_arr (i : Nat) (x : Vec) : (putV s i x).arr = s.arr := rfl
@[simp] theorem putV_stamps (i : Nat) (x : Vec) : (putV s i x).stamps = s.stamps := rfl
@[simp] theorem putV_fills (i : Nat) (x : Vec) : (putV s i x).fills = s.fills := rfl
@[simp] theorem putV_pmem (i : Nat) (x : Vec) : (putV s i x).pmem = s.pmem := rfl
@[simp] theorem putV_poison (i : Nat) (x : Vec) : (putV s i x).poison = s.poison := rfl
@[simp] theorem putV_ck (i : Nat) (x : Vec) : (putV s i x).ck = s.ck := rfl
@[simp] theorem putV_agenda (i : Nat) (x : Vec) : (putV s i x).agenda = s.agenda := rfl
@[simp] theorem putV_fresh (i : Nat) (x : Vec) : (putV s i x).fresh = s.fresh := rfl
@[simp] theorem putV_gangView (i : Nat) (x : Vec) : (putV s i x).gangView = s.gangView := rfl
@[simp] theorem putV_net (i : Nat) (x : Vec) : (putV s i x).net = s.net := rfl
@[simp] theorem putV_side (i : Nat) (x : Vec) : (putV s i x).side = s.side := rfl
@[simp] theorem putV_coh (i : Nat) (x : Vec) : (putV s i x).coh = s.coh := rfl
@[simp] theorem putV_logs (i : Nat) (x : Vec) : (putV s i x).logs = s.logs := rfl
@[simp] theorem putV_taken (i : Nat) (x : Vec) : (putV s i x).taken = s.taken := rfl
@[simp] theorem putV_tsu (i : Nat) (x : Vec) : (putV s i x).tsu = s.tsu := rfl
@[simp] theorem putV_lds (i : Nat) (x : Vec) : (putV s i x).lds = s.lds := rfl
@[simp] theorem putV_eva (i : Nat) (x : Vec) : (putV s i x).eva = s.eva := rfl
@[simp] theorem putV_ramp (i : Nat) (x : Vec) : (putV s i x).ramp = s.ramp := rfl
@[simp] theorem putV_sgvAt (i : Nat) (x : Vec) : (putV s i x).sgvAt = s.sgvAt := rfl
@[simp] theorem putV_mgmt (i : Nat) (x : Vec) : (putV s i x).mgmt = s.mgmt := rfl
@[simp] theorem putV_hostOut (i : Nat) (x : Vec) : (putV s i x).hostOut = s.hostOut := rfl
@[simp] theorem putV_frames (i : Nat) (x : Vec) : (putV s i x).frames = s.frames := rfl

/-! `putM`. -/

@[simp] theorem putM_cur (i : Nat) (x : Word) : (putM s i x).cur = s.cur := rfl
@[simp] theorem putM_kind (i : Nat) (x : Word) : (putM s i x).kind = s.kind := rfl
@[simp] theorem putM_others (i : Nat) (x : Word) : (putM s i x).others = s.others := rfl
@[simp] theorem putM_tiles (i : Nat) (x : Word) : (putM s i x).tiles = s.tiles := rfl
@[simp] theorem putM_arr (i : Nat) (x : Word) : (putM s i x).arr = s.arr := rfl
@[simp] theorem putM_stamps (i : Nat) (x : Word) : (putM s i x).stamps = s.stamps := rfl
@[simp] theorem putM_fills (i : Nat) (x : Word) : (putM s i x).fills = s.fills := rfl
@[simp] theorem putM_pmem (i : Nat) (x : Word) : (putM s i x).pmem = s.pmem := rfl
@[simp] theorem putM_poison (i : Nat) (x : Word) : (putM s i x).poison = s.poison := rfl
@[simp] theorem putM_ck (i : Nat) (x : Word) : (putM s i x).ck = s.ck := rfl
@[simp] theorem putM_agenda (i : Nat) (x : Word) : (putM s i x).agenda = s.agenda := rfl
@[simp] theorem putM_fresh (i : Nat) (x : Word) : (putM s i x).fresh = s.fresh := rfl
@[simp] theorem putM_gangView (i : Nat) (x : Word) : (putM s i x).gangView = s.gangView := rfl
@[simp] theorem putM_net (i : Nat) (x : Word) : (putM s i x).net = s.net := rfl
@[simp] theorem putM_side (i : Nat) (x : Word) : (putM s i x).side = s.side := rfl
@[simp] theorem putM_coh (i : Nat) (x : Word) : (putM s i x).coh = s.coh := rfl
@[simp] theorem putM_logs (i : Nat) (x : Word) : (putM s i x).logs = s.logs := rfl
@[simp] theorem putM_taken (i : Nat) (x : Word) : (putM s i x).taken = s.taken := rfl
@[simp] theorem putM_tsu (i : Nat) (x : Word) : (putM s i x).tsu = s.tsu := rfl
@[simp] theorem putM_lds (i : Nat) (x : Word) : (putM s i x).lds = s.lds := rfl
@[simp] theorem putM_eva (i : Nat) (x : Word) : (putM s i x).eva = s.eva := rfl
@[simp] theorem putM_ramp (i : Nat) (x : Word) : (putM s i x).ramp = s.ramp := rfl
@[simp] theorem putM_sgvAt (i : Nat) (x : Word) : (putM s i x).sgvAt = s.sgvAt := rfl
@[simp] theorem putM_mgmt (i : Nat) (x : Word) : (putM s i x).mgmt = s.mgmt := rfl
@[simp] theorem putM_hostOut (i : Nat) (x : Word) : (putM s i x).hostOut = s.hostOut := rfl
@[simp] theorem putM_frames (i : Nat) (x : Word) : (putM s i x).frames = s.frames := rfl

/-! `retire`. -/

@[simp] theorem retire_cur : (retire s).cur = s.cur := rfl
@[simp] theorem retire_kind : (retire s).kind = s.kind := rfl
@[simp] theorem retire_others : (retire s).others = s.others := rfl
@[simp] theorem retire_tiles : (retire s).tiles = s.tiles := rfl
@[simp] theorem retire_arr : (retire s).arr = s.arr := rfl
@[simp] theorem retire_stamps : (retire s).stamps = s.stamps := rfl
@[simp] theorem retire_fills : (retire s).fills = s.fills := rfl
@[simp] theorem retire_pmem : (retire s).pmem = s.pmem := rfl
@[simp] theorem retire_poison : (retire s).poison = s.poison := rfl
@[simp] theorem retire_ck : (retire s).ck = s.ck := rfl
@[simp] theorem retire_agenda : (retire s).agenda = s.agenda := rfl
@[simp] theorem retire_fresh : (retire s).fresh = s.fresh := rfl
@[simp] theorem retire_gangView : (retire s).gangView = s.gangView := rfl
@[simp] theorem retire_net : (retire s).net = s.net := rfl
@[simp] theorem retire_side : (retire s).side = s.side := rfl
@[simp] theorem retire_coh : (retire s).coh = s.coh := rfl
@[simp] theorem retire_logs : (retire s).logs = s.logs := rfl
@[simp] theorem retire_taken : (retire s).taken = s.taken := rfl
@[simp] theorem retire_tsu : (retire s).tsu = s.tsu := rfl
@[simp] theorem retire_lds : (retire s).lds = s.lds := rfl
@[simp] theorem retire_eva : (retire s).eva = s.eva := rfl
@[simp] theorem retire_ramp : (retire s).ramp = s.ramp := rfl
@[simp] theorem retire_sgvAt : (retire s).sgvAt = s.sgvAt := rfl
@[simp] theorem retire_mgmt : (retire s).mgmt = s.mgmt := rfl
@[simp] theorem retire_hostOut : (retire s).hostOut = s.hostOut := rfl
@[simp] theorem retire_frames : (retire s).frames = s.frames := rfl

/-! `retireTo`. -/

@[simp] theorem retireTo_cur (t : Word) : (retireTo s t).cur = s.cur := rfl
@[simp] theorem retireTo_kind (t : Word) : (retireTo s t).kind = s.kind := rfl
@[simp] theorem retireTo_others (t : Word) : (retireTo s t).others = s.others := rfl
@[simp] theorem retireTo_tiles (t : Word) : (retireTo s t).tiles = s.tiles := rfl
@[simp] theorem retireTo_arr (t : Word) : (retireTo s t).arr = s.arr := rfl
@[simp] theorem retireTo_stamps (t : Word) : (retireTo s t).stamps = s.stamps := rfl
@[simp] theorem retireTo_fills (t : Word) : (retireTo s t).fills = s.fills := rfl
@[simp] theorem retireTo_pmem (t : Word) : (retireTo s t).pmem = s.pmem := rfl
@[simp] theorem retireTo_poison (t : Word) : (retireTo s t).poison = s.poison := rfl
@[simp] theorem retireTo_ck (t : Word) : (retireTo s t).ck = s.ck := rfl
@[simp] theorem retireTo_agenda (t : Word) : (retireTo s t).agenda = s.agenda := rfl
@[simp] theorem retireTo_fresh (t : Word) : (retireTo s t).fresh = s.fresh := rfl
@[simp] theorem retireTo_gangView (t : Word) : (retireTo s t).gangView = s.gangView := rfl
@[simp] theorem retireTo_net (t : Word) : (retireTo s t).net = s.net := rfl
@[simp] theorem retireTo_side (t : Word) : (retireTo s t).side = s.side := rfl
@[simp] theorem retireTo_coh (t : Word) : (retireTo s t).coh = s.coh := rfl
@[simp] theorem retireTo_logs (t : Word) : (retireTo s t).logs = s.logs := rfl
@[simp] theorem retireTo_taken (t : Word) : (retireTo s t).taken = s.taken := rfl
@[simp] theorem retireTo_tsu (t : Word) : (retireTo s t).tsu = s.tsu := rfl
@[simp] theorem retireTo_lds (t : Word) : (retireTo s t).lds = s.lds := rfl
@[simp] theorem retireTo_eva (t : Word) : (retireTo s t).eva = s.eva := rfl
@[simp] theorem retireTo_ramp (t : Word) : (retireTo s t).ramp = s.ramp := rfl
@[simp] theorem retireTo_sgvAt (t : Word) : (retireTo s t).sgvAt = s.sgvAt := rfl
@[simp] theorem retireTo_mgmt (t : Word) : (retireTo s t).mgmt = s.mgmt := rfl
@[simp] theorem retireTo_hostOut (t : Word) : (retireTo s t).hostOut = s.hostOut := rfl
@[simp] theorem retireTo_frames (t : Word) : (retireTo s t).frames = s.frames := rfl

/-! `blocked`. -/

@[simp] theorem blocked_cur : (blocked s).cur = s.cur := rfl
@[simp] theorem blocked_kind : (blocked s).kind = s.kind := rfl
@[simp] theorem blocked_others : (blocked s).others = s.others := rfl
@[simp] theorem blocked_tiles : (blocked s).tiles = s.tiles := rfl
@[simp] theorem blocked_arr : (blocked s).arr = s.arr := rfl
@[simp] theorem blocked_stamps : (blocked s).stamps = s.stamps := rfl
@[simp] theorem blocked_fills : (blocked s).fills = s.fills := rfl
@[simp] theorem blocked_pmem : (blocked s).pmem = s.pmem := rfl
@[simp] theorem blocked_poison : (blocked s).poison = s.poison := rfl
@[simp] theorem blocked_ck : (blocked s).ck = s.ck := rfl
@[simp] theorem blocked_agenda : (blocked s).agenda = s.agenda := rfl
@[simp] theorem blocked_fresh : (blocked s).fresh = s.fresh := rfl
@[simp] theorem blocked_gangView : (blocked s).gangView = s.gangView := rfl
@[simp] theorem blocked_net : (blocked s).net = s.net := rfl
@[simp] theorem blocked_side : (blocked s).side = s.side := rfl
@[simp] theorem blocked_coh : (blocked s).coh = s.coh := rfl
@[simp] theorem blocked_logs : (blocked s).logs = s.logs := rfl
@[simp] theorem blocked_taken : (blocked s).taken = s.taken := rfl
@[simp] theorem blocked_tsu : (blocked s).tsu = s.tsu := rfl
@[simp] theorem blocked_lds : (blocked s).lds = s.lds := rfl
@[simp] theorem blocked_eva : (blocked s).eva = s.eva := rfl
@[simp] theorem blocked_ramp : (blocked s).ramp = s.ramp := rfl
@[simp] theorem blocked_sgvAt : (blocked s).sgvAt = s.sgvAt := rfl
@[simp] theorem blocked_mgmt : (blocked s).mgmt = s.mgmt := rfl
@[simp] theorem blocked_hostOut : (blocked s).hostOut = s.hostOut := rfl
@[simp] theorem blocked_frames : (blocked s).frames = s.frames := rfl

/-! `waiting`. -/

@[simp] theorem waiting_cur (w : Wait) : (waiting s w).cur = s.cur := rfl
@[simp] theorem waiting_kind (w : Wait) : (waiting s w).kind = s.kind := rfl
@[simp] theorem waiting_others (w : Wait) : (waiting s w).others = s.others := rfl
@[simp] theorem waiting_tiles (w : Wait) : (waiting s w).tiles = s.tiles := rfl
@[simp] theorem waiting_arr (w : Wait) : (waiting s w).arr = s.arr := rfl
@[simp] theorem waiting_stamps (w : Wait) : (waiting s w).stamps = s.stamps := rfl
@[simp] theorem waiting_fills (w : Wait) : (waiting s w).fills = s.fills := rfl
@[simp] theorem waiting_pmem (w : Wait) : (waiting s w).pmem = s.pmem := rfl
@[simp] theorem waiting_poison (w : Wait) : (waiting s w).poison = s.poison := rfl
@[simp] theorem waiting_ck (w : Wait) : (waiting s w).ck = s.ck := rfl
@[simp] theorem waiting_agenda (w : Wait) : (waiting s w).agenda = s.agenda := rfl
@[simp] theorem waiting_fresh (w : Wait) : (waiting s w).fresh = s.fresh := rfl
@[simp] theorem waiting_gangView (w : Wait) : (waiting s w).gangView = s.gangView := rfl
@[simp] theorem waiting_net (w : Wait) : (waiting s w).net = s.net := rfl
@[simp] theorem waiting_side (w : Wait) : (waiting s w).side = s.side := rfl
@[simp] theorem waiting_coh (w : Wait) : (waiting s w).coh = s.coh := rfl
@[simp] theorem waiting_logs (w : Wait) : (waiting s w).logs = s.logs := rfl
@[simp] theorem waiting_taken (w : Wait) : (waiting s w).taken = s.taken := rfl
@[simp] theorem waiting_tsu (w : Wait) : (waiting s w).tsu = s.tsu := rfl
@[simp] theorem waiting_lds (w : Wait) : (waiting s w).lds = s.lds := rfl
@[simp] theorem waiting_eva (w : Wait) : (waiting s w).eva = s.eva := rfl
@[simp] theorem waiting_ramp (w : Wait) : (waiting s w).ramp = s.ramp := rfl
@[simp] theorem waiting_sgvAt (w : Wait) : (waiting s w).sgvAt = s.sgvAt := rfl
@[simp] theorem waiting_mgmt (w : Wait) : (waiting s w).mgmt = s.mgmt := rfl
@[simp] theorem waiting_hostOut (w : Wait) : (waiting s w).hostOut = s.hostOut := rfl
@[simp] theorem waiting_frames (w : Wait) : (waiting s w).frames = s.frames := rfl

/-! `setTile`. -/

@[simp] theorem setTile_cur (t : TileId) (x : Tile) : (setTile s t x).cur = s.cur := rfl
@[simp] theorem setTile_kind (t : TileId) (x : Tile) : (setTile s t x).kind = s.kind := rfl
@[simp] theorem setTile_core (t : TileId) (x : Tile) : (setTile s t x).core = s.core := rfl
@[simp] theorem setTile_others (t : TileId) (x : Tile) : (setTile s t x).others = s.others := rfl
@[simp] theorem setTile_arr (t : TileId) (x : Tile) : (setTile s t x).arr = s.arr := rfl
@[simp] theorem setTile_stamps (t : TileId) (x : Tile) : (setTile s t x).stamps = s.stamps := rfl
@[simp] theorem setTile_fills (t : TileId) (x : Tile) : (setTile s t x).fills = s.fills := rfl
@[simp] theorem setTile_pmem (t : TileId) (x : Tile) : (setTile s t x).pmem = s.pmem := rfl
@[simp] theorem setTile_poison (t : TileId) (x : Tile) : (setTile s t x).poison = s.poison := rfl
@[simp] theorem setTile_ck (t : TileId) (x : Tile) : (setTile s t x).ck = s.ck := rfl
@[simp] theorem setTile_agenda (t : TileId) (x : Tile) : (setTile s t x).agenda = s.agenda := rfl
@[simp] theorem setTile_fresh (t : TileId) (x : Tile) : (setTile s t x).fresh = s.fresh := rfl
@[simp] theorem setTile_gangView (t : TileId) (x : Tile) : (setTile s t x).gangView = s.gangView := rfl
@[simp] theorem setTile_net (t : TileId) (x : Tile) : (setTile s t x).net = s.net := rfl
@[simp] theorem setTile_side (t : TileId) (x : Tile) : (setTile s t x).side = s.side := rfl
@[simp] theorem setTile_coh (t : TileId) (x : Tile) : (setTile s t x).coh = s.coh := rfl
@[simp] theorem setTile_logs (t : TileId) (x : Tile) : (setTile s t x).logs = s.logs := rfl
@[simp] theorem setTile_taken (t : TileId) (x : Tile) : (setTile s t x).taken = s.taken := rfl
@[simp] theorem setTile_tsu (t : TileId) (x : Tile) : (setTile s t x).tsu = s.tsu := rfl
@[simp] theorem setTile_lds (t : TileId) (x : Tile) : (setTile s t x).lds = s.lds := rfl
@[simp] theorem setTile_eva (t : TileId) (x : Tile) : (setTile s t x).eva = s.eva := rfl
@[simp] theorem setTile_ramp (t : TileId) (x : Tile) : (setTile s t x).ramp = s.ramp := rfl
@[simp] theorem setTile_sgvAt (t : TileId) (x : Tile) : (setTile s t x).sgvAt = s.sgvAt := rfl
@[simp] theorem setTile_mgmt (t : TileId) (x : Tile) : (setTile s t x).mgmt = s.mgmt := rfl
@[simp] theorem setTile_hostOut (t : TileId) (x : Tile) : (setTile s t x).hostOut = s.hostOut := rfl
@[simp] theorem setTile_frames (t : TileId) (x : Tile) : (setTile s t x).frames = s.frames := rfl

/-! `modTile`. -/

@[simp] theorem modTile_cur (t : TileId) (f : Tile → Tile) : (modTile s t f).cur = s.cur := rfl
@[simp] theorem modTile_kind (t : TileId) (f : Tile → Tile) : (modTile s t f).kind = s.kind := rfl
@[simp] theorem modTile_core (t : TileId) (f : Tile → Tile) : (modTile s t f).core = s.core := rfl
@[simp] theorem modTile_others (t : TileId) (f : Tile → Tile) : (modTile s t f).others = s.others := rfl
@[simp] theorem modTile_arr (t : TileId) (f : Tile → Tile) : (modTile s t f).arr = s.arr := rfl
@[simp] theorem modTile_stamps (t : TileId) (f : Tile → Tile) : (modTile s t f).stamps = s.stamps := rfl
@[simp] theorem modTile_fills (t : TileId) (f : Tile → Tile) : (modTile s t f).fills = s.fills := rfl
@[simp] theorem modTile_pmem (t : TileId) (f : Tile → Tile) : (modTile s t f).pmem = s.pmem := rfl
@[simp] theorem modTile_poison (t : TileId) (f : Tile → Tile) : (modTile s t f).poison = s.poison := rfl
@[simp] theorem modTile_ck (t : TileId) (f : Tile → Tile) : (modTile s t f).ck = s.ck := rfl
@[simp] theorem modTile_agenda (t : TileId) (f : Tile → Tile) : (modTile s t f).agenda = s.agenda := rfl
@[simp] theorem modTile_fresh (t : TileId) (f : Tile → Tile) : (modTile s t f).fresh = s.fresh := rfl
@[simp] theorem modTile_gangView (t : TileId) (f : Tile → Tile) : (modTile s t f).gangView = s.gangView := rfl
@[simp] theorem modTile_net (t : TileId) (f : Tile → Tile) : (modTile s t f).net = s.net := rfl
@[simp] theorem modTile_side (t : TileId) (f : Tile → Tile) : (modTile s t f).side = s.side := rfl
@[simp] theorem modTile_coh (t : TileId) (f : Tile → Tile) : (modTile s t f).coh = s.coh := rfl
@[simp] theorem modTile_logs (t : TileId) (f : Tile → Tile) : (modTile s t f).logs = s.logs := rfl
@[simp] theorem modTile_taken (t : TileId) (f : Tile → Tile) : (modTile s t f).taken = s.taken := rfl
@[simp] theorem modTile_tsu (t : TileId) (f : Tile → Tile) : (modTile s t f).tsu = s.tsu := rfl
@[simp] theorem modTile_lds (t : TileId) (f : Tile → Tile) : (modTile s t f).lds = s.lds := rfl
@[simp] theorem modTile_eva (t : TileId) (f : Tile → Tile) : (modTile s t f).eva = s.eva := rfl
@[simp] theorem modTile_ramp (t : TileId) (f : Tile → Tile) : (modTile s t f).ramp = s.ramp := rfl
@[simp] theorem modTile_sgvAt (t : TileId) (f : Tile → Tile) : (modTile s t f).sgvAt = s.sgvAt := rfl
@[simp] theorem modTile_mgmt (t : TileId) (f : Tile → Tile) : (modTile s t f).mgmt = s.mgmt := rfl
@[simp] theorem modTile_hostOut (t : TileId) (f : Tile → Tile) : (modTile s t f).hostOut = s.hostOut := rfl
@[simp] theorem modTile_frames (t : TileId) (f : Tile → Tile) : (modTile s t f).frames = s.frames := rfl

/-! `sendRec`. -/

@[simp] theorem sendRec_cur (r : Rec) : (sendRec s r).cur = s.cur := rfl
@[simp] theorem sendRec_kind (r : Rec) : (sendRec s r).kind = s.kind := rfl
@[simp] theorem sendRec_core (r : Rec) : (sendRec s r).core = s.core := rfl
@[simp] theorem sendRec_others (r : Rec) : (sendRec s r).others = s.others := rfl
@[simp] theorem sendRec_tiles (r : Rec) : (sendRec s r).tiles = s.tiles := rfl
@[simp] theorem sendRec_arr (r : Rec) : (sendRec s r).arr = s.arr := rfl
@[simp] theorem sendRec_stamps (r : Rec) : (sendRec s r).stamps = s.stamps := rfl
@[simp] theorem sendRec_fills (r : Rec) : (sendRec s r).fills = s.fills := rfl
@[simp] theorem sendRec_pmem (r : Rec) : (sendRec s r).pmem = s.pmem := rfl
@[simp] theorem sendRec_poison (r : Rec) : (sendRec s r).poison = s.poison := rfl
@[simp] theorem sendRec_ck (r : Rec) : (sendRec s r).ck = s.ck := rfl
@[simp] theorem sendRec_agenda (r : Rec) : (sendRec s r).agenda = s.agenda := rfl
@[simp] theorem sendRec_fresh (r : Rec) : (sendRec s r).fresh = s.fresh := rfl
@[simp] theorem sendRec_gangView (r : Rec) : (sendRec s r).gangView = s.gangView := rfl
@[simp] theorem sendRec_net (r : Rec) : (sendRec s r).net = s.net := rfl
@[simp] theorem sendRec_side (r : Rec) : (sendRec s r).side = s.side := rfl
@[simp] theorem sendRec_coh (r : Rec) : (sendRec s r).coh = s.coh := rfl
@[simp] theorem sendRec_logs (r : Rec) : (sendRec s r).logs = s.logs := rfl
@[simp] theorem sendRec_taken (r : Rec) : (sendRec s r).taken = s.taken := rfl
@[simp] theorem sendRec_tsu (r : Rec) : (sendRec s r).tsu = s.tsu := rfl
@[simp] theorem sendRec_lds (r : Rec) : (sendRec s r).lds = s.lds := rfl
@[simp] theorem sendRec_ramp (r : Rec) : (sendRec s r).ramp = s.ramp := rfl
@[simp] theorem sendRec_sgvAt (r : Rec) : (sendRec s r).sgvAt = s.sgvAt := rfl
@[simp] theorem sendRec_mgmt (r : Rec) : (sendRec s r).mgmt = s.mgmt := rfl
@[simp] theorem sendRec_hostOut (r : Rec) : (sendRec s r).hostOut = s.hostOut := rfl
@[simp] theorem sendRec_frames (r : Rec) : (sendRec s r).frames = s.frames := rfl

/-! `coreRec`. -/

@[simp] theorem coreRec_cur (k : CoreId) (n : Nat) (c : BitVec 8) (tag : BitVec 16) (x y : Word) : (coreRec s k n c tag x y).cur = s.cur := rfl
@[simp] theorem coreRec_kind (k : CoreId) (n : Nat) (c : BitVec 8) (tag : BitVec 16) (x y : Word) : (coreRec s k n c tag x y).kind = s.kind := rfl
@[simp] theorem coreRec_core (k : CoreId) (n : Nat) (c : BitVec 8) (tag : BitVec 16) (x y : Word) : (coreRec s k n c tag x y).core = s.core := rfl
@[simp] theorem coreRec_others (k : CoreId) (n : Nat) (c : BitVec 8) (tag : BitVec 16) (x y : Word) : (coreRec s k n c tag x y).others = s.others := rfl
@[simp] theorem coreRec_tiles (k : CoreId) (n : Nat) (c : BitVec 8) (tag : BitVec 16) (x y : Word) : (coreRec s k n c tag x y).tiles = s.tiles := rfl
@[simp] theorem coreRec_arr (k : CoreId) (n : Nat) (c : BitVec 8) (tag : BitVec 16) (x y : Word) : (coreRec s k n c tag x y).arr = s.arr := rfl
@[simp] theorem coreRec_stamps (k : CoreId) (n : Nat) (c : BitVec 8) (tag : BitVec 16) (x y : Word) : (coreRec s k n c tag x y).stamps = s.stamps := rfl
@[simp] theorem coreRec_fills (k : CoreId) (n : Nat) (c : BitVec 8) (tag : BitVec 16) (x y : Word) : (coreRec s k n c tag x y).fills = s.fills := rfl
@[simp] theorem coreRec_pmem (k : CoreId) (n : Nat) (c : BitVec 8) (tag : BitVec 16) (x y : Word) : (coreRec s k n c tag x y).pmem = s.pmem := rfl
@[simp] theorem coreRec_poison (k : CoreId) (n : Nat) (c : BitVec 8) (tag : BitVec 16) (x y : Word) : (coreRec s k n c tag x y).poison = s.poison := rfl
@[simp] theorem coreRec_ck (k : CoreId) (n : Nat) (c : BitVec 8) (tag : BitVec 16) (x y : Word) : (coreRec s k n c tag x y).ck = s.ck := rfl
@[simp] theorem coreRec_agenda (k : CoreId) (n : Nat) (c : BitVec 8) (tag : BitVec 16) (x y : Word) : (coreRec s k n c tag x y).agenda = s.agenda := rfl
@[simp] theorem coreRec_fresh (k : CoreId) (n : Nat) (c : BitVec 8) (tag : BitVec 16) (x y : Word) : (coreRec s k n c tag x y).fresh = s.fresh := rfl
@[simp] theorem coreRec_gangView (k : CoreId) (n : Nat) (c : BitVec 8) (tag : BitVec 16) (x y : Word) : (coreRec s k n c tag x y).gangView = s.gangView := rfl
@[simp] theorem coreRec_net (k : CoreId) (n : Nat) (c : BitVec 8) (tag : BitVec 16) (x y : Word) : (coreRec s k n c tag x y).net = s.net := rfl
@[simp] theorem coreRec_side (k : CoreId) (n : Nat) (c : BitVec 8) (tag : BitVec 16) (x y : Word) : (coreRec s k n c tag x y).side = s.side := rfl
@[simp] theorem coreRec_coh (k : CoreId) (n : Nat) (c : BitVec 8) (tag : BitVec 16) (x y : Word) : (coreRec s k n c tag x y).coh = s.coh := rfl
@[simp] theorem coreRec_logs (k : CoreId) (n : Nat) (c : BitVec 8) (tag : BitVec 16) (x y : Word) : (coreRec s k n c tag x y).logs = s.logs := rfl
@[simp] theorem coreRec_taken (k : CoreId) (n : Nat) (c : BitVec 8) (tag : BitVec 16) (x y : Word) : (coreRec s k n c tag x y).taken = s.taken := rfl
@[simp] theorem coreRec_tsu (k : CoreId) (n : Nat) (c : BitVec 8) (tag : BitVec 16) (x y : Word) : (coreRec s k n c tag x y).tsu = s.tsu := rfl
@[simp] theorem coreRec_lds (k : CoreId) (n : Nat) (c : BitVec 8) (tag : BitVec 16) (x y : Word) : (coreRec s k n c tag x y).lds = s.lds := rfl
@[simp] theorem coreRec_ramp (k : CoreId) (n : Nat) (c : BitVec 8) (tag : BitVec 16) (x y : Word) : (coreRec s k n c tag x y).ramp = s.ramp := rfl
@[simp] theorem coreRec_sgvAt (k : CoreId) (n : Nat) (c : BitVec 8) (tag : BitVec 16) (x y : Word) : (coreRec s k n c tag x y).sgvAt = s.sgvAt := rfl
@[simp] theorem coreRec_mgmt (k : CoreId) (n : Nat) (c : BitVec 8) (tag : BitVec 16) (x y : Word) : (coreRec s k n c tag x y).mgmt = s.mgmt := rfl
@[simp] theorem coreRec_hostOut (k : CoreId) (n : Nat) (c : BitVec 8) (tag : BitVec 16) (x y : Word) : (coreRec s k n c tag x y).hostOut = s.hostOut := rfl
@[simp] theorem coreRec_frames (k : CoreId) (n : Nat) (c : BitVec 8) (tag : BitVec 16) (x y : Word) : (coreRec s k n c tag x y).frames = s.frames := rfl

/-! `sendPkt`. -/

@[simp] theorem sendPkt_cur (p : Packet) : (sendPkt s p).cur = s.cur := rfl
@[simp] theorem sendPkt_kind (p : Packet) : (sendPkt s p).kind = s.kind := rfl
@[simp] theorem sendPkt_core (p : Packet) : (sendPkt s p).core = s.core := rfl
@[simp] theorem sendPkt_others (p : Packet) : (sendPkt s p).others = s.others := rfl
@[simp] theorem sendPkt_tiles (p : Packet) : (sendPkt s p).tiles = s.tiles := rfl
@[simp] theorem sendPkt_arr (p : Packet) : (sendPkt s p).arr = s.arr := rfl
@[simp] theorem sendPkt_stamps (p : Packet) : (sendPkt s p).stamps = s.stamps := rfl
@[simp] theorem sendPkt_fills (p : Packet) : (sendPkt s p).fills = s.fills := rfl
@[simp] theorem sendPkt_pmem (p : Packet) : (sendPkt s p).pmem = s.pmem := rfl
@[simp] theorem sendPkt_poison (p : Packet) : (sendPkt s p).poison = s.poison := rfl
@[simp] theorem sendPkt_ck (p : Packet) : (sendPkt s p).ck = s.ck := rfl
@[simp] theorem sendPkt_agenda (p : Packet) : (sendPkt s p).agenda = s.agenda := rfl
@[simp] theorem sendPkt_fresh (p : Packet) : (sendPkt s p).fresh = s.fresh := rfl
@[simp] theorem sendPkt_gangView (p : Packet) : (sendPkt s p).gangView = s.gangView := rfl
@[simp] theorem sendPkt_side (p : Packet) : (sendPkt s p).side = s.side := rfl
@[simp] theorem sendPkt_coh (p : Packet) : (sendPkt s p).coh = s.coh := rfl
@[simp] theorem sendPkt_logs (p : Packet) : (sendPkt s p).logs = s.logs := rfl
@[simp] theorem sendPkt_taken (p : Packet) : (sendPkt s p).taken = s.taken := rfl
@[simp] theorem sendPkt_tsu (p : Packet) : (sendPkt s p).tsu = s.tsu := rfl
@[simp] theorem sendPkt_lds (p : Packet) : (sendPkt s p).lds = s.lds := rfl
@[simp] theorem sendPkt_eva (p : Packet) : (sendPkt s p).eva = s.eva := rfl
@[simp] theorem sendPkt_ramp (p : Packet) : (sendPkt s p).ramp = s.ramp := rfl
@[simp] theorem sendPkt_sgvAt (p : Packet) : (sendPkt s p).sgvAt = s.sgvAt := rfl
@[simp] theorem sendPkt_mgmt (p : Packet) : (sendPkt s p).mgmt = s.mgmt := rfl
@[simp] theorem sendPkt_hostOut (p : Packet) : (sendPkt s p).hostOut = s.hostOut := rfl
@[simp] theorem sendPkt_frames (p : Packet) : (sendPkt s p).frames = s.frames := rfl

/-! `sendFrom`. -/

@[simp] theorem sendFrom_cur (k : CoreId) (b : Body) : (sendFrom s k b).cur = s.cur := rfl
@[simp] theorem sendFrom_kind (k : CoreId) (b : Body) : (sendFrom s k b).kind = s.kind := rfl
@[simp] theorem sendFrom_core (k : CoreId) (b : Body) : (sendFrom s k b).core = s.core := rfl
@[simp] theorem sendFrom_others (k : CoreId) (b : Body) : (sendFrom s k b).others = s.others := rfl
@[simp] theorem sendFrom_tiles (k : CoreId) (b : Body) : (sendFrom s k b).tiles = s.tiles := rfl
@[simp] theorem sendFrom_arr (k : CoreId) (b : Body) : (sendFrom s k b).arr = s.arr := rfl
@[simp] theorem sendFrom_stamps (k : CoreId) (b : Body) : (sendFrom s k b).stamps = s.stamps := rfl
@[simp] theorem sendFrom_fills (k : CoreId) (b : Body) : (sendFrom s k b).fills = s.fills := rfl
@[simp] theorem sendFrom_pmem (k : CoreId) (b : Body) : (sendFrom s k b).pmem = s.pmem := rfl
@[simp] theorem sendFrom_poison (k : CoreId) (b : Body) : (sendFrom s k b).poison = s.poison := rfl
@[simp] theorem sendFrom_ck (k : CoreId) (b : Body) : (sendFrom s k b).ck = s.ck := rfl
@[simp] theorem sendFrom_agenda (k : CoreId) (b : Body) : (sendFrom s k b).agenda = s.agenda := rfl
@[simp] theorem sendFrom_fresh (k : CoreId) (b : Body) : (sendFrom s k b).fresh = s.fresh := rfl
@[simp] theorem sendFrom_gangView (k : CoreId) (b : Body) : (sendFrom s k b).gangView = s.gangView := rfl
@[simp] theorem sendFrom_side (k : CoreId) (b : Body) : (sendFrom s k b).side = s.side := rfl
@[simp] theorem sendFrom_coh (k : CoreId) (b : Body) : (sendFrom s k b).coh = s.coh := rfl
@[simp] theorem sendFrom_logs (k : CoreId) (b : Body) : (sendFrom s k b).logs = s.logs := rfl
@[simp] theorem sendFrom_taken (k : CoreId) (b : Body) : (sendFrom s k b).taken = s.taken := rfl
@[simp] theorem sendFrom_tsu (k : CoreId) (b : Body) : (sendFrom s k b).tsu = s.tsu := rfl
@[simp] theorem sendFrom_lds (k : CoreId) (b : Body) : (sendFrom s k b).lds = s.lds := rfl
@[simp] theorem sendFrom_eva (k : CoreId) (b : Body) : (sendFrom s k b).eva = s.eva := rfl
@[simp] theorem sendFrom_ramp (k : CoreId) (b : Body) : (sendFrom s k b).ramp = s.ramp := rfl
@[simp] theorem sendFrom_sgvAt (k : CoreId) (b : Body) : (sendFrom s k b).sgvAt = s.sgvAt := rfl
@[simp] theorem sendFrom_mgmt (k : CoreId) (b : Body) : (sendFrom s k b).mgmt = s.mgmt := rfl
@[simp] theorem sendFrom_hostOut (k : CoreId) (b : Body) : (sendFrom s k b).hostOut = s.hostOut := rfl
@[simp] theorem sendFrom_frames (k : CoreId) (b : Body) : (sendFrom s k b).frames = s.frames := rfl

/-! `sendAs`. -/

@[simp] theorem sendAs_cur (k d : CoreId) (tag : BitVec 16) (b : Body) : (sendAs s k d tag b).cur = s.cur := rfl
@[simp] theorem sendAs_kind (k d : CoreId) (tag : BitVec 16) (b : Body) : (sendAs s k d tag b).kind = s.kind := rfl
@[simp] theorem sendAs_core (k d : CoreId) (tag : BitVec 16) (b : Body) : (sendAs s k d tag b).core = s.core := rfl
@[simp] theorem sendAs_others (k d : CoreId) (tag : BitVec 16) (b : Body) : (sendAs s k d tag b).others = s.others := rfl
@[simp] theorem sendAs_tiles (k d : CoreId) (tag : BitVec 16) (b : Body) : (sendAs s k d tag b).tiles = s.tiles := rfl
@[simp] theorem sendAs_arr (k d : CoreId) (tag : BitVec 16) (b : Body) : (sendAs s k d tag b).arr = s.arr := rfl
@[simp] theorem sendAs_stamps (k d : CoreId) (tag : BitVec 16) (b : Body) : (sendAs s k d tag b).stamps = s.stamps := rfl
@[simp] theorem sendAs_fills (k d : CoreId) (tag : BitVec 16) (b : Body) : (sendAs s k d tag b).fills = s.fills := rfl
@[simp] theorem sendAs_pmem (k d : CoreId) (tag : BitVec 16) (b : Body) : (sendAs s k d tag b).pmem = s.pmem := rfl
@[simp] theorem sendAs_poison (k d : CoreId) (tag : BitVec 16) (b : Body) : (sendAs s k d tag b).poison = s.poison := rfl
@[simp] theorem sendAs_ck (k d : CoreId) (tag : BitVec 16) (b : Body) : (sendAs s k d tag b).ck = s.ck := rfl
@[simp] theorem sendAs_agenda (k d : CoreId) (tag : BitVec 16) (b : Body) : (sendAs s k d tag b).agenda = s.agenda := rfl
@[simp] theorem sendAs_fresh (k d : CoreId) (tag : BitVec 16) (b : Body) : (sendAs s k d tag b).fresh = s.fresh := rfl
@[simp] theorem sendAs_gangView (k d : CoreId) (tag : BitVec 16) (b : Body) : (sendAs s k d tag b).gangView = s.gangView := rfl
@[simp] theorem sendAs_side (k d : CoreId) (tag : BitVec 16) (b : Body) : (sendAs s k d tag b).side = s.side := rfl
@[simp] theorem sendAs_coh (k d : CoreId) (tag : BitVec 16) (b : Body) : (sendAs s k d tag b).coh = s.coh := rfl
@[simp] theorem sendAs_logs (k d : CoreId) (tag : BitVec 16) (b : Body) : (sendAs s k d tag b).logs = s.logs := rfl
@[simp] theorem sendAs_taken (k d : CoreId) (tag : BitVec 16) (b : Body) : (sendAs s k d tag b).taken = s.taken := rfl
@[simp] theorem sendAs_tsu (k d : CoreId) (tag : BitVec 16) (b : Body) : (sendAs s k d tag b).tsu = s.tsu := rfl
@[simp] theorem sendAs_lds (k d : CoreId) (tag : BitVec 16) (b : Body) : (sendAs s k d tag b).lds = s.lds := rfl
@[simp] theorem sendAs_eva (k d : CoreId) (tag : BitVec 16) (b : Body) : (sendAs s k d tag b).eva = s.eva := rfl
@[simp] theorem sendAs_ramp (k d : CoreId) (tag : BitVec 16) (b : Body) : (sendAs s k d tag b).ramp = s.ramp := rfl
@[simp] theorem sendAs_sgvAt (k d : CoreId) (tag : BitVec 16) (b : Body) : (sendAs s k d tag b).sgvAt = s.sgvAt := rfl
@[simp] theorem sendAs_mgmt (k d : CoreId) (tag : BitVec 16) (b : Body) : (sendAs s k d tag b).mgmt = s.mgmt := rfl
@[simp] theorem sendAs_hostOut (k d : CoreId) (tag : BitVec 16) (b : Body) : (sendAs s k d tag b).hostOut = s.hostOut := rfl
@[simp] theorem sendAs_frames (k d : CoreId) (tag : BitVec 16) (b : Body) : (sendAs s k d tag b).frames = s.frames := rfl

/-! `modWin`. -/

@[simp] theorem modWin_cur (i : Nat) (f : Window → Window) : (modWin s i f).cur = s.cur := rfl
@[simp] theorem modWin_kind (i : Nat) (f : Window → Window) : (modWin s i f).kind = s.kind := rfl
@[simp] theorem modWin_others (i : Nat) (f : Window → Window) : (modWin s i f).others = s.others := rfl
@[simp] theorem modWin_tiles (i : Nat) (f : Window → Window) : (modWin s i f).tiles = s.tiles := rfl
@[simp] theorem modWin_arr (i : Nat) (f : Window → Window) : (modWin s i f).arr = s.arr := rfl
@[simp] theorem modWin_stamps (i : Nat) (f : Window → Window) : (modWin s i f).stamps = s.stamps := rfl
@[simp] theorem modWin_fills (i : Nat) (f : Window → Window) : (modWin s i f).fills = s.fills := rfl
@[simp] theorem modWin_pmem (i : Nat) (f : Window → Window) : (modWin s i f).pmem = s.pmem := rfl
@[simp] theorem modWin_poison (i : Nat) (f : Window → Window) : (modWin s i f).poison = s.poison := rfl
@[simp] theorem modWin_ck (i : Nat) (f : Window → Window) : (modWin s i f).ck = s.ck := rfl
@[simp] theorem modWin_agenda (i : Nat) (f : Window → Window) : (modWin s i f).agenda = s.agenda := rfl
@[simp] theorem modWin_fresh (i : Nat) (f : Window → Window) : (modWin s i f).fresh = s.fresh := rfl
@[simp] theorem modWin_gangView (i : Nat) (f : Window → Window) : (modWin s i f).gangView = s.gangView := rfl
@[simp] theorem modWin_net (i : Nat) (f : Window → Window) : (modWin s i f).net = s.net := rfl
@[simp] theorem modWin_side (i : Nat) (f : Window → Window) : (modWin s i f).side = s.side := rfl
@[simp] theorem modWin_coh (i : Nat) (f : Window → Window) : (modWin s i f).coh = s.coh := rfl
@[simp] theorem modWin_logs (i : Nat) (f : Window → Window) : (modWin s i f).logs = s.logs := rfl
@[simp] theorem modWin_taken (i : Nat) (f : Window → Window) : (modWin s i f).taken = s.taken := rfl
@[simp] theorem modWin_tsu (i : Nat) (f : Window → Window) : (modWin s i f).tsu = s.tsu := rfl
@[simp] theorem modWin_lds (i : Nat) (f : Window → Window) : (modWin s i f).lds = s.lds := rfl
@[simp] theorem modWin_eva (i : Nat) (f : Window → Window) : (modWin s i f).eva = s.eva := rfl
@[simp] theorem modWin_ramp (i : Nat) (f : Window → Window) : (modWin s i f).ramp = s.ramp := rfl
@[simp] theorem modWin_sgvAt (i : Nat) (f : Window → Window) : (modWin s i f).sgvAt = s.sgvAt := rfl
@[simp] theorem modWin_mgmt (i : Nat) (f : Window → Window) : (modWin s i f).mgmt = s.mgmt := rfl
@[simp] theorem modWin_hostOut (i : Nat) (f : Window → Window) : (modWin s i f).hostOut = s.hostOut := rfl
@[simp] theorem modWin_frames (i : Nat) (f : Window → Window) : (modWin s i f).frames = s.frames := rfl

/-! `returnSeq`. -/

@[simp] theorem returnSeq_cur : (returnSeq s).cur = s.cur := rfl
@[simp] theorem returnSeq_kind : (returnSeq s).kind = s.kind := rfl
@[simp] theorem returnSeq_others : (returnSeq s).others = s.others := rfl
@[simp] theorem returnSeq_tiles : (returnSeq s).tiles = s.tiles := rfl
@[simp] theorem returnSeq_arr : (returnSeq s).arr = s.arr := rfl
@[simp] theorem returnSeq_stamps : (returnSeq s).stamps = s.stamps := rfl
@[simp] theorem returnSeq_fills : (returnSeq s).fills = s.fills := rfl
@[simp] theorem returnSeq_pmem : (returnSeq s).pmem = s.pmem := rfl
@[simp] theorem returnSeq_poison : (returnSeq s).poison = s.poison := rfl
@[simp] theorem returnSeq_ck : (returnSeq s).ck = s.ck := rfl
@[simp] theorem returnSeq_agenda : (returnSeq s).agenda = s.agenda := rfl
@[simp] theorem returnSeq_fresh : (returnSeq s).fresh = s.fresh := rfl
@[simp] theorem returnSeq_gangView : (returnSeq s).gangView = s.gangView := rfl
@[simp] theorem returnSeq_net : (returnSeq s).net = s.net := rfl
@[simp] theorem returnSeq_side : (returnSeq s).side = s.side := rfl
@[simp] theorem returnSeq_coh : (returnSeq s).coh = s.coh := rfl
@[simp] theorem returnSeq_logs : (returnSeq s).logs = s.logs := rfl
@[simp] theorem returnSeq_taken : (returnSeq s).taken = s.taken := rfl
@[simp] theorem returnSeq_tsu : (returnSeq s).tsu = s.tsu := rfl
@[simp] theorem returnSeq_lds : (returnSeq s).lds = s.lds := rfl
@[simp] theorem returnSeq_eva : (returnSeq s).eva = s.eva := rfl
@[simp] theorem returnSeq_ramp : (returnSeq s).ramp = s.ramp := rfl
@[simp] theorem returnSeq_sgvAt : (returnSeq s).sgvAt = s.sgvAt := rfl
@[simp] theorem returnSeq_mgmt : (returnSeq s).mgmt = s.mgmt := rfl
@[simp] theorem returnSeq_hostOut : (returnSeq s).hostOut = s.hostOut := rfl
@[simp] theorem returnSeq_frames : (returnSeq s).frames = s.frames := rfl

/-! `mirrorSlot`. -/

@[simp] theorem mirrorSlot_cur (k : CoreId) (j : Nat) (p : Option (BitVec 16)) : (mirrorSlot s k j p).cur = s.cur := rfl
@[simp] theorem mirrorSlot_kind (k : CoreId) (j : Nat) (p : Option (BitVec 16)) : (mirrorSlot s k j p).kind = s.kind := rfl
@[simp] theorem mirrorSlot_core (k : CoreId) (j : Nat) (p : Option (BitVec 16)) : (mirrorSlot s k j p).core = s.core := rfl
@[simp] theorem mirrorSlot_others (k : CoreId) (j : Nat) (p : Option (BitVec 16)) : (mirrorSlot s k j p).others = s.others := rfl
@[simp] theorem mirrorSlot_arr (k : CoreId) (j : Nat) (p : Option (BitVec 16)) : (mirrorSlot s k j p).arr = s.arr := rfl
@[simp] theorem mirrorSlot_stamps (k : CoreId) (j : Nat) (p : Option (BitVec 16)) : (mirrorSlot s k j p).stamps = s.stamps := rfl
@[simp] theorem mirrorSlot_fills (k : CoreId) (j : Nat) (p : Option (BitVec 16)) : (mirrorSlot s k j p).fills = s.fills := rfl
@[simp] theorem mirrorSlot_pmem (k : CoreId) (j : Nat) (p : Option (BitVec 16)) : (mirrorSlot s k j p).pmem = s.pmem := rfl
@[simp] theorem mirrorSlot_poison (k : CoreId) (j : Nat) (p : Option (BitVec 16)) : (mirrorSlot s k j p).poison = s.poison := rfl
@[simp] theorem mirrorSlot_ck (k : CoreId) (j : Nat) (p : Option (BitVec 16)) : (mirrorSlot s k j p).ck = s.ck := rfl
@[simp] theorem mirrorSlot_agenda (k : CoreId) (j : Nat) (p : Option (BitVec 16)) : (mirrorSlot s k j p).agenda = s.agenda := rfl
@[simp] theorem mirrorSlot_fresh (k : CoreId) (j : Nat) (p : Option (BitVec 16)) : (mirrorSlot s k j p).fresh = s.fresh := rfl
@[simp] theorem mirrorSlot_gangView (k : CoreId) (j : Nat) (p : Option (BitVec 16)) : (mirrorSlot s k j p).gangView = s.gangView := rfl
@[simp] theorem mirrorSlot_net (k : CoreId) (j : Nat) (p : Option (BitVec 16)) : (mirrorSlot s k j p).net = s.net := rfl
@[simp] theorem mirrorSlot_side (k : CoreId) (j : Nat) (p : Option (BitVec 16)) : (mirrorSlot s k j p).side = s.side := rfl
@[simp] theorem mirrorSlot_coh (k : CoreId) (j : Nat) (p : Option (BitVec 16)) : (mirrorSlot s k j p).coh = s.coh := rfl
@[simp] theorem mirrorSlot_logs (k : CoreId) (j : Nat) (p : Option (BitVec 16)) : (mirrorSlot s k j p).logs = s.logs := rfl
@[simp] theorem mirrorSlot_taken (k : CoreId) (j : Nat) (p : Option (BitVec 16)) : (mirrorSlot s k j p).taken = s.taken := rfl
@[simp] theorem mirrorSlot_tsu (k : CoreId) (j : Nat) (p : Option (BitVec 16)) : (mirrorSlot s k j p).tsu = s.tsu := rfl
@[simp] theorem mirrorSlot_lds (k : CoreId) (j : Nat) (p : Option (BitVec 16)) : (mirrorSlot s k j p).lds = s.lds := rfl
@[simp] theorem mirrorSlot_eva (k : CoreId) (j : Nat) (p : Option (BitVec 16)) : (mirrorSlot s k j p).eva = s.eva := rfl
@[simp] theorem mirrorSlot_ramp (k : CoreId) (j : Nat) (p : Option (BitVec 16)) : (mirrorSlot s k j p).ramp = s.ramp := rfl
@[simp] theorem mirrorSlot_sgvAt (k : CoreId) (j : Nat) (p : Option (BitVec 16)) : (mirrorSlot s k j p).sgvAt = s.sgvAt := rfl
@[simp] theorem mirrorSlot_mgmt (k : CoreId) (j : Nat) (p : Option (BitVec 16)) : (mirrorSlot s k j p).mgmt = s.mgmt := rfl
@[simp] theorem mirrorSlot_hostOut (k : CoreId) (j : Nat) (p : Option (BitVec 16)) : (mirrorSlot s k j p).hostOut = s.hostOut := rfl
@[simp] theorem mirrorSlot_frames (k : CoreId) (j : Nat) (p : Option (BitVec 16)) : (mirrorSlot s k j p).frames = s.frames := rfl

/-! `setLine`. -/

@[simp] theorem setLine_cur (l : Nat) (x : LineSt) : (setLine s l x).cur = s.cur := rfl
@[simp] theorem setLine_kind (l : Nat) (x : LineSt) : (setLine s l x).kind = s.kind := rfl
@[simp] theorem setLine_core (l : Nat) (x : LineSt) : (setLine s l x).core = s.core := rfl
@[simp] theorem setLine_others (l : Nat) (x : LineSt) : (setLine s l x).others = s.others := rfl
@[simp] theorem setLine_tiles (l : Nat) (x : LineSt) : (setLine s l x).tiles = s.tiles := rfl
@[simp] theorem setLine_arr (l : Nat) (x : LineSt) : (setLine s l x).arr = s.arr := rfl
@[simp] theorem setLine_stamps (l : Nat) (x : LineSt) : (setLine s l x).stamps = s.stamps := rfl
@[simp] theorem setLine_fills (l : Nat) (x : LineSt) : (setLine s l x).fills = s.fills := rfl
@[simp] theorem setLine_pmem (l : Nat) (x : LineSt) : (setLine s l x).pmem = s.pmem := rfl
@[simp] theorem setLine_poison (l : Nat) (x : LineSt) : (setLine s l x).poison = s.poison := rfl
@[simp] theorem setLine_ck (l : Nat) (x : LineSt) : (setLine s l x).ck = s.ck := rfl
@[simp] theorem setLine_agenda (l : Nat) (x : LineSt) : (setLine s l x).agenda = s.agenda := rfl
@[simp] theorem setLine_fresh (l : Nat) (x : LineSt) : (setLine s l x).fresh = s.fresh := rfl
@[simp] theorem setLine_gangView (l : Nat) (x : LineSt) : (setLine s l x).gangView = s.gangView := rfl
@[simp] theorem setLine_net (l : Nat) (x : LineSt) : (setLine s l x).net = s.net := rfl
@[simp] theorem setLine_side (l : Nat) (x : LineSt) : (setLine s l x).side = s.side := rfl
@[simp] theorem setLine_logs (l : Nat) (x : LineSt) : (setLine s l x).logs = s.logs := rfl
@[simp] theorem setLine_taken (l : Nat) (x : LineSt) : (setLine s l x).taken = s.taken := rfl
@[simp] theorem setLine_tsu (l : Nat) (x : LineSt) : (setLine s l x).tsu = s.tsu := rfl
@[simp] theorem setLine_lds (l : Nat) (x : LineSt) : (setLine s l x).lds = s.lds := rfl
@[simp] theorem setLine_eva (l : Nat) (x : LineSt) : (setLine s l x).eva = s.eva := rfl
@[simp] theorem setLine_ramp (l : Nat) (x : LineSt) : (setLine s l x).ramp = s.ramp := rfl
@[simp] theorem setLine_sgvAt (l : Nat) (x : LineSt) : (setLine s l x).sgvAt = s.sgvAt := rfl
@[simp] theorem setLine_mgmt (l : Nat) (x : LineSt) : (setLine s l x).mgmt = s.mgmt := rfl
@[simp] theorem setLine_hostOut (l : Nat) (x : LineSt) : (setLine s l x).hostOut = s.hostOut := rfl
@[simp] theorem setLine_frames (l : Nat) (x : LineSt) : (setLine s l x).frames = s.frames := rfl

/-! `toHostOut`. -/

@[simp] theorem toHostOut_cur (ms : List HostMsg) : (toHostOut s ms).cur = s.cur := rfl
@[simp] theorem toHostOut_kind (ms : List HostMsg) : (toHostOut s ms).kind = s.kind := rfl
@[simp] theorem toHostOut_core (ms : List HostMsg) : (toHostOut s ms).core = s.core := rfl
@[simp] theorem toHostOut_others (ms : List HostMsg) : (toHostOut s ms).others = s.others := rfl
@[simp] theorem toHostOut_tiles (ms : List HostMsg) : (toHostOut s ms).tiles = s.tiles := rfl
@[simp] theorem toHostOut_arr (ms : List HostMsg) : (toHostOut s ms).arr = s.arr := rfl
@[simp] theorem toHostOut_stamps (ms : List HostMsg) : (toHostOut s ms).stamps = s.stamps := rfl
@[simp] theorem toHostOut_fills (ms : List HostMsg) : (toHostOut s ms).fills = s.fills := rfl
@[simp] theorem toHostOut_pmem (ms : List HostMsg) : (toHostOut s ms).pmem = s.pmem := rfl
@[simp] theorem toHostOut_poison (ms : List HostMsg) : (toHostOut s ms).poison = s.poison := rfl
@[simp] theorem toHostOut_ck (ms : List HostMsg) : (toHostOut s ms).ck = s.ck := rfl
@[simp] theorem toHostOut_agenda (ms : List HostMsg) : (toHostOut s ms).agenda = s.agenda := rfl
@[simp] theorem toHostOut_fresh (ms : List HostMsg) : (toHostOut s ms).fresh = s.fresh := rfl
@[simp] theorem toHostOut_gangView (ms : List HostMsg) : (toHostOut s ms).gangView = s.gangView := rfl
@[simp] theorem toHostOut_net (ms : List HostMsg) : (toHostOut s ms).net = s.net := rfl
@[simp] theorem toHostOut_side (ms : List HostMsg) : (toHostOut s ms).side = s.side := rfl
@[simp] theorem toHostOut_coh (ms : List HostMsg) : (toHostOut s ms).coh = s.coh := rfl
@[simp] theorem toHostOut_logs (ms : List HostMsg) : (toHostOut s ms).logs = s.logs := rfl
@[simp] theorem toHostOut_taken (ms : List HostMsg) : (toHostOut s ms).taken = s.taken := rfl
@[simp] theorem toHostOut_tsu (ms : List HostMsg) : (toHostOut s ms).tsu = s.tsu := rfl
@[simp] theorem toHostOut_lds (ms : List HostMsg) : (toHostOut s ms).lds = s.lds := rfl
@[simp] theorem toHostOut_eva (ms : List HostMsg) : (toHostOut s ms).eva = s.eva := rfl
@[simp] theorem toHostOut_ramp (ms : List HostMsg) : (toHostOut s ms).ramp = s.ramp := rfl
@[simp] theorem toHostOut_sgvAt (ms : List HostMsg) : (toHostOut s ms).sgvAt = s.sgvAt := rfl
@[simp] theorem toHostOut_mgmt (ms : List HostMsg) : (toHostOut s ms).mgmt = s.mgmt := rfl
@[simp] theorem toHostOut_frames (ms : List HostMsg) : (toHostOut s ms).frames = s.frames := rfl

/-! `putPart`. -/

@[simp] theorem putPart_cur (i : Nat) (p : Part) : (putPart s i p).cur = s.cur := rfl
@[simp] theorem putPart_kind (i : Nat) (p : Part) : (putPart s i p).kind = s.kind := rfl
@[simp] theorem putPart_core (i : Nat) (p : Part) : (putPart s i p).core = s.core := rfl
@[simp] theorem putPart_others (i : Nat) (p : Part) : (putPart s i p).others = s.others := rfl
@[simp] theorem putPart_tiles (i : Nat) (p : Part) : (putPart s i p).tiles = s.tiles := rfl
@[simp] theorem putPart_arr (i : Nat) (p : Part) : (putPart s i p).arr = s.arr := rfl
@[simp] theorem putPart_stamps (i : Nat) (p : Part) : (putPart s i p).stamps = s.stamps := rfl
@[simp] theorem putPart_fills (i : Nat) (p : Part) : (putPart s i p).fills = s.fills := rfl
@[simp] theorem putPart_pmem (i : Nat) (p : Part) : (putPart s i p).pmem = s.pmem := rfl
@[simp] theorem putPart_poison (i : Nat) (p : Part) : (putPart s i p).poison = s.poison := rfl
@[simp] theorem putPart_ck (i : Nat) (p : Part) : (putPart s i p).ck = s.ck := rfl
@[simp] theorem putPart_agenda (i : Nat) (p : Part) : (putPart s i p).agenda = s.agenda := rfl
@[simp] theorem putPart_fresh (i : Nat) (p : Part) : (putPart s i p).fresh = s.fresh := rfl
@[simp] theorem putPart_gangView (i : Nat) (p : Part) : (putPart s i p).gangView = s.gangView := rfl
@[simp] theorem putPart_net (i : Nat) (p : Part) : (putPart s i p).net = s.net := rfl
@[simp] theorem putPart_side (i : Nat) (p : Part) : (putPart s i p).side = s.side := rfl
@[simp] theorem putPart_coh (i : Nat) (p : Part) : (putPart s i p).coh = s.coh := rfl
@[simp] theorem putPart_logs (i : Nat) (p : Part) : (putPart s i p).logs = s.logs := rfl
@[simp] theorem putPart_taken (i : Nat) (p : Part) : (putPart s i p).taken = s.taken := rfl
@[simp] theorem putPart_tsu (i : Nat) (p : Part) : (putPart s i p).tsu = s.tsu := rfl
@[simp] theorem putPart_eva (i : Nat) (p : Part) : (putPart s i p).eva = s.eva := rfl
@[simp] theorem putPart_ramp (i : Nat) (p : Part) : (putPart s i p).ramp = s.ramp := rfl
@[simp] theorem putPart_sgvAt (i : Nat) (p : Part) : (putPart s i p).sgvAt = s.sgvAt := rfl
@[simp] theorem putPart_mgmt (i : Nat) (p : Part) : (putPart s i p).mgmt = s.mgmt := rfl
@[simp] theorem putPart_hostOut (i : Nat) (p : Part) : (putPart s i p).hostOut = s.hostOut := rfl
@[simp] theorem putPart_frames (i : Nat) (p : Part) : (putPart s i p).frames = s.frames := rfl

/-! `modLds`. -/

@[simp] theorem modLds_cur (f : Lds → Lds) : (modLds s f).cur = s.cur := rfl
@[simp] theorem modLds_kind (f : Lds → Lds) : (modLds s f).kind = s.kind := rfl
@[simp] theorem modLds_core (f : Lds → Lds) : (modLds s f).core = s.core := rfl
@[simp] theorem modLds_others (f : Lds → Lds) : (modLds s f).others = s.others := rfl
@[simp] theorem modLds_tiles (f : Lds → Lds) : (modLds s f).tiles = s.tiles := rfl
@[simp] theorem modLds_arr (f : Lds → Lds) : (modLds s f).arr = s.arr := rfl
@[simp] theorem modLds_stamps (f : Lds → Lds) : (modLds s f).stamps = s.stamps := rfl
@[simp] theorem modLds_fills (f : Lds → Lds) : (modLds s f).fills = s.fills := rfl
@[simp] theorem modLds_pmem (f : Lds → Lds) : (modLds s f).pmem = s.pmem := rfl
@[simp] theorem modLds_poison (f : Lds → Lds) : (modLds s f).poison = s.poison := rfl
@[simp] theorem modLds_ck (f : Lds → Lds) : (modLds s f).ck = s.ck := rfl
@[simp] theorem modLds_agenda (f : Lds → Lds) : (modLds s f).agenda = s.agenda := rfl
@[simp] theorem modLds_fresh (f : Lds → Lds) : (modLds s f).fresh = s.fresh := rfl
@[simp] theorem modLds_gangView (f : Lds → Lds) : (modLds s f).gangView = s.gangView := rfl
@[simp] theorem modLds_net (f : Lds → Lds) : (modLds s f).net = s.net := rfl
@[simp] theorem modLds_side (f : Lds → Lds) : (modLds s f).side = s.side := rfl
@[simp] theorem modLds_coh (f : Lds → Lds) : (modLds s f).coh = s.coh := rfl
@[simp] theorem modLds_logs (f : Lds → Lds) : (modLds s f).logs = s.logs := rfl
@[simp] theorem modLds_taken (f : Lds → Lds) : (modLds s f).taken = s.taken := rfl
@[simp] theorem modLds_tsu (f : Lds → Lds) : (modLds s f).tsu = s.tsu := rfl
@[simp] theorem modLds_eva (f : Lds → Lds) : (modLds s f).eva = s.eva := rfl
@[simp] theorem modLds_ramp (f : Lds → Lds) : (modLds s f).ramp = s.ramp := rfl
@[simp] theorem modLds_sgvAt (f : Lds → Lds) : (modLds s f).sgvAt = s.sgvAt := rfl
@[simp] theorem modLds_mgmt (f : Lds → Lds) : (modLds s f).mgmt = s.mgmt := rfl
@[simp] theorem modLds_hostOut (f : Lds → Lds) : (modLds s f).hostOut = s.hostOut := rfl
@[simp] theorem modLds_frames (f : Lds → Lds) : (modLds s f).frames = s.frames := rfl

/-! `sendSide`. -/

@[simp] theorem sendSide_cur (t : TileId) (m : SideMsg) : (sendSide s t m).cur = s.cur := rfl
@[simp] theorem sendSide_kind (t : TileId) (m : SideMsg) : (sendSide s t m).kind = s.kind := rfl
@[simp] theorem sendSide_core (t : TileId) (m : SideMsg) : (sendSide s t m).core = s.core := rfl
@[simp] theorem sendSide_others (t : TileId) (m : SideMsg) : (sendSide s t m).others = s.others := rfl
@[simp] theorem sendSide_tiles (t : TileId) (m : SideMsg) : (sendSide s t m).tiles = s.tiles := rfl
@[simp] theorem sendSide_arr (t : TileId) (m : SideMsg) : (sendSide s t m).arr = s.arr := rfl
@[simp] theorem sendSide_stamps (t : TileId) (m : SideMsg) : (sendSide s t m).stamps = s.stamps := rfl
@[simp] theorem sendSide_fills (t : TileId) (m : SideMsg) : (sendSide s t m).fills = s.fills := rfl
@[simp] theorem sendSide_pmem (t : TileId) (m : SideMsg) : (sendSide s t m).pmem = s.pmem := rfl
@[simp] theorem sendSide_poison (t : TileId) (m : SideMsg) : (sendSide s t m).poison = s.poison := rfl
@[simp] theorem sendSide_ck (t : TileId) (m : SideMsg) : (sendSide s t m).ck = s.ck := rfl
@[simp] theorem sendSide_agenda (t : TileId) (m : SideMsg) : (sendSide s t m).agenda = s.agenda := rfl
@[simp] theorem sendSide_fresh (t : TileId) (m : SideMsg) : (sendSide s t m).fresh = s.fresh := rfl
@[simp] theorem sendSide_gangView (t : TileId) (m : SideMsg) : (sendSide s t m).gangView = s.gangView := rfl
@[simp] theorem sendSide_net (t : TileId) (m : SideMsg) : (sendSide s t m).net = s.net := rfl
@[simp] theorem sendSide_coh (t : TileId) (m : SideMsg) : (sendSide s t m).coh = s.coh := rfl
@[simp] theorem sendSide_logs (t : TileId) (m : SideMsg) : (sendSide s t m).logs = s.logs := rfl
@[simp] theorem sendSide_taken (t : TileId) (m : SideMsg) : (sendSide s t m).taken = s.taken := rfl
@[simp] theorem sendSide_tsu (t : TileId) (m : SideMsg) : (sendSide s t m).tsu = s.tsu := rfl
@[simp] theorem sendSide_lds (t : TileId) (m : SideMsg) : (sendSide s t m).lds = s.lds := rfl
@[simp] theorem sendSide_eva (t : TileId) (m : SideMsg) : (sendSide s t m).eva = s.eva := rfl
@[simp] theorem sendSide_ramp (t : TileId) (m : SideMsg) : (sendSide s t m).ramp = s.ramp := rfl
@[simp] theorem sendSide_sgvAt (t : TileId) (m : SideMsg) : (sendSide s t m).sgvAt = s.sgvAt := rfl
@[simp] theorem sendSide_mgmt (t : TileId) (m : SideMsg) : (sendSide s t m).mgmt = s.mgmt := rfl
@[simp] theorem sendSide_hostOut (t : TileId) (m : SideMsg) : (sendSide s t m).hostOut = s.hostOut := rfl
@[simp] theorem sendSide_frames (t : TileId) (m : SideMsg) : (sendSide s t m).frames = s.frames := rfl

end Sys2Proof.Machine
end

