-- ==== Sys2Proof/Laws/Operands.lean ====
section
/-!
SUPPORT. What the shared shapes of the scalar instructions do when their operands can be used and read.
-/
namespace Sys2Proof.Machine

theorem checkUses_ok : ∀ us : List Use, (∀ u ∈ us, u.legal = true) → checkUses us = .ok ()
  | [], _ => rfl
  | u :: r, h => by
    simp only [checkUses, h u (by simp), if_true]
    exact checkUses_ok r fun v hv => h v (by simp [hv])

theorem checkRoles_ok (s : State) : ∀ us : List Use, (∀ u ∈ us, roleOf s u = .ok ()) → checkRoles s us = .ok ()
  | [], _ => rfl
  | u :: r, h => by
    simp only [checkRoles, h u (by simp)]
    exact checkRoles_ok s r fun v hv => h v (by simp [hv])

/-- The specifier checks of a form whose operands are allowed, in any order of its fields. -/
theorem Allowed.uses {s : State} {us vs : List Use} (h : Allowed s us) (hv : ∀ u ∈ vs, u ∈ us) : checkUses vs = .ok () :=
  checkUses_ok vs fun u hu => (h u (hv u hu)).1

theorem Allowed.roles {s : State} {us vs : List Use} (h : Allowed s us) (hv : ∀ u ∈ vs, u ∈ us) : checkRoles s vs = .ok () :=
  checkRoles_ok s vs fun u hu => (h u (hv u hu)).2

theorem opR_next {s s1 t : State} {d a b : Spec} {x y : Word} {f : Word → Word → Word}
    (h : Allowed s [.dstS d, .srcS a, .srcS b]) (hr : Reads s [a, b] [x, y] s1) (hw : writeS s1 d (f x y) = .ok t) :
    opR s d a b f = .next (retire t) := by
  obtain ⟨s2, ha, s3, hb, rfl⟩ := hr
  simp [opR, finish, h.uses, h.roles, ha, hb, hw, bind, Except.bind]

theorem opR1_next {s s1 t : State} {d a : Spec} {x : Word} {f : Word → Word}
    (h : Allowed s [.dstS d, .srcS a]) (hr : Reads s [a] [x] s1) (hw : writeS s1 d (f x) = .ok t) :
    opR1 s d a f = .next (retire t) := by
  obtain ⟨s2, ha, rfl⟩ := hr
  simp [opR1, finish, h.uses, h.roles, ha, hw, bind, Except.bind]

theorem opR3_next {s s1 t : State} {d a b c : Spec} {x y z : Word} {f : Word → Word → Word → Word}
    (h : Allowed s [.dstS d, .srcS a, .srcS b, .srcS c]) (hr : Reads s [a, b, c] [x, y, z] s1)
    (hw : writeS s1 d (f x y z) = .ok t) : opR3 s d a b c f = .next (retire t) := by
  obtain ⟨s2, ha, s3, hb, s4, hc, rfl⟩ := hr
  simp [opR3, finish, h.uses, h.roles, ha, hb, hc, hw, bind, Except.bind]

theorem opD_next {s t : State} {d : Spec} {x : Word} (h : Allowed s [.dstS d]) (hw : writeS s d x = .ok t) :
    opD s d x = .next (retire t) := by
  simp [opD, finish, h.uses, h.roles, hw, bind, Except.bind]

end Sys2Proof.Machine
end

