-- ==== Sys2Proof/Laws/SMap.lean ====
section
/-!
SUPPORT. Sparse maps and memory: reading back what was written, leaving every other key alone, and keeping the
canonical form.
-/
namespace Sys2Proof.Machine

variable {β : Type}

/-! Maps. -/

theorem SMap.get?_put_self (m : SMap β) (a : Nat) (x : β) : SMap.get? (SMap.put m a x) a = some x := by
  induction m with
  | nil => simp [SMap.put, SMap.get?]
  | cons c r ih =>
    obtain ⟨k, v⟩ := c
    simp only [SMap.put]
    split
    · simp [SMap.get?]
    · split
      · simp [SMap.get?]
      · simp_all [SMap.get?]

theorem SMap.get?_put_ne (m : SMap β) {a b : Nat} (x : β) (h : b ≠ a) : SMap.get? (SMap.put m a x) b = SMap.get? m b := by
  induction m with
  | nil => simp [SMap.put, SMap.get?, h]
  | cons c r ih =>
    obtain ⟨k, v⟩ := c
    simp only [SMap.put]
    split
    · simp [SMap.get?, h]
    · split
      · subst_vars; simp [SMap.get?, h]
      · simp [SMap.get?, ih]

/-- Every key is above a bound. -/
def SMap.above (n : Nat) (m : SMap β) : Prop := ∀ c ∈ m, n < c.1

theorem SMap.rising_cons (c : Nat × β) (r : SMap β) :
    SMap.rising (c :: r) = true ↔ SMap.above c.1 r ∧ SMap.rising r = true := by
  induction r generalizing c with
  | nil => simp [SMap.rising, SMap.above]
  | cons d r ih =>
    obtain ⟨k, v⟩ := c
    obtain ⟨k', v'⟩ := d
    have key := ih (k', v')
    simp only [SMap.rising, Bool.and_eq_true, decide_eq_true_eq]
    constructor
    · rintro ⟨h, hr⟩
      refine ⟨fun c hc => ?_, hr⟩
      rcases List.mem_cons.mp hc with rfl | hc
      · exact h
      · exact Nat.lt_trans h ((key.mp hr).1 c hc)
    · rintro ⟨h, hr⟩
      exact ⟨h _ List.mem_cons_self, hr⟩

theorem SMap.mem_put {m : SMap β} {a : Nat} {x : β} {c : Nat × β} (h : c ∈ SMap.put m a x) : c = (a, x) ∨ c ∈ m := by
  induction m with
  | nil => simp_all [SMap.put]
  | cons d r ih =>
    obtain ⟨k, v⟩ := d
    simp only [SMap.put] at h
    split at h
    · simpa using h
    · split at h
      · rcases List.mem_cons.mp h with h | h
        · exact .inl h
        · exact .inr (List.mem_cons_of_mem _ h)
      · rcases List.mem_cons.mp h with h | h
        · exact .inr (h ▸ List.mem_cons_self)
        · rcases ih h with h | h
          · exact .inl h
          · exact .inr (List.mem_cons_of_mem _ h)

theorem SMap.rising_put {m : SMap β} (a : Nat) (x : β) (h : SMap.rising m = true) : SMap.rising (SMap.put m a x) = true := by
  induction m with
  | nil => rfl
  | cons c r ih =>
    obtain ⟨k, v⟩ := c
    obtain ⟨ha, hr⟩ := (SMap.rising_cons _ _).mp h
    simp only [SMap.put]
    split
    · rename_i hk
      refine (SMap.rising_cons _ _).mpr ⟨fun c hc => ?_, h⟩
      rcases List.mem_cons.mp hc with rfl | hc
      · exact hk
      · exact Nat.lt_trans hk (ha c hc)
    · split
      · rename_i hk; subst hk
        exact (SMap.rising_cons _ _).mpr ⟨ha, hr⟩
      · refine (SMap.rising_cons _ _).mpr ⟨fun c hc => ?_, ih hr⟩
        rcases SMap.mem_put hc with rfl | hc
        · simp only; omega
        · exact ha c hc

theorem SMap.mem_del {m : SMap β} {a : Nat} {c : Nat × β} (h : c ∈ SMap.del m a) : c ∈ m := by
  induction m with
  | nil => exact h
  | cons d r ih =>
    obtain ⟨k, v⟩ := d
    simp only [SMap.del] at h
    split at h
    · exact List.mem_cons_of_mem _ (ih h)
    · rcases List.mem_cons.mp h with h | h
      · exact h ▸ List.mem_cons_self
      · exact List.mem_cons_of_mem _ (ih h)

theorem SMap.rising_del {m : SMap β} (a : Nat) (h : SMap.rising m = true) : SMap.rising (SMap.del m a) = true := by
  induction m with
  | nil => exact h
  | cons c r ih =>
    obtain ⟨k, v⟩ := c
    obtain ⟨ha, hr⟩ := (SMap.rising_cons _ _).mp h
    simp only [SMap.del]
    split
    · exact ih hr
    · exact (SMap.rising_cons _ _).mpr ⟨fun c hc => ha c (SMap.mem_del hc), ih hr⟩

@[simp] theorem SMap.get?_del_self (m : SMap β) (a : Nat) : SMap.get? (SMap.del m a) a = none := by
  induction m with
  | nil => rfl
  | cons c r ih =>
    obtain ⟨k, v⟩ := c
    simp only [SMap.del]
    split
    · exact ih
    · rename_i hk
      simp only [SMap.get?, hk, if_false]
      exact ih

theorem SMap.get?_del_ne (m : SMap β) {a b : Nat} (h : b ≠ a) : SMap.get? (SMap.del m a) b = SMap.get? m b := by
  induction m with
  | nil => rfl
  | cons c r ih =>
    obtain ⟨k, v⟩ := c
    simp only [SMap.del]
    split
    · rename_i hk; subst hk
      simp [SMap.get?, h, ih]
    · simp [SMap.get?, ih]

theorem SMap.rising_filter {m : SMap β} (p : Nat × β → Bool) (h : SMap.rising m = true) : SMap.rising (m.filter p) = true := by
  induction m with
  | nil => exact h
  | cons c r ih =>
    obtain ⟨ha, hr⟩ := (SMap.rising_cons _ _).mp h
    simp only [List.filter]
    split
    · exact (SMap.rising_cons _ _).mpr ⟨fun c hc => ha c (List.mem_filter.mp hc).1, ih hr⟩
    · exact ih hr

/-! Memory. -/

theorem Mem.wf_iff {m : Mem} : Mem.wf m = true ↔ SMap.rising m = true ∧ ∀ c ∈ m, c.2 ≠ 0 := by
  simp [Mem.wf]

theorem Mem.wf_set {m : Mem} (a : Nat) (b : Byte) (h : Mem.wf m = true) : Mem.wf (Mem.set m a b) = true := by
  obtain ⟨hr, hz⟩ := Mem.wf_iff.mp h
  unfold Mem.set
  split
  · exact Mem.wf_iff.mpr ⟨SMap.rising_del a hr, fun c hc => hz c (SMap.mem_del hc)⟩
  · rename_i hb
    refine Mem.wf_iff.mpr ⟨SMap.rising_put a b hr, fun c hc => ?_⟩
    rcases SMap.mem_put hc with rfl | hc
    · exact hb
    · exact hz c hc

theorem Mem.wf_write {m : Mem} (a : Nat) (bs : List Byte) (h : Mem.wf m = true) : Mem.wf (Mem.write m a bs) = true := by
  induction bs generalizing m a with
  | nil => exact h
  | cons b r ih => exact ih (a + 1) (Mem.wf_set a b h)

theorem Mem.wf_filter {m : Mem} (p : Host.Cell → Bool) (h : Mem.wf m = true) : Mem.wf (m.filter p) = true := by
  obtain ⟨hr, hz⟩ := Mem.wf_iff.mp h
  exact Mem.wf_iff.mpr ⟨SMap.rising_filter p hr, fun c hc => hz c (List.mem_filter.mp hc).1⟩

theorem Mem.get_filter (m : Mem) (p : Nat → Bool) (a : Nat) :
    Mem.get (m.filter fun c => p c.1) a = if p a then Mem.get m a else 0 := by
  unfold Mem.get
  induction m with
  | nil => simp [SMap.get?]
  | cons c r ih =>
    rcases c with ⟨k, v⟩
    by_cases h : a = k
    · subst h
      cases hk : p a <;> simp_all [SMap.get?]
    · cases hk : p k <;> simp_all [SMap.get?]

theorem Mem.get_set_self (m : Mem) (a : Nat) (b : Byte) : Mem.get (Mem.set m a b) a = b := by
  unfold Mem.get Mem.set
  split
  · rename_i hb; rw [SMap.get?_del_self, hb]; rfl
  · rw [SMap.get?_put_self]; rfl

theorem Mem.get_set_ne (m : Mem) {a c : Nat} (b : Byte) (h : c ≠ a) : Mem.get (Mem.set m a b) c = Mem.get m c := by
  unfold Mem.get Mem.set
  split
  · rw [SMap.get?_del_ne m h]
  · rw [SMap.get?_put_ne m b h]

/-- A write leaves every byte outside it alone. -/
theorem Mem.get_write_outside (m : Mem) (a : Nat) (bs : List Byte) (c : Nat) (h : c < a ∨ a + bs.length ≤ c) :
    Mem.get (Mem.write m a bs) c = Mem.get m c := by
  induction bs generalizing m a with
  | nil => rfl
  | cons b r ih =>
    simp only [List.length_cons] at h
    rw [Mem.write, ih _ _ (by omega), Mem.get_set_ne _ _ (by omega)]

/-- A write is read back. -/
theorem Mem.read_write (m : Mem) (a : Nat) (bs : List Byte) : Mem.read (Mem.write m a bs) a bs.length = bs := by
  induction bs generalizing m a with
  | nil => rfl
  | cons b r ih =>
    simp only [List.length_cons, Mem.read, Mem.write]
    rw [ih, Mem.get_write_outside _ _ _ _ (by omega), Mem.get_set_self]

end Sys2Proof.Machine
end

