-- ==== Sys2Proof/Laws/Ops.lean ====
section
/-!
SUPPORT. One lemma for each shared operation: registers, cores and tiles by number, what takes the place of another
core, how an instruction ends, and taking an exception (R11, R23 to R25, R39).
-/
namespace Sys2Proof.Machine

/-! Fixed tables. -/

theorem vget_vset_self {α : Type} {n : Nat} (v : Vector α n) {i : Nat} (x d : α) (h : i < n) : vget (vset v i x) i d = x := by
  simp [vget, vset, h]

theorem vget_vset_ne {α : Type} {n : Nat} (v : Vector α n) {i j : Nat} (x d : α) (h : j ≠ i) :
    vget (vset v i x) j d = vget v j d := by
  have h' : i ≠ j := fun e => h e.symm
  simp only [vget, vset]
  rw [Vector.getElem?_setIfInBounds_ne h']

/-! Contexts and their registers. -/

@[simp] theorem ctx_setCtx (c : Core) (h : CtxKind) (x : Ctx) : (c.setCtx h x).ctx h = x := by cases h <;> rfl

@[simp] theorem cx_setCx (s : State) (x : Ctx) : cx (setCx s x) = x := by simp [cx, setCx]

theorem setCx_setCx (s : State) (x y : Ctx) : setCx (setCx s x) y = setCx s y := by
  cases h : s.kind <;> simp [setCx, Core.setCtx, h]

theorem setCx_cx (s : State) : setCx s (cx s) = s := by
  cases s with
  | mk cur kind core => cases kind <;> rfl

/-- s0 reads zero (R11, R39). -/
@[simp] theorem getS_zero (s : State) : getS s 0 = 0 := rfl

/-- A write to s0 is discarded (R11, R39). -/
theorem putS_zero (s : State) (x : Word) : putS s 0 x = s := by
  simp [putS, Ctx.putS, setCx_cx]

theorem getS_putS_self (s : State) {i : Nat} (x : Word) (h0 : i ≠ 0) (h : i < 32) : getS (putS s i x) i = x := by
  simp [getS, putS, Ctx.getS, Ctx.putS, h0, vget_vset_self, h]

theorem getS_putS_ne (s : State) {i j : Nat} (x : Word) (h : j ≠ i) : getS (putS s i x) j = getS s j := by
  by_cases h0 : i = 0
  · subst h0; rw [putS_zero]
  · simp [getS, putS, Ctx.getS, Ctx.putS, h0, vget_vset_ne, h]

@[simp] theorem getV_putS (s : State) (i j : Nat) (x : Word) : getV (putS s i x) j = getV s j := by
  by_cases h0 : i = 0 <;> simp [getV, putS, Ctx.putS, h0]

@[simp] theorem getM_putS (s : State) (i j : Nat) (x : Word) : getM (putS s i x) j = getM s j := by
  by_cases h0 : i = 0 <;> simp [getM, putS, Ctx.putS, h0]

theorem getV_putV_self (s : State) {i : Nat} (x : Vec) (h : i < 32) : getV (putV s i x) i = x := by
  simp [getV, putV, vget_vset_self, h]

theorem getV_putV_ne (s : State) {i j : Nat} (x : Vec) (h : j ≠ i) : getV (putV s i x) j = getV s j := by
  simp [getV, putV, vget_vset_ne, h]

@[simp] theorem getS_putV (s : State) (i j : Nat) (x : Vec) : getS (putV s i x) j = getS s j := by simp [getS, putV, Ctx.getS]

@[simp] theorem getM_putV (s : State) (i j : Nat) (x : Vec) : getM (putV s i x) j = getM s j := by simp [getM, putV]

/-! How an instruction ends. -/

@[simp] theorem cx_retire (s : State) : cx (retire s) = { cx s with pc := (cx s).succ, last := .retired, wait := .none } := by
  simp [retire]

@[simp] theorem getS_retire (s : State) (i : Nat) : getS (retire s) i = getS s i := by simp [getS, Ctx.getS]
@[simp] theorem getV_retire (s : State) (i : Nat) : getV (retire s) i = getV s i := by simp [getV]
@[simp] theorem getM_retire (s : State) (i : Nat) : getM (retire s) i = getM s i := by simp [getM]

/-- `finish` completes exactly when the parts do. -/
theorem finish_ok (s t : State) : finish s (.ok t) = .next (retire t) := rfl
theorem finish_block (s : State) : finish s (.error .block) = .next (blocked s) := rfl
theorem finish_exc (s : State) (e : Exc) : finish s (.error (.exc e)) = .next (raise s e) := rfl

/-- Every instruction shaped by `finish` answers a next state. -/
theorem finish_next (s : State) (r : Res State) : ∃ t, finish s r = .next t := by
  rcases r with (_ | e) | t <;> exact ⟨_, rfl⟩

theorem finishTo_next (s : State) (r : Res State) : ∃ t, finishTo s r = .next t := by
  rcases r with (_ | e) | t <;> exact ⟨_, rfl⟩

/-! Cores and tiles by number. -/

theorem coreOf_setCore_self (s : State) (k : CoreId) (c : Core) : coreOf (setCore s k c) k = c := by
  unfold coreOf setCore
  split
  · simp_all
  · simp [SMap.get?_put_self]

theorem coreOf_setCore_ne (s : State) {k j : CoreId} (c : Core) (h : j ≠ k) : coreOf (setCore s k c) j = coreOf s j := by
  unfold coreOf setCore
  by_cases hk : k = s.cur
  · subst hk; simp [h]
  · by_cases hj : j = s.cur
    · subst hj; simp [hk]
    · have : j.toNat ≠ k.toNat := fun e => h (BitVec.eq_of_toNat_eq e)
      simp [hk, hj, SMap.get?_put_ne _ _ this]

theorem coreOf_modCore_self (s : State) (k : CoreId) (f : Core → Core) : coreOf (modCore s k f) k = f (coreOf s k) :=
  coreOf_setCore_self s k _

theorem coreOf_modCore_ne (s : State) {k j : CoreId} (f : Core → Core) (h : j ≠ k) : coreOf (modCore s k f) j = coreOf s j :=
  coreOf_setCore_ne s _ h

theorem tileOf_setTile_self (s : State) (t : TileId) (x : Tile) : tileOf (setTile s t x) t = x := by
  simp [tileOf, setTile, SMap.get?_put_self]

theorem tileOf_setTile_ne (s : State) {t u : TileId} (x : Tile) (h : u ≠ t) : tileOf (setTile s t x) u = tileOf s u := by
  have : u.toNat ≠ t.toNat := fun e => h (BitVec.eq_of_toNat_eq e)
  simp [tileOf, setTile, SMap.get?_put_ne _ _ this]

@[simp] theorem tileOf_setCore (s : State) (k : CoreId) (c : Core) (t : TileId) : tileOf (setCore s k c) t = tileOf s t := by
  unfold setCore tileOf; split <;> rfl

@[simp] theorem coreOf_setTile (s : State) (t : TileId) (x : Tile) (k : CoreId) : coreOf (setTile s t x) k = coreOf s k := rfl

@[simp] theorem coreOf_cur (s : State) : coreOf s s.cur = s.core := by simp [coreOf]

@[simp] theorem cur_setCore (s : State) (k : CoreId) (c : Core) : (setCore s k c).cur = s.cur := by
  unfold setCore; split <;> rfl

/-! In the place of another core. -/

@[simp] theorem focus_cur (s : State) (k : CoreId) (h : CtxKind) : (focus s k h).cur = k := by
  unfold focus; split <;> simp_all

@[simp] theorem focus_kind (s : State) (k : CoreId) (h : CtxKind) : (focus s k h).kind = h := by
  unfold focus; split <;> rfl

@[simp] theorem focus_core (s : State) (k : CoreId) (h : CtxKind) : (focus s k h).core = coreOf s k := by
  unfold focus; split <;> simp_all [coreOf]

theorem coreOf_focus (s : State) (k j : CoreId) (h : CtxKind) : coreOf (focus s k h) j = coreOf s j := by
  unfold focus
  split
  · rfl
  · rename_i hk
    unfold coreOf
    by_cases hj : j = k
    · subst hj; simp [hk]
    · have hjk : j.toNat ≠ k.toNat := fun e => hj (BitVec.eq_of_toNat_eq e)
      by_cases hc : j = s.cur
      · subst hc; simp [hj, SMap.get?_put_self]
      · have hjc : j.toNat ≠ s.cur.toNat := fun e => hc (BitVec.eq_of_toNat_eq e)
        simp [hj, hc, SMap.get?_put_ne _ _ hjc, SMap.get?_del_ne _ hjk]

/-! Time (R20). -/

@[simp] theorem elapse_zero (s : State) : elapse s 0 = s := rfl

/-- Ports change in no tile of which none is due. -/
theorem settlePorts_none (s : State) (h : ∀ x ∈ s.tiles, x.2.portDue = false) : settlePorts s = s := by
  have h' : (s.tiles.filter fun x => x.2.portDue) = [] :=
    List.filter_eq_nil_iff.mpr fun x hx => by simp [h x hx]
  simp [settlePorts, h']

/-- Without an event at a barrier no barrier has anything to do at the end of a ck. -/
theorem barRun_none (s : State) (n : Nat) (h : barDue s = false) : barRun n s = s := by
  cases n <;> simp [barRun, h]

/-- Without a launch that is due none is accepted at the end of a ck. -/
theorem launchesIn_none (s : State) (h : ∀ k ∈ listedCores s, (coreOf s k).launchDue = false) : launchesIn s = s := by
  have : ((listedCores s).filter fun k => (coreOf s k).launchDue) = [] :=
    List.filter_eq_nil_iff.mpr fun k hk => by simp [h k hk]
  simp [launchesIn, this]

/-- With no event at a barrier, no launch and no port due, ck pass and only the bank arrays go on. -/
theorem elapse_quiet (s : State) {n : Nat} (hn : n ≠ 0) (hb : ∀ k ∈ listedCores s, (coreOf s k).barIn = [])
    (hl : ∀ k ∈ listedCores s, (coreOf s k).launchDue = false) (hp : ∀ x ∈ s.tiles, x.2.portDue = false) :
    elapse s n = { s with
      ck := s.ck + n
      core := { s.core with banks := bankRun n s.core.banks }
      others := s.others.map fun x => (x.1, { x.2 with banks := bankRun n x.2.banks }) } := by
  have hd : barDue s = false := by
    simp only [barDue, List.any_eq_false]
    exact fun k hk => by simp [hb k hk]
  simp only [elapse, hn, if_false, barRun_none s _ hd, launchesIn_none s hl]
  exact settlePorts_none _ hp

/-! Parity (R202, R204). -/

/-- The other three data banks and the parity bank give back the byte of a data bank. -/
theorem rebuiltByte_eq (s : State) (k : CoreId) (off : Nat) :
    rebuiltByte s k off = bankData s k (bankOf off) (bankRow off) (bankByte off) := by
  have hb : bankOf off < 8 := Nat.mod_lt _ (by decide)
  unfold rebuiltByte parityByte bankHalf
  generalize bankOf off = b at hb
  generalize bankRow off = r
  generalize bankByte off = y
  have key : ∀ a b c d : Byte, (a ^^^ b ^^^ c ^^^ d) ^^^ a ^^^ b ^^^ c = d ∧ (a ^^^ b ^^^ c ^^^ d) ^^^ a ^^^ b ^^^ d = c ∧
      (a ^^^ b ^^^ c ^^^ d) ^^^ a ^^^ c ^^^ d = b ∧ (a ^^^ b ^^^ c ^^^ d) ^^^ b ^^^ c ^^^ d = a := by
    intro a b c d
    refine ⟨?_, ?_, ?_, ?_⟩ <;>
      (apply BitVec.eq_of_getLsbD_eq; intro i _; simp only [BitVec.getLsbD_xor]
       cases a.getLsbD i <;> cases b.getLsbD i <;> cases c.getLsbD i <;> cases d.getLsbD i <;> rfl)
  have h8 : b = 0 ∨ b = 1 ∨ b = 2 ∨ b = 3 ∨ b = 4 ∨ b = 5 ∨ b = 6 ∨ b = 7 := by omega
  generalize hf : (fun n => bankData s k n r y) = f
  have hf' : ∀ n, bankData s k n r y = f n := fun n => by rw [← hf]
  simp only [hf']
  have k0 := key (f 0) (f 1) (f 2) (f 3)
  have k1 := key (f 4) (f 5) (f 6) (f 7)
  rcases h8 with rfl | rfl | rfl | rfl | rfl | rfl | rfl | rfl
  · exact k0.2.2.2
  · exact k0.2.2.1
  · exact k0.2.1
  · exact k0.1
  · exact k1.2.2.2
  · exact k1.2.2.1
  · exact k1.2.1
  · exact k1.1

/-! Taking an exception (R23) and returning from one (R25). -/

/-- What a trap entry does to the task context of core k when it is no double fault. -/
theorem trapEntry_task (s : State) (k : CoreId) (code : BitVec 8) (async : Bool) (epc eval fx : Word)
    (hn : ((coreOf s k).task.nest && !async) = false) (ht : tvecOk s k = true) :
    (coreOf (trapEntry s k code async epc eval fx) k).task =
      { (coreOf s k).task with
        epc := epc, eval := eval
        cause := BitVec.ofNat 64 (async.toNat * 2 ^ 63 + code.toNat)
        status := mkStatus true (coreOf s k).task.ie false (coreOf s k).task.prv true
        faultx := fx, pc := (coreOf s k).tvec, wait := .none, takes := []
        pauseEnd := if async then 0 else (coreOf s k).task.pauseEnd, last := .trapped code } := by
  unfold trapEntry
  simp only [hn, ht, Bool.not_true, Bool.false_eq_true, if_false]
  rw [coreOf_setCore_self]

/-- The return sequence restores what the last trap entry saved. -/
theorem cx_returnSeq (s : State) :
    cx (returnSeq s) = { cx s with
      status := mkStatus false (cx s).pie (cx s).pie (cx s).pprv (cx s).pprv, pc := (cx s).epc, last := .retired } := by
  simp [returnSeq]

end Sys2Proof.Machine
end

