-- ==== Sys2Proof/Tests/Slice0.lean ====
section
/-!
SUPPORT. Tests. First the decoder, on one word of every instruction, written from the encoding tables of the manual
(R34 to R58) by a program that does not know the model; then the smoke test of well-formedness; then steps whose
results the manual gives; then, for each statement, states and operands that meet its premises (`test_meets_…`).
-/
namespace Sys2Proof.Tests

open Sys2Proof Sys2Proof.Machine
open Host (Outcome)

set_option Elab.async false

/-! Words. -/

/-- Each list of halfwords decodes to the instruction beside it. -/
def readsAs (l : List (List Half × Instr)) : Bool := l.all fun p => decide ((decode p.1).toOption = some p.2)

theorem test_words_system : readsAs [
    ([0x012b], .trap 0x2b),
    ([0x022b], .brk 0x2b),
    ([0x0300], .eret),
    ([0x0400], .halt),
    ([0x0500], .wfe),
    ([0x0645, 0xb4c9], .csrd 5 0x2d3 9),
    ([0x0745, 0xb4c9], .cswr 5 0x2d3 9),
    ([0x0845, 0xb4c9], .csset 5 0x2d3 9),
    ([0x0945, 0xb4c9], .csclr 5 0x2d3 9)] = true := by decide +kernel

theorem test_words_integer : readsAs [
    ([0x0a85, 0xcdef, 0x89ab], .ldi 5 0x89abcdef),
    ([0x0b85, 0xcdef, 0x89ab], .ldih 5 0x89abcdef),
    ([0x0c45, 0x2400], .mov 5 9),
    ([0x0d85, 0x2600, 0x1234], .lea 5 ⟨.arr, 9, 0x1234⟩),
    ([0x0e45, 0x2555], .coord 5 9 0x155),
    ([0x0f45, 0x2555], .widx 5 9 0x155),
    ([0x1045, 0x2560], .add 5 9 22),
    ([0x1145, 0x2555], .addi 5 9 0x155),
    ([0x1245, 0x2560], .sub 5 9 22),
    ([0x1345, 0x2560], .mul 5 9 22),
    ([0x1445, 0x2560], .mulh 5 9 22),
    ([0x1545, 0x2560], .mulhu 5 9 22),
    ([0x1645, 0x2560], .div 5 9 22),
    ([0x1745, 0x2560], .divu 5 9 22),
    ([0x1845, 0x2560], .rem 5 9 22),
    ([0x1945, 0x2560], .remu 5 9 22),
    ([0x1a45, 0x2560], .and 5 9 22),
    ([0x1b45, 0x2555], .andi 5 9 0x155),
    ([0x1c45, 0x2560], .or 5 9 22),
    ([0x1d45, 0x2555], .ori 5 9 0x155),
    ([0x1e45, 0x2560], .xor 5 9 22),
    ([0x1f45, 0x2555], .xori 5 9 0x155),
    ([0x2045, 0x2560], .shl 5 9 22),
    ([0x2145, 0x2555], .shli 5 9 0x155),
    ([0x2245, 0x2560], .shr 5 9 22),
    ([0x2345, 0x2555], .shri 5 9 0x155),
    ([0x2445, 0x2560], .sar 5 9 22),
    ([0x2545, 0x2555], .sari 5 9 0x155),
    ([0x2645, 0x2560], .min 5 9 22),
    ([0x2745, 0x2560], .max 5 9 22),
    ([0x2845, 0x2560], .minu 5 9 22),
    ([0x2945, 0x2560], .maxu 5 9 22),
    ([0x2a45, 0x2560], .seq 5 9 22),
    ([0x2b45, 0x2560], .sne 5 9 22),
    ([0x2c45, 0x2560], .slt 5 9 22),
    ([0x2d45, 0x2555], .slti 5 9 0x155),
    ([0x2e45, 0x2560], .sltu 5 9 22),
    ([0x2f85, 0x2560, 0x6c00], .sel 5 9 22 27),
    ([0x3045, 0x2400], .clz 5 9),
    ([0x3145, 0x2400], .ctz 5 9),
    ([0x3245, 0x2400], .popc 5 9),
    ([0x3345, 0x2400], .brev 5 9),
    ([0x3445, 0x2400], .bswap 5 9),
    ([0x3545, 0x2560], .bfx 5 9 22),
    ([0x3645, 0x2560], .bfxu 5 9 22),
    ([0x3745, 0x2560], .bfi 5 9 22),
    ([0x3845, 0x2402], .sext .w 5 9),
    ([0x3945, 0x2402], .zext .w 5 9),
    ([0x3a45, 0x2560], .addra 5 9 22)] = true := by decide +kernel

theorem test_words_control : readsAs [
    ([0x4040, 0xa956], .b ⟨0x2a5, 0x0b⟩),
    ([0x4189, 0x5800, 0xa956], .beq 9 22 ⟨0x2a5, 0x0b⟩),
    ([0x4289, 0x5800, 0xa956], .bne 9 22 ⟨0x2a5, 0x0b⟩),
    ([0x4389, 0x5800, 0xa956], .blt 9 22 ⟨0x2a5, 0x0b⟩),
    ([0x4489, 0x5800, 0xa956], .bge 9 22 ⟨0x2a5, 0x0b⟩),
    ([0x4589, 0x5800, 0xa956], .bltu 9 22 ⟨0x2a5, 0x0b⟩),
    ([0x4689, 0x5800, 0xa956], .bgeu 9 22 ⟨0x2a5, 0x0b⟩),
    ([0x4749, 0xa956], .call 9 ⟨0x2a5, 0x0b⟩),
    ([0x4845, 0x2400], .callr 5 9),
    ([0x4949, 0xa956], .bz 9 ⟨0x2a5, 0x0b⟩),
    ([0x4a49, 0xa956], .bnz 9 ⟨0x2a5, 0x0b⟩),
    ([0x4b49, 0xa956], .loop 9 ⟨0x2a5, 0x0b⟩),
    ([0x4c09], .jr 9),
    ([0x4e09], .ret 9)] = true := by decide +kernel

theorem test_words_scalar_float : readsAs [
    ([0x5045, 0x2562], .fadd .rp 5 9 22),
    ([0x5145, 0x2562], .fsub .rp 5 9 22),
    ([0x5245, 0x2562], .fmul .rp 5 9 22),
    ([0x5385, 0x2562, 0x6c00], .ffma .rp 5 9 22 27),
    ([0x5445, 0x2562], .fdiv .rp 5 9 22),
    ([0x5545, 0x2402], .fsqrt .rp 5 9),
    ([0x5645, 0x2560], .fmin 5 9 22),
    ([0x5745, 0x2560], .fmax 5 9 22),
    ([0x5845, 0x2562], .fcmp .le 5 9 22),
    ([0x5945, 0x2403], .fcvt .fLu 5 9),
    ([0x5a45, 0x2400], .fclass 5 9)] = true := by decide +kernel

theorem test_words_memory : readsAs [
    ([0x6085, 0x2680, 0x1234], .ld .w 5 ⟨.arr, 9, 0x1234⟩),
    ([0x6185, 0x2680, 0x1234], .ldu .w 5 ⟨.arr, 9, 0x1234⟩),
    ([0x6285, 0x2680, 0x1234], .st .w 5 ⟨.arr, 9, 0x1234⟩),
    ([0x6385, 0x26a0, 0x1234], .ldacq .w .dev 5 ⟨.arr, 9, 0x1234⟩),
    ([0x6485, 0x26a0, 0x1234], .strel .w .dev 5 ⟨.arr, 9, 0x1234⟩),
    ([0x65c5, 0x27a0, 0x6c00, 0x1234], .amo .max .dev 5 ⟨.arr, 9, 0x1234⟩ 27),
    ([0x66c5, 0x25a0, 0x6c00, 0x1234], .amofar .max .dev 5 ⟨9, 0x1234⟩ 27),
    ([0x67c5, 0x26e0, 0x6c00, 0x1234], .cas .d .dev 5 ⟨.arr, 9, 0x1234⟩ 27),
    ([0x68c5, 0x24e0, 0x6c00, 0x1234], .casfar .d .dev 5 ⟨9, 0x1234⟩ 27),
    ([0x69c5, 0x2420, 0x6c00, 0x1234], .amof .dev 5 ⟨9, 0x1234⟩ 27),
    ([0x6a85, 0x2480, 0x1234], .red .d 5 ⟨9, 0x1234⟩),
    ([0x6b85, 0x2400, 0x1234], .merge 5 ⟨9, 0x1234⟩),
    ([0x6c80, 0x0020, 0x0000], .fence .dev),
    ([0x6c80, 0x0040, 0x0000], .fenceRs),
    ([0x6d85, 0x2420, 0x1234], .bind .dev 5 ⟨9, 0x1234⟩),
    ([0x6e85, 0x24e0, 0x1234], .waita .d .dev 5 ⟨9, 0x1234⟩),
    ([0x6f80, 0x2440, 0x1234], .pref true ⟨9, 0x1234⟩),
    ([0x7080, 0x2400, 0x1234], .cwb ⟨9, 0x1234⟩),
    ([0x7180, 0x2400, 0x1234], .cinv ⟨9, 0x1234⟩)] = true := by decide +kernel

theorem test_words_parallel : readsAs [
    ([0x722b], .gang 0x2b),
    ([0x7300], .split),
    ([0x7485, 0x2600, 0x1234], .send 5 ⟨9, 0x1234⟩),
    ([0x75c5, 0x2600, 0x6f6e, 0x1234], .sendv 5 ⟨9, 0x1234⟩ ⟨27, true, 5, 2, 0xe⟩),
    ([0x7685, 0x2600, 0x1234], .spawn 5 ⟨9, 0x1234⟩),
    ([0x7745, 0x2555], .sbind 5 9 0x155),
    ([0x7845, 0x0155], .sunbind 5 0x155),
    ([0x7945, 0x2560], .rqadd 5 9 22),
    ([0x7a45, 0x0000], .rqtake 5),
    ([0x7b45, 0x2560], .rqpeek 5 9 22),
    ([0x7c45, 0x2560], .steal 5 9 22),
    ([0x7d00], .texit),
    ([0x7e00], .yield),
    ([0x7f00], .hret),
    ([0x8045, 0x2400], .tmset 5 9),
    ([0x8140, 0x2555], .pause 9 0x155),
    ([0x8245, 0x2555], .binit 5 9 0x155),
    ([0x8380, 0x2600, 0x1234], .barv ⟨9, 0x1234⟩),
    ([0x8445, 0x2555], .bwait 5 9 0x155),
    ([0x8545, 0x0155], .btest 5 0x155),
    ([0x8645, 0x2555], .bexp 5 9 0x155),
    ([0x8740, 0x2400], .slotf 9)] = true := by decide +kernel

theorem test_words_engine : readsAs [
    ([0x8885, 0x2600, 0x1234], .copy 5 ⟨.arr, 9, 0x1234⟩),
    ([0x8985, 0x2600, 0x1234], .copy2 5 ⟨.arr, 9, 0x1234⟩),
    ([0x8a85, 0x2600, 0x1234], .copyx 5 ⟨.arr, 9, 0x1234⟩),
    ([0x8b85, 0x2600, 0x1234], .copym 5 ⟨.arr, 9, 0x1234⟩),
    ([0x8c85, 0x2600, 0x1234], .conv 5 ⟨.arr, 9, 0x1234⟩),
    ([0x8d45, 0x2400], .mview 5 9),
    ([0x8d45, 0x2661], .mviewSv 5 9 0x13),
    ([0x8e09], .mzero 9),
    ([0x8f85, 0x2560, 0x6c00], .mma 5 9 22 27),
    ([0x9085, 0x2560, 0x6c00], .mmax 5 9 22 27),
    ([0x9185, 0x2560, 0x6c00], .mmas 5 9 22 27),
    ([0x9285, 0x2560, 0x6c00], .mmar 5 9 22 27),
    ([0x9345, 0x2400], .mprog 5 9),
    ([0x9409], .mwait 9)] = true := by decide +kernel

theorem test_words_vector_integer : readsAs [
    ([0x9885, 0x2562, 0x6f6e], .vadd .w 5 9 22 ⟨27, true, 5, 2, 0xe⟩),
    ([0x9985, 0x2562, 0x6f6e], .vaddTwin .w 5 9 22 ⟨27, true, 5, 2, 0xe⟩),
    ([0x9a85, 0x2562, 0x6f6e], .vsub .w 5 9 22 ⟨27, true, 5, 2, 0xe⟩),
    ([0x9b85, 0x2562, 0x6f6e], .vsubTwin .w 5 9 22 ⟨27, true, 5, 2, 0xe⟩),
    ([0x9c85, 0x2562, 0x6f6e], .vmul .w 5 9 22 ⟨27, true, 5, 2, 0xe⟩),
    ([0x9d85, 0x2562, 0x6f6e], .vmulTwin .w 5 9 22 ⟨27, true, 5, 2, 0xe⟩),
    ([0x9e85, 0x2566, 0x6f6e], .vmulh ⟨true, .w⟩ 5 9 22 ⟨27, true, 5, 2, 0xe⟩),
    ([0x9f85, 0x2566, 0x6f6e], .vmulhTwin ⟨true, .w⟩ 5 9 22 ⟨27, true, 5, 2, 0xe⟩),
    ([0xa085, 0x2562, 0x6f6e], .vmadd .w 5 9 22 ⟨27, true, 5, 2, 0xe⟩),
    ([0xa185, 0x2562, 0x6f6e], .vmaddTwin .w 5 9 22 ⟨27, true, 5, 2, 0xe⟩),
    ([0xa285, 0x2560, 0x6f6e], .vand 5 9 22 ⟨27, true, 5, 2, 0xe⟩),
    ([0xa385, 0x2560, 0x6f6e], .vandTwin 5 9 22 ⟨27, true, 5, 2, 0xe⟩),
    ([0xa485, 0x2560, 0x6f6e], .vor 5 9 22 ⟨27, true, 5, 2, 0xe⟩),
    ([0xa585, 0x2560, 0x6f6e], .vorTwin 5 9 22 ⟨27, true, 5, 2, 0xe⟩),
    ([0xa685, 0x2560, 0x6f6e], .vxor 5 9 22 ⟨27, true, 5, 2, 0xe⟩),
    ([0xa785, 0x2560, 0x6f6e], .vxorTwin 5 9 22 ⟨27, true, 5, 2, 0xe⟩),
    ([0xa885, 0x2562, 0x6f6e], .vshl .w 5 9 22 ⟨27, true, 5, 2, 0xe⟩),
    ([0xa985, 0x2562, 0x6f6e], .vshlTwin .w 5 9 22 ⟨27, true, 5, 2, 0xe⟩),
    ([0xaa85, 0x2562, 0x6f6e], .vshr .w 5 9 22 ⟨27, true, 5, 2, 0xe⟩),
    ([0xab85, 0x2562, 0x6f6e], .vshrTwin .w 5 9 22 ⟨27, true, 5, 2, 0xe⟩),
    ([0xac85, 0x2562, 0x6f6e], .vsar .w 5 9 22 ⟨27, true, 5, 2, 0xe⟩),
    ([0xad85, 0x2562, 0x6f6e], .vsarTwin .w 5 9 22 ⟨27, true, 5, 2, 0xe⟩),
    ([0xae85, 0x2566, 0x6f6e], .vmin ⟨true, .w⟩ 5 9 22 ⟨27, true, 5, 2, 0xe⟩),
    ([0xaf85, 0x2566, 0x6f6e], .vminTwin ⟨true, .w⟩ 5 9 22 ⟨27, true, 5, 2, 0xe⟩),
    ([0xb085, 0x2566, 0x6f6e], .vmax ⟨true, .w⟩ 5 9 22 ⟨27, true, 5, 2, 0xe⟩),
    ([0xb185, 0x2566, 0x6f6e], .vmaxTwin ⟨true, .w⟩ 5 9 22 ⟨27, true, 5, 2, 0xe⟩),
    ([0xb285, 0x2402, 0x6f6e], .vabs .w 5 9 ⟨27, true, 5, 2, 0xe⟩),
    ([0xb385, 0x2402, 0x6f6e], .vneg .w 5 9 ⟨27, true, 5, 2, 0xe⟩)] = true := by decide +kernel

theorem test_words_vector_float : readsAs [
    ([0xb485, 0x2561, 0x6f6e], .vfadd .bf 5 9 22 ⟨27, true, 5, 2, 0xe⟩),
    ([0xb585, 0x2561, 0x6f6e], .vfaddTwin .bf 5 9 22 ⟨27, true, 5, 2, 0xe⟩),
    ([0xb685, 0x2561, 0x6f6e], .vfsub .bf 5 9 22 ⟨27, true, 5, 2, 0xe⟩),
    ([0xb785, 0x2561, 0x6f6e], .vfsubTwin .bf 5 9 22 ⟨27, true, 5, 2, 0xe⟩),
    ([0xb885, 0x2561, 0x6f6e], .vfmul .bf 5 9 22 ⟨27, true, 5, 2, 0xe⟩),
    ([0xb985, 0x2561, 0x6f6e], .vfmulTwin .bf 5 9 22 ⟨27, true, 5, 2, 0xe⟩),
    ([0xba85, 0x2561, 0x6f6e], .vfma .bf 5 9 22 ⟨27, true, 5, 2, 0xe⟩),
    ([0xbb85, 0x2561, 0x6f6e], .vfmaTwin .bf 5 9 22 ⟨27, true, 5, 2, 0xe⟩),
    ([0xbc85, 0x2561, 0x6f6e], .vfms .bf 5 9 22 ⟨27, true, 5, 2, 0xe⟩),
    ([0xbd85, 0x2561, 0x6f6e], .vfmsTwin .bf 5 9 22 ⟨27, true, 5, 2, 0xe⟩),
    ([0xbe85, 0x2561, 0x6f6e], .vfnma .bf 5 9 22 ⟨27, true, 5, 2, 0xe⟩),
    ([0xbf85, 0x2561, 0x6f6e], .vfnmaTwin .bf 5 9 22 ⟨27, true, 5, 2, 0xe⟩),
    ([0xc085, 0x2561, 0x6f6e], .vfdiv .bf 5 9 22 ⟨27, true, 5, 2, 0xe⟩),
    ([0xc185, 0x2561, 0x6f6e], .vfdivTwin .bf 5 9 22 ⟨27, true, 5, 2, 0xe⟩),
    ([0xc285, 0x2401, 0x6f6e], .vfsqrt .bf 5 9 ⟨27, true, 5, 2, 0xe⟩),
    ([0xc385, 0x2561, 0x6f6e], .vfmin .bf 5 9 22 ⟨27, true, 5, 2, 0xe⟩),
    ([0xc485, 0x2561, 0x6f6e], .vfminTwin .bf 5 9 22 ⟨27, true, 5, 2, 0xe⟩),
    ([0xc585, 0x2561, 0x6f6e], .vfmax .bf 5 9 22 ⟨27, true, 5, 2, 0xe⟩),
    ([0xc685, 0x2561, 0x6f6e], .vfmaxTwin .bf 5 9 22 ⟨27, true, 5, 2, 0xe⟩),
    ([0xc785, 0x2401, 0x6f6e], .vfabs .bf 5 9 ⟨27, true, 5, 2, 0xe⟩)] = true := by decide +kernel

theorem test_words_vector_move : readsAs [
    ([0xc885, 0x2569, 0x6f6e], .vcmp ⟨.lt, .h⟩ 5 9 22 ⟨27, true, 5, 2, 0xe⟩),
    ([0xc985, 0x2569, 0x6f6e], .vcmpTwin ⟨.lt, .h⟩ 5 9 22 ⟨27, true, 5, 2, 0xe⟩),
    ([0xca85, 0x256a, 0x6f6e], .vfcmp ⟨.le, .hf⟩ 5 9 22 ⟨27, true, 5, 2, 0xe⟩),
    ([0xcb85, 0x256a, 0x6f6e], .vfcmpTwin ⟨.le, .hf⟩ 5 9 22 ⟨27, true, 5, 2, 0xe⟩),
    ([0xcc85, 0x2560, 0x6f6e], .vsel 5 9 22 ⟨27, true, 5, 2, 0xe⟩),
    ([0xcd85, 0x2474, 0x6f6e], .vcvt .wF .rm true 5 9 ⟨27, true, 5, 2, 0xe⟩),
    ([0xce85, 0x2402, 0x6f6e], .vsplat .w 5 9 ⟨27, true, 5, 2, 0xe⟩),
    ([0xcf85, 0x2402, 0x6f6e], .vmovs .w 5 9 ⟨27, true, 5, 2, 0xe⟩),
    ([0xd085, 0x2562, 0x6f6e], .vext .w 5 9 22 ⟨27, true, 5, 2, 0xe⟩),
    ([0xd185, 0x2562, 0x6f6e], .vins .w 5 9 22 ⟨27, true, 5, 2, 0xe⟩),
    ([0xd285, 0x2562, 0x6f6e], .vperm .w 5 9 22 ⟨27, true, 5, 2, 0xe⟩),
    ([0xd385, 0x2402, 0x6f6e], .vpswp .w 5 9 ⟨27, true, 5, 2, 0xe⟩),
    ([0xd485, 0x2562, 0x6f6e], .vrot .w 5 9 22 ⟨27, true, 5, 2, 0xe⟩),
    ([0xd585, 0x2562, 0x6f6e], .vzip .w 5 9 22 ⟨27, true, 5, 2, 0xe⟩),
    ([0xd685, 0x2562, 0x6f6e], .vuzp .w 5 9 22 ⟨27, true, 5, 2, 0xe⟩),
    ([0xd785, 0x2409, 0x6f6e], .vred ⟨.max, .h⟩ 5 9 ⟨27, true, 5, 2, 0xe⟩),
    ([0xd885, 0x2405, 0x6f6e], .vfred ⟨.min, .bf⟩ 5 9 ⟨27, true, 5, 2, 0xe⟩),
    ([0xd985, 0x2561, 0x6f6e], .vdot .u 5 9 22 ⟨27, true, 5, 2, 0xe⟩),
    ([0xda85, 0x2561, 0x6f6e], .vdotTwin .u 5 9 22 ⟨27, true, 5, 2, 0xe⟩),
    ([0xdb85, 0x2562, 0x6f6e], .vfdot .hf 5 9 22 ⟨27, true, 5, 2, 0xe⟩),
    ([0xdc85, 0x2562, 0x6f6e], .vfdotTwin .hf 5 9 22 ⟨27, true, 5, 2, 0xe⟩),
    ([0xdd85, 0x2400, 0x6f6e], .vsin 5 9 ⟨27, true, 5, 2, 0xe⟩),
    ([0xde85, 0x2400, 0x6f6e], .vcos 5 9 ⟨27, true, 5, 2, 0xe⟩),
    ([0xdf85, 0x2400, 0x6f6e], .vexp2 5 9 ⟨27, true, 5, 2, 0xe⟩),
    ([0xe085, 0x2400, 0x6f6e], .vlog2 5 9 ⟨27, true, 5, 2, 0xe⟩),
    ([0xe185, 0x2400, 0x6f6e], .vrcp 5 9 ⟨27, true, 5, 2, 0xe⟩),
    ([0xe285, 0x2400, 0x6f6e], .vrsq 5 9 ⟨27, true, 5, 2, 0xe⟩),
    ([0xe385, 0x2400, 0x6f6e], .vtanh 5 9 ⟨27, true, 5, 2, 0xe⟩),
    ([0xe485, 0x2401, 0x6f6e], .vclass .bf 5 9 ⟨27, true, 5, 2, 0xe⟩)] = true := by decide +kernel

theorem test_words_vector_memory : readsAs [
    ([0xe5c5, 0x2600, 0x6f6e, 0x1234], .vld 5 ⟨.arr, 9, 0x1234⟩ ⟨27, true, 5, 2, 0xe⟩),
    ([0xe6c5, 0x2600, 0x6f6e, 0x1234], .vst 5 ⟨.arr, 9, 0x1234⟩ ⟨27, true, 5, 2, 0xe⟩),
    ([0xe7c5, 0x2680, 0x6f6e, 0x1234], .vlds .w 5 ⟨.arr, 9, 0x1234⟩ ⟨27, true, 5, 2, 0xe⟩),
    ([0xe8c5, 0x2680, 0x6f6e, 0x1234], .vsts .w 5 ⟨.arr, 9, 0x1234⟩ ⟨27, true, 5, 2, 0xe⟩),
    ([0xe9c5, 0x2680, 0x6f6e, 0x1234], .vgath .w 5 ⟨.arr, 9, 0x1234⟩ ⟨27, true, 5, 2, 0xe⟩),
    ([0xeac5, 0x2680, 0x6f6e, 0x1234], .vscat .w 5 ⟨.arr, 9, 0x1234⟩ ⟨27, true, 5, 2, 0xe⟩),
    ([0xeb85, 0x2560, 0x0000], .mand 5 9 22),
    ([0xec85, 0x2560, 0x0000], .mor 5 9 22),
    ([0xed85, 0x2560, 0x0000], .mxor 5 9 22),
    ([0xee85, 0x2400, 0x0000], .mnot 5 9),
    ([0xef85, 0x2400, 0x0000], .mpop 5 9)] = true := by decide +kernel

theorem test_words_unassigned_and_hints : readsAs [
    ([0xf000], .nop),
    ([0xf9c3, 0x0001, 0x0002, 0x0003], .hint 9)] = true := by decide +kernel

/-! Well-formedness: what it refuses. -/

theorem test_wf_refuses_an_event : (Instr.timerExpiry 0).wf = false := by decide
theorem test_wf_refuses_an_unassigned_opcode : (Instr.unassignedOpcode 0xf1).wf = false := by decide
theorem test_wf_refuses_a_hint_without_a_value : (Instr.hint 0).wf = false := by decide
theorem test_wf_takes_a_hint : (Instr.hint 15).wf = true := by decide
/-- A specifier that no class holds is no matter of form: the words decode, and the instruction traps (R40). -/
theorem test_wf_takes_a_bad_specifier : (Instr.add 63 63 63).wf = true := by decide
/-- R36, R38, R57: an opcode that the table does not assign is its own row; a head with a wrong L has no instruction. -/
theorem test_unassigned_words : (decode [0x0000]).toOption = some (.unassignedOpcode 0) ∧ (decode [0x0341, 0x0000]).toOption = none := by
  decide +kernel

/-! States. -/

/-- A vector of words from a list, zero past its end. -/
def ws (n : Nat) (l : List Nat) : Vector Word n := Vector.ofFn fun i => .ofNat 64 (l[i.val]?.getD 0)

/-- A task context at slot 1 of the leaf 0x1000, with STATUS and s0, s1, …. -/
def tc (status : Nat) (l : List Nat) : Ctx :=
  { Ctx.reset with pc := 0x1002, succ := 0x1004, raw := 0x1041, status := .ofNat 64 status, s := ws 32 l }

/-- Core k, released, its vector at slot 1 of the leaf 0x2000. -/
def cr (x : Ctx) : Core := { Core.reset with released := true, tvec := 0x2002, task := x }

/-- Core 33 (1, 1) steps in its task context: a core with four neighbours. -/
def at_ (c : Core) : State := { State.reset with cur := 33, core := c }

/-- Supervisor mode, s1 = 0x2b, s2 = 7, s3 = 9, s4 = 4. -/
def w0 : State := at_ (cr (tc 0x10 [0, 0x2b, 7, 9, 4]))

/-- The same in user mode, with the kernel not nested. -/
def wu : State := at_ (cr (tc 0 [0, 0x2b, 7, 9, 4]))

/-! Premises that can be evaluated. -/

def ok {α : Type} (x : Res α) : Bool := x.toOption.isSome
def okIs {ε α : Type} [DecidableEq α] (x : Except ε α) (v : α) : Bool := decide (x.toOption = some v)
/-- The value of a part, without the state it leaves. -/
def val {α : Type} (x : Res (α × State)) : Option α := x.toOption.map (·.1)

theorem of_ok {α : Type} {x : Res α} (h : ok x = true) : ∃ v, x = .ok v := by
  cases x with
  | ok v => exact ⟨v, rfl⟩
  | error e => simp [ok, Except.toOption] at h

theorem of_okIs {ε α : Type} [DecidableEq α] {x : Except ε α} {v : α} (h : okIs x v = true) : x = .ok v := by
  cases x with
  | ok u => simpa [okIs, Except.toOption] using h
  | error e => simp [okIs, Except.toOption] at h

theorem of_val {α : Type} {x : Res (α × State)} {v : α} (h : val x = some v) : ∃ t, x = .ok (v, t) := by
  cases x with
  | ok u => exact ⟨u.2, by simp [val, Except.toOption] at h; simp [← h]⟩
  | error e => simp [val, Except.toOption] at h

theorem allowed {s : State} {us : List Use} (h : (us.all fun u => u.legal && ok (roleOf s u)) = true) : Allowed s us := by
  intro u hu
  have := List.all_eq_true.mp h u hu
  simp only [Bool.and_eq_true] at this
  exact ⟨this.1, (of_ok this.2).choose_spec⟩

theorem readS_reg (s : State) {f : Spec} (h : f.toNat < 32) : readS s f = .ok (getS s f.toNat, s) := by simp [readS, h]

theorem reads1 (s : State) {a : Spec} (ha : a.toNat < 32) : Reads s [a] [getS s a.toNat] s := ⟨s, readS_reg s ha, rfl⟩
theorem reads2 (s : State) {a b : Spec} (ha : a.toNat < 32) (hb : b.toNat < 32) :
    Reads s [a, b] [getS s a.toNat, getS s b.toNat] s := ⟨s, readS_reg s ha, reads1 s hb⟩
theorem reads3 (s : State) {a b c : Spec} (ha : a.toNat < 32) (hb : b.toNat < 32) (hc : c.toNat < 32) :
    Reads s [a, b, c] [getS s a.toNat, getS s b.toNat, getS s c.toNat] s := ⟨s, readS_reg s ha, reads2 s hb hc⟩

theorem writes_reg (s : State) {d : Spec} (h : d.toNat < 32) (v : Word) : ∃ t, writeS s d v = .ok t := ⟨putS s d.toNat v, by simp [writeS, h]⟩

/-! Premises of the scalar statements: registers; a queue whose consumer and producer is this core; a link. -/

theorem test_meets_scalar_registers : (0 : Spec).toNat < 32 ∧ (31 : Spec).toNat < 32 := by decide

/-- A tile whose queue 0 holds `q` and has core 3, which steps, as producer and consumer. -/
def withQ (q : List Word) : State :=
  { w0 with tiles := [(0, { Tile.reset with qmap := 0x000000e4dcb7432f, queues := vset Tile.reset.queues 0 q })] }

/-- The handler context runs while the task waits for a load into queue or link register f. -/
def fills (f : Spec) : State :=
  { withQ [5] with kind := .handler, core := { w0.core with task := { w0.core.task with wait := .remote f 8 false 0 } } }

/-- The handler context runs while the task waits for an instruction that has queue or link register f as a source. -/
def held (f : Spec) : State :=
  { withQ [5] with kind := .handler, core := { w0.core with task := { w0.core.task with wait := .fence, takes := [.s f] } } }

theorem test_meets_queue_operands :
    ok (readS (withQ []) 32) = false ∧ val (readS (withQ [5, 6]) 32) = some 5 ∧
    storeInFlight (withQ [5, 6]) (tileMate 33 (qProducer 0x000000e4dcb7432f 0)) 33 = false ∧
    storeInFlight { withQ [5, 6] with net := [⟨tileMate 33 3, 33, 0, 0, .store 0 .task [] 0 false⟩] }
      (tileMate 33 (qProducer 0x000000e4dcb7432f 0)) 33 = true ∧
    ok (writeS (withQ (List.replicate 7 1)) 32 9) = true ∧ ok (writeS (withQ (List.replicate 8 1)) 32 9) = false ∧
    otherTakes (withQ [5]) 32 = false ∧ otherTakes (held 32) 32 = true ∧ otherPuts (held 32) 32 = 0 ∧
    otherPuts (fills 32) 32 = 1 ∧ otherTakes (fills 32) 32 = false ∧ (32 : Spec).toNat = 32 ∧ (39 : Spec).toNat = 39 := by decide +kernel

/-- The east link of core 33 holds word 5; the end at core 34, which lies in another tile, holds n words of ours. -/
def withL (n : Nat) : State :=
  { w0 with
    core := { w0.core with links := w0.core.links.set .east ⟨[5], [], 0⟩ }
    others := [(34, { Core.reset with links := Core.reset.links.set .west ⟨List.replicate n 1, [], 0⟩ })] }

theorem test_meets_link_operands :
    otherTakes (withL 0) 41 = false ∧ otherTakes (held 41) 41 = true ∧ otherPuts (fills 41) 41 = 1 ∧
    neighbour w0.cur .east = some 34 ∧ ok (readS w0 41) = false ∧ val (readS (withL 0) 41) = some 5 ∧
    ok (writeS (withL 3) 41 9) = true ∧ ok (writeS (withL 4) 41 9) = false := by decide +kernel

/-- R81 to R83, R91 to R96 and the frame: three sources, a destination that can be written whatever the value. -/
theorem test_meets_scalar_forms :
    Allowed w0 [.dstS 1, .srcS 2, .srcS 3, .srcS 4] ∧ Reads w0 [2, 3] [7, 9] w0 ∧ Reads w0 [2, 3, 4] [7, 9, 4] w0 ∧
    Reads w0 [2] [7] w0 ∧ (∀ v, ∃ t, writeS w0 1 v = .ok t) ∧ Allowed w0 [.regS 1, .srcS 2, .srcS 3] ∧ Allowed w0 [.regS 31] :=
  ⟨allowed (by decide +kernel), reads2 w0 (by decide) (by decide), reads3 w0 (by decide) (by decide) (by decide),
    reads1 w0 (by decide), writes_reg w0 (by decide), allowed (by decide +kernel), allowed (by decide +kernel)⟩

/-- The same with a queue as source and as destination. -/
theorem test_meets_scalar_forms_queue :
    Allowed (withQ [7, 8]) [.dstS 32, .srcS 32] ∧ ∃ s1, Reads (withQ [7, 8]) [32] [7] s1 := by
  obtain ⟨t, h⟩ := of_val (x := readS (withQ [7, 8]) 32) (v := 7) (by decide +kernel)
  exact ⟨allowed (by decide +kernel), t, t, h, rfl⟩

/-- R85: the field of width 0, one that ends at bit 63 and one that is cut there. -/
theorem test_meets_bit_fields :
    min (fld (0 : Word) 6 7) (64 - fld (0 : Word) 0 6) = 0 ∧ min (fld (0x7f : Word) 6 7) (64 - fld (0x7f : Word) 0 6) = 1 ∧
    min (fld (0x1000 : Word) 6 7) (64 - fld (0x1000 : Word) 0 6) = 64 := by decide

/-- R90: WIDX of a register pair that exists, at its last, and of one that does not. -/
theorem test_meets_widx : (30 : Spec).toNat ≤ 30 ∧ 31 ≤ (31 : Spec).toNat ∧ Allowed w0 [.dstS 43] :=
  ⟨by decide, by decide, allowed (by decide +kernel)⟩

theorem test_meets_rounding : ∀ f ∈ [fp32, fp16, bf16, e5m2, e4m3, e3m2, e2m3, e2m1], f.decode 0 ≠ .nan ∧ 0 < 2 ^ f.width := by decide +kernel


/-- R93: one operand a NaN, and none. -/
theorem test_meets_float_selections :
    fp32.decode 0x7fc00000 = .nan ∧ fp32.decode 0x3f800000 ≠ .nan ∧ fp32.decode 0x80000000 ≠ .nan := by decide +kernel
/-! Premises of the vector statements. -/

/-- No predicate, no gang, c = 3. -/
def rx0 : RX := ⟨3, false, 0, 0, 0⟩
/-- Predicate m5. -/
def rxp : RX := ⟨3, true, 5, 0, 0⟩

theorem reads_vec {x : Res ((Vec × Vec × Vec) × State)} {v : Vec × Vec × Vec} (h : val x = some v) :
    ∃ s1, x = .ok ((v.1, v.2.1, v.2.2), s1) := of_val h

/-- R42, R110 to R127: each shape of operands can be read, with and without a predicate, with a scalar twin; the
destination is a vector register, a predicate or a scalar; any vector is some v, lane by lane. -/
theorem test_meets_vector_forms : ∀ rx ∈ [rx0, rxp],
    (∃ s1, vecSrc w0 (.dstV 1) 2 3 rx .vec true 32 = .ok ((0, 0, 0), s1)) ∧
    (∃ s1, vecSrc w0 (.dstV 1) 2 3 rx .scal true 32 = .ok ((0, .ofNat 512 ((List.range 16).map fun i => 9 * 2 ^ (32 * i)).sum, 0), s1)) ∧
    (∃ s1, vecSrc w0 (.dstV 31) 2 0 rx .no false 8 = .ok ((0, 0, 0), s1)) ∧
    (∃ s1, vecSrc w0 (.pred 7) 2 3 rx .vec false 8 = .ok ((0, 0, 0), s1)) ∧
    (∃ s1, vecSrc w0 (.dstS 1) 2 0 rx .no false 8 = .ok ((0, 0, 0), s1)) ∧
    rxOk w0 rx none none none = true ∧ rxOk w0 rx (some 2) none none = true := by
  intro rx h
  simp only [List.mem_cons, List.not_mem_nil, or_false] at h
  rcases h with rfl | rfl <;>
    refine ⟨reads_vec (v := (0, 0, 0)) ?_, reads_vec (v := (0, _, 0)) ?_, reads_vec (v := (0, 0, 0)) ?_,
      reads_vec (v := (0, 0, 0)) ?_, reads_vec (v := (0, 0, 0)) ?_, ?_, ?_⟩ <;> decide +kernel

theorem test_meets_vector_scalars :
    Allowed w0 [.dstV 1, .srcS 2] ∧ Allowed w0 [.dstV 1, .srcV 2, .srcS 3] ∧ Allowed w0 [.dstS 1, .srcV 2, .srcS 3] ∧
    Reads w0 [2] [7] w0 ∧ readVG w0 rx0 1 2 = .ok (0, w0) ∧ (7 : Spec).toNat < 8 :=
  ⟨allowed (by decide +kernel), allowed (by decide +kernel), allowed (by decide +kernel), reads1 w0 (by decide), rfl, by decide⟩

/-- A core in a gang of two reads a vector register of the other member (R41, R145, R146). -/
def wGang : State :=
  { w0 with core := { w0.core with gang := some ⟨33, 2, 0⟩ }, gangView := [Ctx.reset.v, vset Ctx.reset.v 2 0xab] }

theorem test_meets_vector_gang :
    ∃ s1, vecSrc wGang (.dstV 1) 2 3 ⟨3, false, 0, 1, 1⟩ .vec false 32 = .ok ((0xab, 0, 0), s1) :=
  reads_vec (v := (0xab, 0, 0)) (by decide +kernel)

/-- Entry 4 of core 33 is a feed v32 of the RUNNING task of slot 2; it holds one word. -/
def wFeed : State :=
  { w0 with core := { w0.core with
      slots := vset Core.reset.slots 2 { Slot.reset with st := .running }
      streams := vset Core.reset.streams 4 ⟨.ofNat 64 ((33 * 64 + 2) * 2 ^ 48 + 1), [(0, 0xcd)], none⟩ } }

theorem test_meets_vector_feed : ∃ s1, vecSrc wFeed (.dstV 1) 32 3 rx0 .vec false 32 = .ok ((0xcd, 0, 0), s1) :=
  reads_vec (v := (0xcd, 0, 0)) (by decide +kernel)

/-- R125 to R127: a NaN, and codes on both sides of the bounds of the symmetry. -/
theorem test_meets_special_functions :
    fp32.decode 0x7fc00000 = .nan ∧ fp32.decode 0 ≠ .nan ∧ fp32.decode 0 ≠ .inf false ∧
    fp32.decode 0x7f7fffff ≠ .nan ∧ fp32.decode 0x7f7fffff ≠ .inf false := by decide +kernel

/-! Premises of the statements on control, exceptions and control registers. -/

/-- Core 33 with the one-head leaf of NOP at its pc, 0x10002 (R28); s2 = 0x3002, whose leaf has no translation. -/
def wf : State := (at_ (cr (tc 0x10 [0, 1, 0x3002, 0x10004, 0x10002]))).withFetchWord 16 0xf000

/-- Targets: the same leaf at slot 1, at slot 2 past its one head, and slots 0, 30, 31 of the leaf after it. -/
def tg (lo slot : Nat) : Target := ⟨.ofNat 10 lo, .ofNat 5 slot⟩

theorem test_meets_control_transfers :
    ok (checkTarget wf (branchTarget wf (tg 0 1))) = true ∧ ok (checkTarget wf (branchTarget wf (tg 1 30))) = true ∧
    ok (checkTarget wf (getS wf 2)) = true ∧ getS wf 1 = 1 ∧ getS wf 2 ≠ 1 ∧
    branchTarget wf (tg 0 1) = 0x10002 ∧ branchTarget wf (tg 1 30) = 0x1007c ∧ branchTarget wf (tg 0x3ff 30) = 0xfffc := by
  decide +kernel

theorem test_meets_control_operands :
    Allowed wf [.srcS 2, .srcS 3] ∧ Reads wf [2, 3] [0x3002, 0x10004] wf ∧ Allowed wf [.dstS 5] ∧ Allowed wf [.regS 1] ∧
    ∀ v, ∃ t, writeS wf 5 v = .ok t :=
  ⟨allowed (by decide +kernel), reads2 wf (by decide) (by decide), allowed (by decide +kernel), allowed (by decide +kernel),
    writes_reg wf (by decide)⟩

/-- Bad targets: slots 0 and 31, an odd address, a slot past the heads of a bound leaf. Slots 1 and 30 of a leaf that cannot
be fetched are good. -/
theorem test_meets_bad_targets :
    targetOk (branchTarget wf (tg 1 0)) = false ∧ targetOk (branchTarget wf (tg 1 31)) = false ∧ targetOk 0x3003 = false ∧
    ((fetchLeaf wf (branchTarget wf (tg 0 2))).toOption.any fun f => decide (leafH f.image < slotOf (branchTarget wf (tg 0 2)))) = true ∧
    targetOk 0x3002 = true ∧ targetOk 0x303c = true ∧ ok (fetchLeaf wf 0x3002) = false := by decide +kernel

theorem test_meets_branch_relations :
    getS wf 2 ≠ getS wf 3 ∧ (getS wf 2).toInt < (getS wf 3).toInt ∧ (getS wf 2).toNat < (getS wf 3).toNat ∧ getS wf 0 = 0 := by
  decide +kernel

/-- A task that traps, one that is nested, and one whose vector is no target. -/
theorem test_meets_trap_entry :
    (coreOf wu 33).task.nest = false ∧ tvecOk wu 33 = true ∧ (coreOf State.reset 0).task.nest = true ∧
    tvecOk State.reset 0 = false ∧ userMode wu = true ∧ userMode w0 = false := by decide +kernel

/-- R14, R24: a vector past the heads of its leaf is no target, and a trap is then a double fault. -/
theorem test_vector_past_the_heads :
    tvecOk { wf with core := { wf.core with tvec := 0x10002 } } wf.cur = true ∧
    tvecOk { wf with core := { wf.core with tvec := 0x10004 } } wf.cur = false ∧
    (coreOf (raise { wf with core := { wf.core with tvec := 0x10004 } } ⟨0x0c, 0, 0, 0⟩) wf.cur).dead = true := by decide +kernel

/-- A handler activation whose owner is the task in slot 3. -/
def act3 : Activation := ⟨0, ⟨0x4002, 100, some (tagOf 33 3), [⟨0, 0x100, true⟩]⟩, 100, true, 34⟩
def wh : State :=
  { w0 with kind := .handler, core := { w0.core with
      hand := tc 0 [0, 1, 2, 3, 4], act := some act3, slots := vset Core.reset.slots 3 { Slot.reset with st := .asleep } } }

theorem test_meets_fault_entry :
    wu.kind = .task ∧ wh.kind = .handler ∧ wh.core.act = some act3 ∧ act3.entry.owner = some (tagOf 33 3) ∧
    (slotAt (coreOf wh (tagCore (tagOf 33 3))) (tagSlot (tagOf 33 3))).st ≠ .free := by
  refine ⟨rfl, rfl, rfl, rfl, by decide +kernel⟩

/-- Addresses that the kernel's walk translates or not: canonical and not, of user and of kernel half; a link fault of a closed port. -/
theorem test_meets_fault_values :
    canonical (walkOf wu wu.core.ctxnum) 0x3000 = true ∧
    (let d : State := { wu with lds := { wu.lds with ctxs := [(0, ⟨5, 1, 0, 0, 0, 0, 0, none⟩)] } }
     canonical (walkOf d d.core.ctxnum) 0x8000000000000000 = false ∧ canonical (walkOf d d.core.ctxnum) 0xffff800000000000 = true) ∧
    fld (0x3000000000 : Word) 36 4 = 3 ∧ fld (0x2000000000 : Word) 36 4 ≠ 3 := by decide +kernel

theorem test_meets_privilege_faults : userMode wu = true ∧ userMode wh = true := by decide +kernel

/-- WFE: a task with nothing pending, one with an event. -/
def wEvent : State := { w0 with core := { w0.core with eventQ := [⟨0x13, 5⟩] } }
theorem test_meets_system_instructions :
    eventPending w0 33 = false ∧ deliverable w0 33 = none ∧ eventPending wEvent 33 = true := by decide +kernel

/-- R16: numbers with no register, read-only ones, and the ends of the ranges. -/
theorem test_meets_csr_faults :
    csrRights 0x005 = none ∧ csrRights 0x3ff = none ∧ csrRights 0x072 ≠ none ∧ csrRights 0x073 = none ∧
    (csrRights 0x06f).any (fun r => r.write.isNone) = true ∧ (csrRights 0x010).any (fun r => r.write.isNone) = true := by decide +kernel

theorem test_meets_csr_access :
    Allowed w0 [.dstS 1, .srcS 2] ∧ Reads w0 [2] [7] w0 ∧ (∀ v, ∃ t, writeS w0 1 v = .ok t) ∧ userMode w0 = false :=
  ⟨allowed (by decide +kernel), reads1 w0 (by decide), writes_reg w0 (by decide), by decide +kernel⟩

/-- ERET: with EPC no valid target and nothing stacked, and with PIE set, EPC = 0x3002 and an event queued. -/
def wEret (status epc : Nat) (q : List Event) : State :=
  at_ { cr { tc status [0, 1, 2, 3] with epc := .ofNat 64 epc } with eventQ := q }
def afterEret (s : State) : State :=
  match exec .eret s with
  | .next t => t
  | _ => s

theorem test_meets_return_sequence :
    userMode (wEret 0x10 0x3000 []) = false ∧ targetOk 0x3000 = false ∧ tvecOk (wEret 0x10 0x3000 []) 33 = true ∧
    (let t := afterEret (wEret 0x10 0x3000 [])
     t.agenda = [] ∧ t.mgmt.powered = true ∧ t.mgmt.wanted = [] ∧ t.kind = .task ∧ coreLive t t.cur = true ∧ taskLive t t.cur = true ∧ t.core.act = none ∧
     t.core.gang = none ∧ t.core.task.wait = .none ∧ t.core.task.takes = [] ∧ t.core.task.pauseEnd = 0 ∧ t.core.death = none ∧
     (entry t).isNone = true ∧ tvecOk (noteFetch t) t.cur = true ∧ chunkOn t.core = false ∧ fld t.core.trctl 12 20 = 0) ∧
    ((fetchLeaf wf 0x10004).toOption.any fun f => decide (leafH f.image < slotOf 0x10004)) = true ∧
    (cx (wEret 0x210 0x3002 [⟨0x13, 5⟩])).pie = true ∧ (nextEvent (afterEret (wEret 0x210 0x3002 [⟨0x13, 5⟩])) 33).isSome = true := by
  decide +kernel

/-- The step after it (R25): a bad target traps with EPC and EVAL at it, an event enters with EPC at the address returned to. -/
theorem test_step_after_return :
    (match step (afterEret (wEret 0x10 0x3000 [])) with
      | .next u => decide ((cx u).cause = 0x03 ∧ (cx u).epc = 0x3000 ∧ (cx u).eval = 0x3000 ∧ (cx u).pc = 0x2002)
      | _ => false) = true ∧
    (match step (afterEret (wEret 0x210 0x3002 [⟨0x13, 5⟩])) with
      | .next u => decide ((cx u).cause = 0x8000000000000013 ∧ (cx u).epc = 0x3002 ∧ (cx u).pc = 0x2002)
      | _ => false) = true := by decide +kernel
/-! Premises of the statements on memory. -/

/-- Core 33: the page 0x5000 lies at 0x9000, the page 0x6000 has no translation. s2 = a virtual address, s3 = local memory of
core 33, s4 = of core 32 in the same tile, s5 = of core 36 outside the partition, s6 = element stride 16, s7 = the value 5. -/
def wm : State :=
  let c := cr (tc 0x10 [0, 0x6000, 0x5000, 0x8400040, 0x8000040, 0x9000040, 16, 5])
  { at_ { c with utlb := [⟨0, 0x5000, 0x9000, 0, true, true, false⟩] } with pmem := [(0x9000, 0x81), (0x9001, 2)] }

theorem test_meets_access_checks :
    (0x5001 : Word).toNat % 4 ≠ 0 ∧ okIs (xlat wm 0x5000 8 .r) [(0x9000, 8)] = true ∧ okIs (xlat wm 0x5ff8 8 .w) [(0x9ff8, 8)] = true ∧
    bit (0x8600000 : Word) 21 = true ∧ bit (0x8400040 : Word) 21 = false ∧ 0xc000 < fld (0x840bff9 : Word) 0 21 + 8 ∧
    fld (0x840bff8 : Word) 0 21 + 8 ≤ 0xc000 ∧ inPart wm 33 (arrCore 0x9000040) = false ∧ inPart wm 33 (arrCore 0x8000040) = true ∧
    arrCore 0x8400040 = 33 ∧ arrCore 0x8000040 = 32 ∧ regionOk wh 0xfc 8 true = false ∧ regionOk wh 0xf8 8 true = true := by decide +kernel

/-- An access at each kind of place, for a load and for a store. -/
theorem test_meets_places :
    okIs (placeOf wm .virt 0x5000 8 1 .r true) (.virt [(0x9000, 8)]) = true ∧ okIs (placeOf wm .virt 0x5000 8 8 .w false) (.virt [(0x9000, 8)]) = true ∧
    okIs (placeOf wm .arr 0x8400040 8 1 .r true) (.own 0x40) = true ∧ okIs (placeOf wm .arr 0x840bff8 8 8 .w false) (.own 0xbff8) = true ∧
    okIs (placeOf wm .arr 0x8000040 8 8 .r true) (.remote 32 0x40) = true ∧ okIs (placeOf wm .arr 0x8000040 8 1 .w false) (.remote 32 0x40) = true ∧
    okIs (placeOf wm .arr 0x8400040 8 8 .rw true) (.own 0x40) = true ∧ okIs (placeOf wm .arr 0x8000040 8 8 .rw true) (.remote 32 0x40) = true ∧
    okIs (placeOf wm .virt 0x5000 4 4 .rw true) (.virt [(0x9000, 4)]) = true ∧ isDark wm (tileOfCore 32) = false := by decide +kernel

theorem test_meets_memory_operands :
    Allowed wm [.dstS 1, .srcS 2] ∧ Reads wm [2] [0x5000] wm ∧ Reads wm [3] [0x8400040] wm ∧ Reads wm [4] [0x8000040] wm ∧
    Reads wm [7, 2] [5, 0x5000] wm ∧ Reads wm [2, 7] [0x5000, 5] wm ∧ Reads wm [4, 7] [0x8000040, 5] wm ∧
    Allowed wm [.srcS 7, .srcS 2] ∧ Allowed wm [.dstS 1, .srcS 2, .srcS 7] ∧ Allowed wm [.regS 1, .srcS 2, .srcS 7] ∧ Allowed wm [.regS 7, .srcS 2] :=
  ⟨allowed (by decide +kernel), reads1 wm (by decide), reads1 wm (by decide), reads1 wm (by decide), reads2 wm (by decide) (by decide),
    reads2 wm (by decide) (by decide), reads2 wm (by decide) (by decide), allowed (by decide +kernel), allowed (by decide +kernel),
    allowed (by decide +kernel), allowed (by decide +kernel)⟩

/-- The bytes that a scalar load finds at each place; a register takes any value. -/
theorem test_meets_scalar_loads :
    val (readPlace wm 0x5000 2 (.virt [(0x9000, 2)])) = some [0x81, 2] ∧ val (readPlace wm 0x8400040 8 (.own 0x40)) = some (List.replicate 8 0) ∧
    placeCell wm (.own 0x40) = some (true, lmKey 33 0x40) ∧ placeCell wm (.virt [(0x9000, 8)]) = some (false, 0x9000) ∧
    okIs (checkPoison wm 0x5000 [(0x9000, 8)]) () = true ∧ claims wm (lmKey 33 0x40) 8 (lmKey 33 0x40) = false ∧
    ok (writeS wm 1 0) = true := by decide +kernel

/-- The journal of core 33 with n entries of its task context. -/
def jn (n : Nat) : State :=
  { wm with core := { wm.core with journal := Vector.ofFn fun i => if i.val < n then some ⟨32, 0x8000040, .task, 0xffff, [], i.val, true⟩ else none } }

theorem test_meets_scalar_stores :
    storesDone wm = true ∧ storesDone (jn 1) = false ∧ freeEntry (jn 31).core = some 31 ∧ freeEntry (jn 32).core = none ∧
    okIs (placeOf (jn 32) .arr 0x8000040 8 1 .w false) (.remote 32 0x40) = true := by decide +kernel

/-- Core 34 lies behind the east port of tile 0, which is closed or not. -/
def wPort (shut : Bool) : State :=
  { wm with tiles := [(0, { Tile.reset with
      part := some ⟨0, 0, 2, 1⟩, keeper := { Tile.reset.keeper with closed := Tile.reset.keeper.closed.set .east shut } })] }

/-- R365, R212: a closed port and an open one; a region that is being filled and one that is not; the slice a request goes to. -/
theorem test_meets_ports_and_fills :
    okIs (placeOf (wPort true) .arr 0x8800040 8 8 .rw true) (.remote 34 0x40) = true ∧ coreShut (wPort true) 33 34 = true ∧
    coreShut (wPort false) 33 34 = false ∧ coreShut wm 33 32 = false ∧ filled wm (lmKey 33 0x40) 8 = true ∧
    filled { wm with fills := [(lmKey 33 0 / 4096, 100)] } (lmKey 33 0x40) 8 = false ∧ sliceFor wm 0x9000 = homeOf wm 0x9000 := by decide +kernel

theorem test_meets_atomic_values :
    (5 : Word).toNat = (0x100000005 : Word).toNat % 2 ^ (8 * 4) ∧ (5 : Word).toNat ≠ (6 : Word).toNat % 2 ^ (8 * 8) := by decide

theorem test_meets_ordering_instructions :
    (0x5002 : Word).toNat % 4 ≠ 0 ∧ (0x5000 : Word).toNat % 4 = 0 ∧ (getS wm 7).toNat % 4 ≠ 0 ∧ (getS wm 6).toNat % 4 = 0 ∧
    okIs (xlat wm 0x5000 16 .rw) [(0x9000, 16)] = true ∧ okIs (xlatMapped wm 2 0x5000 16) [(0x9000, 16)] = true ∧
    ((scopeCores 33 .tile).filter fun k => !isDark wm (tileOfCore k)) ≠ [] ∧
    okIs (placeOf wm .virt 0x5000 4 4 .r false) (.virt [(0x9000, 4)]) = true ∧
    val (readPlace wm 0x5000 4 (.virt [(0x9000, 4)])) = some [0x81, 2, 0, 0] ∧
    ofLe [0x81, 2, 0, 0] ≠ (getS wm 6).toNat % 2 ^ 32 ∧ ofLe [0x81, 2, 0, 0] = (0x281 : Word).toNat % 2 ^ 32 ∧
    eventPending wm 33 = false ∧ okIs (xlat wm 0x5000 1 .r) [(0x9000, 1)] = true ∧ lineDirty wm (0x9000 / 128) = false ∧
    (takeLogs wm 0 fun _ => true).1 = [] ∧ userMode wm = false := by decide +kernel

/-- The line of 0x9000 modified in a tile cache. -/
theorem test_meets_dirty_line : lineDirty (touchW wm 0 0x9000 8) (0x9000 / 128) = true := by decide +kernel

/-- MERGE with an entry of this context in the log of the home slice. -/
theorem test_meets_merge :
    (takeLogs { wm with logs := [(homeOf wm 0x9000 * 1024, [⟨0x9000, 0x5000, .w, 1, 33, .task, 0, false⟩])] } 0
      fun e => inSegs [(0x9000, 16)] e.pa (RedKind.bytes e.k)).1 ≠ [] := by decide +kernel

/-- Vector accesses: VLD, VLDS with a stride, VGATH with an index register; all elements in one memory. -/
theorem test_meets_vector_memory :
    Allowed wm [.dstV 1, .srcS 2] ∧ Allowed wm [.dstV 1, .srcS 2, .srcS 6] ∧ Allowed wm [.dstV 1, .srcS 2, .srcV 3] ∧
    rxOk wm ⟨6, false, 0, 0, 0⟩ none none none = true ∧ rxOk wm rx0 none none (some 3) = true ∧
    Reads wm [2, 6] [0x5000, 16] wm ∧ readVG wm rx0 3 3 = .ok (0, wm) ∧ readV wm 1 = .ok (0, wm) ∧
    Allowed wm [.srcV 1, .srcS 2] ∧ Allowed wm [.srcV 1, .srcS 2, .srcS 6] ∧ Allowed wm [.srcV 1, .srcS 2, .srcV 3] :=
  ⟨allowed (by decide +kernel), allowed (by decide +kernel), allowed (by decide +kernel), by decide +kernel, by decide +kernel,
    reads2 wm (by decide) (by decide), rfl, rfl, allowed (by decide +kernel), allowed (by decide +kernel), allowed (by decide +kernel)⟩

theorem test_meets_vector_elements :
    ((List.range 64).all fun i => okIs (placeOf wm .virt (elemAddr .virt 0x5000 (.ofNat 64 i)) 1 1 .r true) (.virt [(0x9000 + i, 1)]) &&
      (elemBytes wm ⟨i, 1, elemAddr .virt 0x5000 (.ofNat 64 i)⟩ (.virt [(0x9000 + i, 1)])).isSome) = true ∧
    ((List.range 8).all fun i => okIs (placeOf wm .arr (elemAddr .arr 0x8400040 (16 * .ofNat 64 i)) 8 8 .w false) (.own (0x40 + 16 * i)) &&
      decide (placeCell wm (.own (0x40 + 16 * i)) = some (true, lmKey 33 (0x40 + 16 * i)))) = true := by decide +kernel

theorem test_meets_vector_remote :
    ((placeElems wm .arr .r true (elemsOf (govern wm rx0) .arr 0x8000040 1 fun i => .ofNat 64 i)).toOption.any fun es =>
      targetsOf es [] == [32] && okIs (poisonElems wm es) ()) = true ∧
    ((placeElems (jn 32) .arr .w false (elemsOf (govern wm rx0) .arr 0x8000040 1 fun i => .ofNat 64 i)).toOption.any fun es =>
      targetsOf es [] == [32]) = true ∧
    freeCount (jn 32).core = 0 ∧ freeCount (jn 31).core = 1 := by decide +kernel

/-! Premises of the statements on gangs, messages, tasks and barriers. -/

/-- Core 33 with the task of slot 2 RUNNING. -/
def running (st : Nat) (l : List Nat) (f : Core → Core) : State :=
  at_ (f { cr (tc st l) with slots := vset Core.reset.slots 2 { Slot.reset with st := .running } })

/-- s2 = core 32, in the partition; s3 = core 36, outside; s4 = a SEND word of length 8, not a reply; s24 too. -/
def ws_ : State := running 0x10 [0, 1, 0x8000005, 0x9000005, 8 * 2 ^ 28, 5] id

theorem test_meets_sends :
    inPart ws_ 33 (arrCore (getS ws_ 2)) = true ∧ arrCore (getS ws_ 2) = 32 ∧ isDark ws_ (tileOfCore 32) = false ∧
    inPart ws_ 33 (arrCore (getS ws_ 3)) = false ∧
    fld (getS ws_ 4) 28 4 = 8 ∧ bit (getS ws_ 4) 27 = false ∧ (4 : Spec).toNat + 8 ≤ 31 ∧ (23 : Spec).toNat + 8 ≤ 31 ∧ ws_.core.resv < 4 ∧
    takeCredit ws_.core 32 0 ≠ none ∧
    takeCredit { ws_.core with credits := [⟨32, 0, 0, false⟩] } 32 0 = none ∧
    takeCredit { ws_.core with credits := List.replicate 8 ⟨34, 0, 1, false⟩ } 32 0 = none ∧
    (28 : Spec).toNat < 29 ∧ widthSum (getS ws_ 5) 6 ≤ 64 ∧ widthSum (64 : Word) 6 = 64 := by decide +kernel

theorem test_meets_send_operands :
    Allowed ws_ [.regS 4, .srcS 2] ∧ Reads ws_ [2] [0x8000005] ws_ ∧ Reads ws_ [3] [0x9000005] ws_ ∧ Allowed ws_ [.srcS 2] ∧
    Allowed ws_ [.srcV 1, .srcS 2, .srcV 3] ∧ rxOk ws_ rx0 none none (some 3) = true ∧ Allowed ws_ [.regS 28, .srcS 2] :=
  ⟨allowed (by decide +kernel), reads1 ws_ (by decide), reads1 ws_ (by decide), allowed (by decide +kernel), allowed (by decide +kernel),
    by decide +kernel, allowed (by decide +kernel)⟩

/-- A reply of an activation to the core of its header; a dark tile in the partition of four tiles of core 33. -/
def wDark : State :=
  { ws_ with tiles := [(0, { Tile.reset with part := some ⟨0, 0, 2, 2⟩ }),
      (1, { Tile.reset with part := some ⟨0, 0, 2, 2⟩, keeper := { Tile.reset.keeper with state := .dark } })] }

theorem test_meets_send_refusals :
    (32 : CoreId) = tagCore (.ofNat 16 (fld (.ofNat 64 (32 * 64 * 2 ^ 48) : Word) 48 16)) ∧ bit (.ofNat 64 (2 ^ 27) : Word) 27 = true ∧
    inPart wDark 33 34 = true ∧ isDark wDark (tileOfCore 34) = true ∧ { ws_ with core := { ws_.core with resv := 4 } }.core.resv = 4 := by decide +kernel

theorem test_meets_gang_instructions :
    gangBad ws_ 2 = none ∧ gangBad ws_ 4 = none ∧ gangBad ws_ 8 ≠ none ∧ (2 : BitVec 6).toNat = 2 ∧ (8 : BitVec 6).toNat = 8 ∧
    ws_.core.gang = none ∧ wGang.core.gang = some ⟨33, 2, 0⟩ ∧ gangMembers ⟨32, 2, 1⟩ = [32, 33] ∧
    (getS ws_ 0).toNat + (0 : BitVec 10).toNat = 0 := by decide +kernel

/-- Slots 4 and 5 READY, 5 with the lower priority number; core 34 of the same group has a fresh READY slot 7. -/
def wReady : State :=
  let sl := { Slot.reset with st := .ready, fresh := true }
  { at_ { cr (tc 0x10 [0, 4, 5, 0x8800000, 0x8000000]) with
      slots := vset (vset (vset Core.reset.slots 4 { sl with prio := 2 }) 5 { sl with prio := 1, order := 1 }) 6 { sl with st := .asleep } } with
    others := [(34, { Core.reset with slots := vset Core.reset.slots 7 sl })] }

theorem test_meets_ready_queue :
    userMode wReady = false ∧ ws_.core.running = some 2 ∧ wReady.core.running = none ∧ (slotAt wReady.core 5).st = .ready ∧
    ((List.range 64).all fun i => decide (i ≠ 5 → (slotAt wReady.core i).st = .ready → (slotAt wReady.core 5).prio < (slotAt wReady.core i).prio)) = true ∧
    ((List.range 64).all fun i => decide ((slotAt ws_.core i).st ≠ .ready)) = true ∧
    rqMove wReady 4 3 0 = none ∧ rqMove wReady 5 1 0 = none ∧ (rqMove wReady 6 1 3).isSome = true ∧ (rqMove wReady 7 1 3).isSome = true ∧
    (rqMove ws_ 2 1 0).isSome = true ∧ (rqMove ws_ 2 3 0).isSome = true ∧
    groupOf 34 = groupOf 33 ∧ (34 : CoreId) ≠ 33 ∧ (coreOf wReady 34).ctxnum = wReady.core.ctxnum ∧
    stealable (coreOf wReady 34) 0 = some 7 ∧ freeSlot wReady.core = some 0 ∧ groupOf 36 ≠ groupOf 33 ∧
    fld (0x8800000 : Word) 22 10 = 34 ∧
    (let dead : State := { wReady with others := [(34, { coreOf wReady 34 with dead := true })] }
     (coreOf dead 34).dead = true ∧ (coreOf dead 34).ctxnum = dead.core.ctxnum) := by decide +kernel

theorem test_meets_ready_queue_operands :
    Allowed wReady [.dstS 1, .srcS 2, .srcS 3] ∧ Reads wReady [2, 3] [5, 0x8800000] wReady ∧ ∀ v, ∃ t, writeS wReady 1 v = .ok t :=
  ⟨allowed (by decide +kernel), reads2 wReady (by decide) (by decide), writes_reg wReady (by decide)⟩

/-- A user task, with its journal empty and not. -/
def wTask (j : Vector (Option JEntry) 32) : State := running 0 [0, 1] fun c => { c with journal := j }

theorem test_meets_task_ends :
    userMode (wTask Core.reset.journal) = true ∧ (wTask Core.reset.journal).core.task.nest = false ∧
    tvecOk (wTask Core.reset.journal) 33 = true ∧ storesDone (wTask Core.reset.journal) = true ∧
    (wTask Core.reset.journal).core.running = some 2 ∧ storesDone (wTask (jn 1).core.journal) = false ∧
    act3.mayReply = true ∧ { act3 with mayReply := false }.mayReply = false := by decide +kernel

/-- Entry 0 free, entry 7 a bound reduction of the task with a word buffered. -/
def wStream : State :=
  running 0x10 [0, 1, 0x380] fun c => { c with
    streams := vset c.streams 7 ⟨.ofNat 64 ((33 * 64 + 2) * 2 ^ 48 + 513), [(0, 0)], none⟩ }

theorem test_meets_stream_binding :
    wStream.core.running = some 2 ∧ bit (vget wStream.core.streams 0 StreamEnt.reset).word 0 = false ∧ templateBad wStream.core 0x380 = false ∧
    templateBad wStream.core 0x3ffff = true ∧ templateBad wFeed.core 0 = true ∧
    (let w := (vget wStream.core.streams 7 StreamEnt.reset).word
     bit w 0 = true ∧ fld w 48 16 = 33 * 64 + 2 ∧ bit w 9 = true) ∧ (cx wStream).nest = false ∧ userMode wStream = false ∧
    fld (7 : BitVec 10) 0 3 = 7 := by decide +kernel

/-- Barrier 1: target 2, two arrivals, a pending count of -4; barrier 2 in error. -/
def wBar : State :=
  running 0x10 [0, 4, 0, 1] fun c => { c with
    bars := vset (vset c.bars 1 (.ofNat 64 (2 * 2 ^ 40 + 2 * 2 ^ 28 + (2 ^ 28 - 4)))) 2 (.ofNat 64 (2 ^ 63 + 2 ^ 40)) }

theorem test_meets_named_barriers :
    (let w := vget wBar.core.bars 1 0
     barTarget w = 2 ∧ barCount w = 2 ∧ barPending w = -4 ∧ bit w 63 = false ∧ bit w 62 = bit (getS wBar 2) 0 ∧ bit w 62 ≠ bit (getS wBar 3) 0 ∧
       barPending w + toIntN 28 (getS wBar 1).toNat = 0 ∧ barPending w + toIntN 28 (2 ^ 28 - 1) = -5) ∧
    bit (vget wBar.core.bars 2 0) 63 = true ∧ barTarget (vget wBar.core.bars 0 0) = 0 ∧
    bit wBar.core.bars[1] 63 = false ∧ { wBar with core := { wBar.core with barIn := [(1, 0, 4)] } }.core.barIn = [(1, 0, 4)] ∧
    (2 ≤ (2 + 2) - 2 ∧ (4 : Int) + -4 = 0) ∧ ¬(2 ≤ (2 + 1) - 2) ∧ 4095 < barCount (vget wBar.core.bars 1 0) + 4094 ∧
    (-(2 ^ 27) : Int) ≤ 0 + toIntN 28 (2 ^ 27) ∧ (0 : Int) + toIntN 28 (2 ^ 27 - 1) < 2 ^ 27 := by decide +kernel

/-! Premises of the statements on engine instructions and steps. -/

/-- A tile whose three engine ports are bound to core 3 of the tile, which is core 33. -/
def engTile : Tile := { Tile.reset with qmap := 0x000000fcdcb74321 }

def blk (l : List Nat) : List Word := (List.range 8).map fun i => .ofNat 64 (l[i]?.getD 0)
def cmd (kind : CmdKind) (l : List Nat) : Cmd :=
  { kind := kind, blk := blk l, tid := 7, owner := tagOf 33 2, live := true, parent := 0xffff, issuer := 33, ctx := 0, by_ := .task,
    after := 0, landed := [], next := 0, bytes := 0, fail := none, old := ⟨[], [], [], []⟩, ptag := none, streamed := false }

/-- Block checks: COPY, COPY2, COPYX to the own tile and to core 34, COPYM to core 8 of the supergroup's mask, CONV of 32 FP32 to BF16. -/
def wEng (n : Nat) : State :=
  { wm with tiles := [(0, { engTile with part := some ⟨0, 0, 2, 1⟩, mve := List.replicate n (cmd .copy []), cve := List.replicate (n / 2) (cmd .conv []) })] }

theorem test_meets_engine_commands :
    fld (tileOf wm 0).qmap 34 2 ≠ tcore 33 ∧ fld (tileOf wm 0).qmap 36 2 ≠ tcore 33 ∧
    fld (tileOf (wEng 0) 0).qmap 34 2 = tcore 33 ∧ fld (tileOf (wEng 0) 0).qmap 36 2 = tcore 33 ∧
    okIs (blockCheck (wEng 0) .copy (blk [0x5000, 0x5040, 64])) () = true ∧ okIs (blockCheck (wEng 0) .copy2 (blk [0x5000, 0x5040, 0x10001])) () = true ∧
    okIs (blockCheck (wEng 0) .copyx (blk [0x8000040, 0x5040, 64, 0, 0, 1])) () = true ∧ tileOfCore (arrCore 0x8000040) = myTile (wEng 0) ∧
    okIs (blockCheck (wEng 0) .copyx (blk [0x8800040, 0x5040, 64, 0, 0, 1])) () = true ∧ tileOfCore (arrCore 0x8800040) ≠ myTile (wEng 0) ∧
    inPart (wEng 0) 33 (arrCore 0x8800040) = true ∧ isDark (wEng 0) (tileOfCore (arrCore 0x8800040)) = false ∧
    okIs (blockCheck (wEng 0) .copym (blk [0x5000, 0x40, 64, 2 ^ 8, 0, 2])) () = true ∧ maskBits (2 ^ 8) = [8] ∧
    takeSlots (wEng 0).core (maskBits (2 ^ 8)) ≠ none ∧
    takeSlots { (wEng 0).core with slotCnt := vset Core.reset.slotCnt 8 0 } (maskBits (2 ^ 8)) = none ∧
    okIs (blockCheck (wEng 0) .conv (blk [0x5000, 0x5100, 32, 0x100])) () = true ∧
    mveUsed (tileOf (wEng 7) 0) = 7 ∧ mveUsed (tileOf (wEng 8) 0) = 8 ∧ (tileOf (wEng 7) 0).cve.length = 3 ∧ (tileOf (wEng 8) 0).cve.length = 4 ∧
    okIs (placeOf (wEng 0) .virt 0x5000 64 64 .r true) (.virt [(0x9000, 64)]) = true ∧
    okIs (placeOf (wEng 0) .arr 0x8000040 64 64 .r true) (.remote 32 0x40) = true ∧
    (val (readPlace (wEng 0) 0x5000 64 (.virt [(0x9000, 64)]))).isSome = true ∧ storesDone (wEng 0) = true ∧
    storesDone { wEng 0 with core := { (wEng 0).core with journal := (jn 1).core.journal } } = false ∧
    coreShut (wEng 0) 33 34 = false ∧ coreShut (wEng 0) 33 32 = false ∧ coreShut (wPort true) 33 34 = true := by decide +kernel

theorem test_meets_engine_operands : Allowed (wEng 0) [.srcS 7, .srcS 2] ∧ Reads (wEng 0) [7, 2] [5, 0x5000] (wEng 0) :=
  ⟨allowed (by decide +kernel), reads2 (wEng 0) (by decide) (by decide)⟩

/-- A tile view of `fmt`, rows × cols bytes from a row; views: 0 a C of FP32, 1 and 2 operands of format 1, 3 a C of MMAX, 4 a stream,
5 an operand of two slices. -/
def vw (fmt rows cols row : Nat) : View := ⟨.ofNat 64 (fmt * 2 ^ 40 + cols * 2 ^ 30 + rows * 2 ^ 19 + row), 0, 0⟩
def wMte (q : List MCmd) (mprog : Word) : State :=
  let c := cr (tc 0x10 [0, 0x5000, 0x1001, 1, 5, 0x100000004, 0x200000002])
  let v := vset (vset (vset (vset (vset (vset c.views 0 (vw 0 64 256 0)) 1 (vw 1 64 96 64)) 2 (vw 1 64 96 128)) 3 (vw 0 64 256 192)) 4
    ⟨.ofNat 64 (2 ^ 63 + 2 ^ 40), 0x5000, 0⟩) 5 (vw 1 64 192 256)
  let c := { c with views := v, mprog := mprog, utlb := wm.core.utlb }
  { at_ c with tiles := [(0, { engTile with mte := { engTile.mte with queue := q } })] }

def mcmd (kind : MKind) : MCmd :=
  ⟨kind, 0, 1, 2, vw 0 64 256 0, vw 1 64 96 64, vw 1 64 96 128, 1, 33, 0, tagOf 33 2, .task, 0, 0, false⟩

/-- MPROG with V, a command of kind MMA on views 0, 1 and 2 stopped by its issuer. -/
def mp (cause : Nat) : Word := .ofNat 64 (2 ^ 63 + cause * 2 ^ 44 + 0 * 2 ^ 39 + 1 * 2 ^ 36 + 2 * 2 ^ 33)

theorem test_meets_matrix_instructions :
    fld (tileOf (wMte [] 0) 0).qmap 38 2 = tcore 33 ∧ fld ({ Tile.reset with qmap := 0 } : Tile).qmap 38 2 ≠ tcore 33 ∧
    tileViewOk (vget (wMte [] 0).core.views 0 View.reset) = true ∧ tileViewOk (vget (wMte [] 0).core.views 7 View.reset) = false ∧
    mteWait (wMte [] 0) .mzero 0 true = true ∧ mteHolds (wMte [] 0) 33 0 = false ∧ mteHolds (wMte [mcmd .mma] 0) 33 0 = true ∧
    okIs (mteCheck (wMte [] 0) .mma 0 1 2 1) () = true ∧ okIs (mteCheck (wMte [] 0) .mmas 0 1 4 1) () = true ∧
    okIs (mteCheck (wMte [] 0) .mmar 0 1 2 1) () = true ∧ okIs (mteCheck (wMte [] 0) .mmax 0 3 5 2) () = true ∧
    mteWait (wMte [] 0) .mma 1 true = true ∧ mteWait (wMte [] 0) .mmas 1 true = true ∧ mteWait (wMte [] 0) .mmar 1 true = true ∧
    mteWait { wMte [] 0 with tiles := [(0, { engTile with mte := { engTile.mte with run := some ⟨mcmd .mma, [], 0, 0, none⟩ } })] } .mma 1 true = false ∧
    bit (mprogOf (wMte [] 0)) 63 = false ∧ bit (mprogOf (wMte [] (mp 2))) 63 = true ∧ fld (mprogOf (wMte [] (mp 2))) 39 3 = 0 ∧
    fld (mprogOf (wMte [] (mp 2))) 44 4 = 2 ∧ fld (mprogOf (wMte [] (mp 4))) 44 4 = 4 ∧ storesDone (wMte [] 0) = true := by decide +kernel

theorem test_meets_matrix_operands :
    Allowed (wMte [] 0) [.view 0, .view 1, .view 2, .srcS 3] ∧ Reads (wMte [] 0) [3] [1] (wMte [] 0) ∧ Allowed (wMte [] 0) [.dstS 1, .view 0] ∧
    Allowed (wMte [] 0) [.srcS 1] ∧ 1 ≤ (30 : Spec).toNat ∧ (30 : Spec).toNat ≤ 30 :=
  ⟨allowed (by decide +kernel), reads1 (wMte [] 0) (by decide), allowed (by decide +kernel), allowed (by decide +kernel), by decide, by decide⟩

/-- A core that is ready to issue NOP, ADD with a tail in a leaf of its own; one step runs it. -/
def wAdd : State := { (at_ (cr (tc 0x10 [0, 0x2b, 7, 9]))).withFetchWord 32 0x08301041 with ck := 4 }

theorem test_meets_step_runs_decoded :
    wAdd.agenda = [] ∧ wAdd.mgmt.powered = true ∧ wAdd.mgmt.wanted = [] ∧ wAdd.kind = .task ∧ coreLive wAdd wAdd.cur = true ∧ taskLive wAdd wAdd.cur = true ∧
    wAdd.core.act = none ∧ wAdd.core.gang = none ∧ wAdd.core.task.wait = .none ∧ wAdd.core.task.takes = [] ∧ wAdd.core.task.pauseEnd = 0 ∧
    (entry wAdd).isNone = true ∧
    chunkOn wAdd.core = false ∧ fld wAdd.core.trctl 12 20 = 0 ∧ (fetch wAdd).toOption.map (·.1) = some [0x1041, 0x0830] ∧
    (decode [0x1041, 0x0830]).toOption = some (.add 1 2 3) := by decide +kernel

/-- The step itself (R81): s1 = 7 + 9, the pc at the successor past the one head, one ck later. -/
theorem test_step_add :
    (match step wAdd with
      | .next t => decide (getS t 1 = 16 ∧ (cx t).pc = 0x10042 ∧ t.ck = 5)
      | _ => false) = true := by decide +kernel

/-- An activation of core 33 whose handler's leaf is the one placed. -/
def wHand : State :=
  { wAdd with core := { wAdd.core with act := some act3, hand := { tc 0 [0, 1, 2, 3] with pc := 0x10002 } } }

theorem test_meets_handler_step :
    wHand.core.act = some act3 ∧ wHand.ck < act3.endCk ∧ wHand.core.hand.wait = .none ∧ wHand.core.hand.pauseEnd = 0 ∧
    fld (cycleOf wHand wHand.core) 0 6 ≠ 63 ∧ (fetch { wHand with kind := .handler }).toOption.map (·.1) = some [0x1041, 0x0830] ∧
    wHand.core.task.pc.toNat % 64 ≠ 0 := by
  refine ⟨rfl, ?_, rfl, rfl, ?_, ?_, ?_⟩ <;> decide +kernel

theorem test_meets_handler_issue :
    wHand.core.hand.takes = [] ∧ (taskEntry wHand).isNone = true ∧
    (match fetch { wHand with kind := .handler } with
      | .ok (_, s1) => match exec (.add 1 2 3) s1 with
        | .next t => decide (t.kind = .handler ∧ (cx t).wait = .none ∧ issuedBetween wHand.core.hand t.core.hand = true)
        | _ => false
      | _ => false) = true := by decide +kernel

/-- Fetch faults: a pc that is no target, a leaf without a translation, one that is not bound, one with fewer heads, words
without a meaning. -/
def wPc (pc : Nat) : State := { wAdd with core := { wAdd.core with task := { wAdd.core.task with pc := .ofNat 64 pc } } }
theorem test_meets_fetch_faults :
    targetOk (cx (wPc 0x10000)).pc = false ∧ targetOk (cx (wPc 0x30002)).pc = true ∧
    translate (wPc 0x30002) (nearOf wAdd 33) 0 0x30000 .x = .missing ∧ translate wAdd (nearOf wAdd 33) 0 0x10000 .x = .ok 0x10000 ∧
    translate (wPc 0x10042) (nearOf wAdd 33) 0 0x10040 .x = .ok 0x10040 ∧ pageOk wAdd 0 0x10000 0x10000 = true ∧
    (imageAt wAdd 33 0 0x10000 0x10000).2 = true ∧ poisonIn wAdd 0x10000 64 = none ∧
    leafReason (imageAt wAdd 33 0 0x10000 0x10000).1 = 0 ∧ leafReason (imageAt wAdd 33 0 0x10040 0x10040).1 ≠ 0 ∧
    leafH (imageAt wAdd 33 0 0x10000 0x10000).1 < slotOf 0x10004 ∧
    ((fetch ((at_ (cr (tc 0x10 []))).withFetchWord 16 0x1001)).toOption.map fun x => (decode x.1).toOption.isNone) = some true := by decide +kernel

theorem test_meets_step_answers :
    onBaseDie (.timerExpiry 33) = false ∧ State.reset.mgmt.powered = true ∧ { State.reset.mgmt with powered := false }.powered = false ∧ State.reset.agenda = [] := by decide

/-- R2: both memories of the reset state are in canonical form. -/
theorem test_meets_memory_invariant : MemOk State.reset := ⟨rfl, rfl⟩

/-- Release: firmware that runs, a lit tile, a core not yet released. -/
def wBoot : State := { State.reset with mgmt := { State.reset.mgmt with boot := .running, memGib := 48 } }
theorem test_meets_release :
    wBoot.mgmt.boot = .running ∧ (tileOf wBoot (tileOfCore 33)).keeper.state = .lit ∧ (coreOf wBoot 33).released = false ∧
    State.reset.core.released = false := by decide +kernel

/-! Premises of the statements on events of a core. Every event below is of core 33, which steps. -/

/-- User mode with IE, events 0x13 and 0x15 queued. -/
def wEnt : State := at_ { cr (tc 0x100 [0, 1]) with eventQ := [⟨0x13, 1⟩, ⟨0x15, 2⟩] }
/-- The RUNNING task of slot 2 with a completion entry, completion interrupts enabled. -/
def wComp : State :=
  running 0x100 [0, 1] fun c => { c with compQ := [⟨tagOf 33 2, 0x4002, 0, 0, 7⟩], copyid := 0x100000000 }

theorem test_meets_core_entries :
    atBoundary wEnt 33 = true ∧ atBoundary wComp 33 = true ∧ wComp.core.task.wait ≠ .merge ∧ nextEvent wEnt 33 = some (0x15, 2, [⟨0x13, 1⟩]) ∧ chunkOn wEnt.core = false ∧ tvecOk wEnt 33 = true ∧ taskLive wEnt 33 = true ∧
    wEnt.core.task.ie = true ∧ wEnt.core.task.wait.abandons = true ∧ (∀ e ∈ wEnt.core.eventQ, e.code ∈ eventOrder) ∧
    (outranking wReady.core).isSome = true ∧ coreLive w0 33 = true ∧ w0.core.task.wait.yields = true ∧ wu.core.task.nest = false ∧
    eventPending wComp 33 = false ∧ taskLive wComp 33 = true ∧ deliverable wComp 33 = some ⟨tagOf 33 2, 0x4002, 0, 0, 7⟩ ∧
    wComp.core.task.wait.abandons = true ∧ ok (checkTarget (focus wComp 33 .task) 0x4002) = true := by decide +kernel

/-- A waiting context and what it waits for. -/
def waitFor_ (w : Wait) (net : List Packet) : State :=
  let x := tc 0x10 [0, 0x6000, 0x5000]
  let c := cr { x with wait := w }
  { wm with core := { c with utlb := wm.core.utlb }, net := net }

def loadRep : Packet := ⟨32, 33, 0, 0, .loadReply .task [1, 2]⟩
def farRep : Packet := ⟨33, 33, 0, 0, .farReply .task 3 [1, 2, 3, 4]⟩
def loadRef : Packet := ⟨32, 33, 0, 0, .loadRefused .task 1 0x8000040⟩

theorem test_meets_waits_end :
    (chunkOn w0.core = false ∧ bit w0.core.trctl 3 = false) ∧ coreLive w0 33 = true ∧ eventPending wEvent 33 = true ∧
    (waitFor_ (.remote 1 2 true 0x8000040) [loadRep]).core.task.wait = .remote 1 2 true 0x8000040 ∧
    takeFirst (isReply 33 .task) [⟨32, 33, 0, 0, .slotReturn⟩, loadRep] = some (loadRep, [⟨32, 33, 0, 0, .slotReturn⟩]) ∧
    takeFirst (isFarReply 33 .task 3) [⟨33, 33, 0, 0, .farReply .task 2 []⟩, farRep] = some (farRep, [⟨33, 33, 0, 0, .farReply .task 2 []⟩]) ∧ takeFirst (isReply 33 .task) [loadRef] = some (loadRef, []) ∧
    ok (writeS (takeAll (waitFor_ (.far 1 4 0x5000 3) [])) 1 (loaded 4 false [1, 2, 3, 4])) = true ∧
    okIs (xlat (waitFor_ (.waita 1 0x5000 4 7) []) 0x5000 4 .r) [(0x9000, 4)] = true ∧
    val (readPlace (waitFor_ (.waita 1 0x5000 4 7) []) 0x5000 4 (.virt [(0x9000, 4)])) = some [0x81, 2, 0, 0] ∧
    (BitVec.ofNat 64 (ofLe [0x81, 2, 0, 0]) : Word) ≠ 7 ∧
    ok (readS (waitFor_ (.bwait 1 1 2 true) []) 2) = true := by decide +kernel

/-- BWAIT whose destination is a queue that core 33 produces, and one that it does not (R134); an answer to a member of a gang; FENCE
with nothing in the journal and with one entry; BIND with every invalidation done. -/
theorem test_meets_waits :
    okIs (checkRoles (focus (waitFor_ (.bwait 1 1 2 true) []) 33 .task) [.srcS 2, .dstS 1]) () = true ∧
    ok (checkRoles (focus (waitFor_ (.bwait 1 32 2 false) []) 33 .task) [.srcS 2, .dstS 32]) = false ∧
    storesDone (focus (waitFor_ .fence []) 33 .task) = true ∧ storesDone (focus (jn 1) 33 .task) = false ∧
    (waitFor_ (.bind 0 7) []).core.task.wait = .bind 0 7 ∧ (waitFor_ .writeBack []).core.task.wait = .writeBack ∧
    (waitFor_ (.strel (some 0x40) [] [1]) []).core.task.wait = .strel (some 0x40) [] [1] ∧
    (waitFor_ (.strel none [(0x9000, 1)] [1]) []).core.task.wait = .strel none [(0x9000, 1)] [1] ∧
    (coreOf wGang 33).gang = some ⟨33, 2, 0⟩ ∧ gangJoint wGang 33 = false ∧ (waitFor_ .wfe []).core.gang = none := by decide +kernel

/-- R42: the base of a load in another core comes from q0; a refused load takes nothing, an answered one takes the entry. -/
def wQueueLoad : State :=
  { wm with tiles := [(0, { Tile.reset with qmap := 0x000000e4dcb7432f, queues := vset Tile.reset.queues 0 [0x8000040] })] }
def loadFromQueue (r : Packet) : Option (List Word × Option Word × Last) :=
  match exec (.ld .w 1 ⟨.arr, 32, 0⟩) wQueueLoad with
  | .next t =>
    match execLoadCompletion 33 .task { t with net := [r] } with
    | .next u => some (vget (tileOf u 0).queues 0 [], some (getS u 1), (cx u).last)
    | _ => none
  | _ => none
theorem test_load_from_queue :
    loadFromQueue ⟨32, 33, 0, 0, .loadReply .task [1, 2, 0, 0]⟩ = some ([], some 0x201, .retired) ∧
    loadFromQueue loadRef = some ([0x8000040], some 0x6000, .trapped 0x1a) := by decide +kernel

/-- Cores 32 and 33 wait, each with the words of GANG 2 at its pc. -/
def wPair (w : Wait) : State :=
  let s := (at_ (cr (tc 0x10 []))).withFetchWord 16 0x7202
  let c := { s.core with task := { s.core.task with wait := w, raw := 0x7202 } }
  { s with core := c, others := [(32, c)] }

theorem test_meets_gang_formation :
    gangReady (wPair (.gang 2)) 33 2 = true ∧ gangMember (gangLeader 33 2) 2 1 = 33 ∧
    sameFetched (focus (wPair (.bwait 1 1 2 true)) 33 .task) = true ∧ taskLive (wPair .wfe) 33 = true ∧
    filled (focus (waitFor_ .none []) 33 .task) (lmKey 33 0x40) 1 = true ∧
    filled { waitFor_ .none [] with fills := [(lmKey 33 0 / 4096, 100)] } (lmKey 33 0x40) 1 = false := by decide +kernel

theorem test_meets_pause : (w0.core.ctx .task).pauseEnd = 0 ∧ { w0.core.task with pauseEnd := 5 }.pauseEnd ≠ 0 := by decide +kernel

theorem test_meets_core_register_events :
    w0.ck < 2 ^ 64 ∧ w0.core.ckBase + (0 : Word).toNat < 2 ^ 64 ∧ (slotAt wh.core (fld (3 : Word) 0 6)).st ≠ .free ∧
    (⟨mcmd .mma, [], 0, 0, none⟩ : MRun).cmd.issuer = 33 ∧
    ((fetchLeaf (focus wAdd 33 .task) 0x10000).toOption.any fun f => f.fill) = true ∧ ok (fetchLeaf (focus wAdd 33 .task) 0x30000) = false ∧
    wh.core.act = some act3 := by
  refine ⟨?_, ?_, ?_, ?_, ?_, ?_, rfl⟩ <;> decide +kernel

/-- Chunk records are on, and one is unacknowledged; the sampler is on at its interval. -/
def wTrace (trctl : Word) : State := running 0x10 [] fun c => { c with trctl := trctl, task := { c.task with chunkHeld := true } }
theorem test_meets_core_record_events :
    (wTrace 0x0000ffff00001000).core.running = some 2 ∧ fld (wTrace 0x0000ffff00001000).core.trctl 12 20 ≠ 0 ∧
    (cycleOf (wTrace 0x0000ffff00001000) (wTrace 0x0000ffff00001000).core).toNat % (fld (wTrace 0x0000ffff00001000).core.trctl 12 20 * 1024) = 0 ∧
    fld (wTrace 0x0000ffff00000001).core.trctl 0 2 = 1 ∧ (wTrace 0x0000ffff00000001).core.task.chunkHeld = true ∧
    (33, CtxKind.task) ∉ (wTrace 0x0000ffff00000001).eva.asked ∧ (coreOf w0 33).released = true ∧
    1 ≤ (1 : BitVec 8).toNat ∧ (4 : BitVec 8).toNat ≤ 4 := by decide +kernel

/-- Record mode with nothing asked: TMSET ends its chunk (R419). -/
def wRecord : State := running 0x10 [] fun c => { c with trctl := 0x0000ffff00000001 }
/-- Replay mode at a log of one record, of core k with a cause, a count and a pc. -/
def wReplay (k : CoreId) (cause : BitVec 8) (n : Nat) (pc : Word) : State :=
  let s := running 0x10 [] fun c => { c with trctl := 0x0000ffff00000002 }
  writeHome { s with eva := { s.eva with seq := 1 } } none (ringAt s 0) (mkChunkRec s k cause 0 n pc).bytes

theorem test_meets_chunk_ends :
    chunkMode wRecord.core = 1 ∧ wRecord.core.task.chunkHeld = false ∧ acked wRecord = false ∧ isSync wRecord (.barv ⟨2, 0⟩) = true ∧
    (valueDest wRecord (.tmset 1 2)).isSome = true ∧
    (match exec (.tmset 1 2) wRecord with
      | .next t => decide ((cx t).last = .retired)
      | _ => false) = true ∧
    chunkMode (wReplay 33 1 0 0x1002).core = 2 ∧ trapDue (focus (wReplay 33 1 0 0x1002) 33 .task) = false ∧
    ((nextChunk (wReplay 33 1 0 0x1002)).any fun x => decide (x.1.agent = 33) && x.1.fits 1 0 0x1002) = true ∧
    ((nextChunk (wReplay 34 1 0 0x1002)).any fun x => decide (x.1.agent = 34)) = true ∧
    (nextChunk (wTrace 0x0000ffff00000002)).isNone = true := by decide +kernel


/-! Premises of the statements on messages and accesses served. -/

def pk (b : Body) : Packet := ⟨32, 33, 0x0a01, 0, b⟩
def hEnt : HEntry := ⟨0x4002, 0, some (tagOf 33 3), []⟩
def launch1 : LaunchMsg := ⟨0x4002, 0, 0, 1, 0xffff, 0, 0, none⟩
/-- Core 33 with a handler at entry 1 and a reduction of core 32 at stream entry 0 (template: group x = 0, y = 1, v4, ADD.F32). -/
def wIn : State :=
  running 0 [] fun c => { c with
    handlers := vset c.handlers 1 (some hEnt)
    streams := vset c.streams 0 ⟨.ofNat 64 ((33 * 64 + 2) * 2 ^ 48 + 2 ^ 28 + 2 ^ 23 + 0 * 2 ^ 18 + 2 ^ 15 + 4 * 2 ^ 10 + 2 ^ 9 + 1), [(0, 5)], none⟩ }

/-- R155: a packet comes next when none before it shares its target or its sender. -/
theorem test_meets_next_packet :
    ([⟨40, 41, 0, 0, .slotReturn⟩, pk .slotReturn] : List Packet) = [⟨40, 41, 0, 0, .slotReturn⟩] ++ pk .slotReturn :: [] ∧
    ∀ q ∈ ([⟨40, 41, 0, 0, .slotReturn⟩] : List Packet), q.dst ≠ (pk .slotReturn).dst ∧ q.src ≠ (pk .slotReturn).src := by decide +kernel

theorem test_meets_messages_taken :
    wIn.core.dead = false ∧ { wIn.core with dead := true }.dead = true ∧ launch1.ctx = wIn.core.ctxnum ∧ { launch1 with ctx := 1 }.ctx ≠ wIn.core.ctxnum ∧
    (listedCores { wIn with core := { wIn.core with launchDue := true } }).filter (fun j => (coreOf { wIn with core := { wIn.core with launchDue := true } } j).launchDue) = [33] ∧
    isDark wIn (tileOfCore 33) = false ∧ tileOpen wIn (tileOfCore 33) = true ∧ freeSlot wIn.core = some 0 ∧
    wIn.core.launchQ.length < 4 ∧ (List.replicate 3 launch1).length < 4 ∧
    (vget wIn.core.handlers (fld (0x100000000 : Word) 32 4) none).isSome = true ∧ vget wIn.core.handlers (fld (0x200000000 : Word) 32 4) none = none ∧
    coreOpen wIn 33 = true ∧ filled wIn (lmKey 33 0x40) 8 = true ∧
    bit (0x100000000 : Word) 27 = false ∧ bit (0x108000000 : Word) 27 = true ∧ requestRoom wIn.core = true ∧ replyRoom wIn.core = true ∧
    requestRoom { wIn.core with activeQ := List.replicate 11 (.arrival 32 0 0) } = true ∧
    requestRoom { wIn.core with activeQ := List.replicate 12 (.arrival 32 0 0) } = false ∧ mveUsed (tileOf wIn 0) < 8 ∧
    (let w := (vget wIn.core.streams 0 StreamEnt.reset).word
     bit w 0 = true ∧ coreAt (fld w 18 5) (fld w 23 5) = 32) ∧ bit (vget wIn.core.streams 7 StreamEnt.reset).word 0 = false := by decide +kernel

theorem test_meets_messages_applied :
    doneOf [(32, 5, 9)] 32 5 = some 9 ∧ doneOf wIn.core.done 32 5 = none ∧
    refusal wIn 33 32 0 0x40 8 .at = some 1 ∧
    refusal { wIn with core := { wIn.core with wins := vset wIn.core.wins 0 ⟨0, 0x340, 7, 0xffc00⟩ } } 33 32 0 0x40 8 .at = none ∧
    refusal { wIn with core := { wIn.core with wins := vset wIn.core.wins 0 ⟨0, 0x340, 7, 0xffc00⟩ } } 33 32 0 0x338 8 .at = none ∧
    refusal { wIn with core := { wIn.core with wins := vset wIn.core.wins 0 ⟨0, 0x340, 7, 0xffc00⟩ } } 33 32 0 0x339 8 .at = some 1 ∧
    barTarget (2 ^ 40 : Word) = 1 ∧ barCount (.ofNat 64 (2 ^ 40 + 4095 * 2 ^ 28)) = 4095 ∧ bit (.ofNat 64 (2 ^ 63 + 2 ^ 40) : Word) 63 = true ∧
    filled { wIn with fills := [(lmKey 33 0 / 4096, 100)] } (lmKey 33 0x40) 8 = false ∧ wIn.core.stopped = false ∧ { wIn.core with stopped := true }.stopped = true ∧
    vget wIn.core.handlers 1 none = some hEnt ∧ vget wIn.core.handlers 0 none = none ∧ wIn.core.act = none ∧
    (List.replicate 8 (0 : Word)).length ≤ 8 := by decide +kernel

theorem test_meets_streams_reduce :
    (let ent := vget wIn.core.streams 0 StreamEnt.reset
     ent.eos = none ∧ ent.buf = [(0, 5)] ∧ bit ent.word 0 = true ∧ bit ent.word 9 = true ∧ fld ent.word 10 5 = 4 ∧
       fld ent.word 48 16 = (wIn.core.runTag 33).toNat ∧ (vget wIn.core.handlers (fld ent.word 28 4) none).isSome = true) ∧
    wIn.core.running.isSome = true ∧ wIn.core.task.nest = false ∧ requestRoom wIn.core = true ∧ vget wIn.core.handlers 0 none = none := by decide +kernel

/-- The end-of-stream header waits at an entry. -/
theorem test_meets_end_of_stream :
    (vget (vset wIn.core.streams 0 ⟨0, [], some 0x4000000⟩) 0 StreamEnt.reset).eos = some 0x4000000 := by decide +kernel

theorem test_meets_messages_returned :
    neighbour 33 .east = some 34 ∧ storeInFlight wIn 34 33 = false ∧
    (({ wIn.core.links.get .east with flight := [5] } : LinkEnd).flight = [5]) ∧
    creditLine { wIn.core with credits := [⟨34, 1, 7, false⟩] } 34 1 = some 0 ∧ wIn.core.eventQ.length < 32 ∧
    sgOf 32 = sgOf 33 ∧ vget wIn.core.slotCnt (sgIndex 32) 0 = 4 ∧ vget (vset wIn.core.slotCnt (sgIndex 32) 15) (sgIndex 32) 0 = 15 ∧
    noticeReady wIn 0x1234 = true ∧
    (slotAt { wIn.core with slots := vset wIn.core.slots 3 { Slot.reset with purging := true } } (tagSlot (tagOf 33 3))).purging = true ∧
    tagCore (tagOf 33 3) = 33 := by decide +kernel

/-- A remote load of two pieces, the second past the window; a posted store; their answers. -/
def wWin : State := { wIn with core := { wIn.core with wins := vset wIn.core.wins 0 ⟨0, 0x340, 7, 0xffc00⟩ } }

theorem test_meets_remote_served :
    (∀ q ∈ ([⟨0x40, 0, 8⟩, ⟨0x338, 8, 8⟩] : List Piece), refusal wWin 33 32 0 q.off q.n .rd = none) ∧
    refusal wWin 33 32 0 0x340 8 .rd = some 1 ∧ refusal wWin 33 32 1 0x40 8 .rd = some 2 ∧
    (∀ q ∈ ([(0x40, [1, 2])] : List (Nat × List Byte)), refusal wWin 33 32 0 q.1 q.2.length .wr = none) ∧
    earlierRequest wWin [] (pk (.load .task [⟨0x40, 0, 8⟩] 0)) = false ∧ stampOf wWin (lmKey 33 0x40 / 4096) = (0 : CtxNum).toNat ∧ isDark wWin (tileOfCore 33) = false ∧
    unfilled wWin (pk (.load .task [⟨0x40, 0, 8⟩, ⟨0x338, 8, 8⟩] 0)) = true ∧ unfilled wWin (pk (.store 0 .task [(0x40, [1, 2])] 0 false)) = true ∧
    (wWin.core.wins.toList.any fun w => ([⟨0x40, 0, 8⟩, ⟨0x338, 8, 8⟩] : List Piece).all fun q => w.admits 32 q.off q.n .rd) = true := by
  decide +kernel

/-- R207: two windows each admit one of two pieces, and none admits both (log 46). -/
def wTwo : State :=
  { wIn with core := { wIn.core with wins := vset (vset wIn.core.wins 0 ⟨0, 0x80, 7, 0xffc00⟩) 1 ⟨0x80, 0x340, 7, 0xffc00⟩ } }
theorem test_meets_no_single_window :
    (∀ q ∈ ([⟨0x40, 0, 8⟩, ⟨0x80, 8, 8⟩] : List Piece), refusal wTwo 33 32 0 q.off q.n .rd = none) ∧
    (wTwo.core.wins.toList.any fun w => ([⟨0x40, 0, 8⟩, ⟨0x80, 8, 8⟩] : List Piece).all fun q => w.admits 32 q.off q.n .rd) = false := by
  decide +kernel

theorem test_meets_store_answers :
    vget (jn 32).core.journal 31 none = some ⟨32, 0x8000040, .task, 0xffff, [], 31, true⟩ ∧ (31 : Nat) < 32 ∧
    ({ (⟨32, 0x8000040, .handler, tagOf 33 3, [], 0, true⟩ : JEntry) with live := false }).live = false ∧ (jn 32).core.eventQ.length < 32 ∧
    (tagOf 33 3) ≠ 0xffff ∧ (slotAt (coreOf wh (tagCore (tagOf 33 3))) (tagSlot (tagOf 33 3))).st ≠ .free := by decide +kernel

/-- R223, R224: a move of the bucket waits; the slice that a request names is the bucket's, or is not. -/
theorem test_meets_home :
    ({ wm.coh with move := some (bucketOf 0x9000, 3) } : Coh).move.map (·.1) = some (bucketOf 0x9000) ∧
    wm.coh.move.map (·.1) ≠ some (bucketOf 0x9000) ∧ homeOf wm 0x9000 = sliceOf wm (bucketOf 0x9000) ∧ 64 ≠ sliceOf wm (bucketOf 0x9000) ∧
    ({ wm.core.task with wait := .red 0x5000 4 } : Ctx).wait = .red 0x5000 4 ∧ (∀ va, wm.core.task.wait ≠ .red va 4) := by
  refine ⟨?_, ?_, ?_, ?_, rfl, fun va h => ?_⟩
  · decide +kernel
  · decide +kernel
  · decide +kernel
  · decide +kernel
  · cases h

/-- A log full of 4,096 entries, with and without room in the spill area. -/
def redE : RedEntry := ⟨0x9000, 0x5000, .w, 1, 33, .task, 0, false⟩
theorem test_meets_home_slice :
    doneFar { wm with coh := { wm.coh with done := [(homeOf wm 0x9000, 33, 5, 9)] } } 33 5 = some 9 ∧
    doneFar wm 33 5 = none ∧ poisonIn wm 0x9000 8 = none ∧ poisonIn { wm with poison := [0x9000 / 32] } 0x9000 8 = some 0 ∧
    (([] : List RedEntry).filter fun x => !x.spilled).length < 4096 ∧ 4096 ≤ ((List.replicate 4096 redE).filter fun x => !x.spilled).length ∧
    spillRoom wm 0 ≤ spilledOf wm 0 ∧ coreLive wm 33 = true ∧ wm.core.task.wait ≠ .acked ∧ wm.core.gang = none ∧ (chunkOn wm.core = false ∧ bit wm.core.trctl 3 = false) := by decide +kernel

/-! Premises of the statements on the coherence fabric. -/

/-- The part with 48 GiB of device memory, and the record of line 0x100000000 of it. -/
def dev48 : State := { at_ (cr (tc 0x10 [])) with mgmt := { State.reset.mgmt with boot := .running, memGib := 48, linkUp := true } }
def devLine : Nat := 0x100000000
def wLine (x : LineSt) : State := { dev48 with coh := { dev48.coh with lines := [(devLine, x)] } }
def line0 : LineSt := lineHome true

theorem test_meets_tokens_move :
    (1279 : Nat) < 1280 ∧ line0.active = none ∧ satisfied line0 5 false = false ∧ satisfied { line0 with hold := [(5, 1)] } 5 false = true ∧
    satisfied { line0 with hold := [(5, 2048)], owner := some 5 } 5 true = true ∧ satisfied { line0 with hold := [(5, 2047)] } 5 true = false ∧
    line0.ownerHome = true ∧ 2 ≤ line0.atHome ∧ someHalf line0 = true ∧ grantsAll line0 = true ∧
    ({ line0 with hold := [(7, 2)], owner := some 7 } : LineSt).plain 7 = 2 ∧ ({ line0 with hold := [(7, 1)], owner := some 7 } : LineSt).plain 7 < 2 ∧
    (([⟨5, 1, false, false, (true, false)⟩, ⟨6, 1, false, false, (false, false)⟩] : List TokenMsg).filter fun m => m.dest == 5) ≠ [] ∧
    retriesOf { line0 with retries := [(5, 64)] } 5 ≤ 64 ∧ 64 < retriesOf { line0 with retries := [(5, 65)] } 5 ∧
    ({ line0 with hold := [(7, 2)], owner := some 7, dir := .exact [7] } : LineSt).dir.names 7 = true ∧ line0.dir.names 7 = false ∧
    grantsAll { line0 with h1 := .o } = false ∧ line0.waiting = [] ∧
    (line0.waiting.any fun y => y.1 == 5) = false ∧ line0.active.map (·.1) ≠ some 5 ∧
    ({ line0 with active := some (5, true) } : LineSt).active = some (5, true) ∧
    nextWaiting [(9, true), (3, false)] 5 = some (9, true) ∧ nextWaiting [(3, false), (1, true)] 5 = some (1, true) := by decide +kernel

/-- R217, R223 to R225: a request that is answered, one that a tile sends to the old slice, one held by a move; a way that is free. -/
theorem test_meets_requests :
    let b := bucketOf (devLine * 128)
    let moved_ : State := { dev48 with coh := { dev48.coh with map := [(b, ((b + 1) % 64, 1))] } }
    (turnedAway dev48 devLine 5).isNone = true ∧ satisfied (lineOf dev48 devLine) 5 false = false ∧
    ((SMap.get? (tileOf moved_ 1).map b).getD (b % 64, 0)).1 ≠ ((SMap.get? moved_.coh.map b).getD (b % 64, 0)).1 ∧
    ({ dev48.coh with move := some (b, 3) } : Coh).move = some (b, 3) ∧ colourOfReq dev48 5 = none ∧
    (wayMask dev48 (sliceOf dev48 b) none).getLsbD 0 = true ∧ dev48.coh.lines = [] ∧ ({ line0 with way := some 3 } : LineSt).way.isSome = true ∧
    line0.asked = [] ∧ (lineOf (wLine { line0 with retries := [(5, 65)] }) devLine).retries = [(5, 65)] ∧
    hostUp dev48 = true ∧ hostUp { dev48 with mgmt := { dev48.mgmt with linkUp := false } } = false := by decide +kernel

/-- The active request of a line holds every token, and ends while a move of the bucket waits. -/
theorem test_meets_persistent_end :
    let x := { line0 with active := some (5, true), hold := [(5, 2048)], owner := some 5 }
    satisfied x 5 true = true ∧ dev48.coh.move = none ∧ nextWaiting x.waiting 5 = none ∧
    bucketBusy (endActive (wLine x) devLine 5 true) (bucketOf (devLine * 128)) = false := by decide +kernel

/-- One busy slice, 5, and one that nothing asked of, 0. -/
def wCounts (f : Nat → Nat) : State := { dev48 with coh := { dev48.coh with counts := (List.range 64).map fun b => (b, f b) } }
def busy (b : Nat) : Nat := if b = 0 then 0 else if b = 5 then 100 else 1

/-- The window of the rebalancer has ended. -/
def wCountsEnd (f : Nat → Nat) : State := elapseTo (wCounts f) ((wCounts f).coh.winFrom + 65536)

theorem test_meets_buckets_move :
    (∀ j, j < 64 → 256 * sliceCount (wCountsEnd fun _ => 1) j ≤ 5 * ((wCountsEnd fun _ => 1).coh.counts.map (·.2)).sum) ∧
    5 * ((wCountsEnd busy).coh.counts.map (·.2)).sum < 256 * sliceCount (wCountsEnd busy) 5 ∧
    (∀ j, j < 64 → j ≠ 5 → sliceCount (wCountsEnd busy) j < sliceCount (wCountsEnd busy) 5) ∧
    (∀ j, j < 64 → j ≠ 0 → sliceCount (wCountsEnd busy) 0 < sliceCount (wCountsEnd busy) j) ∧
    5 ∈ (wCountsEnd busy).coh.counts.map (·.1) ∧ sliceOf (wCountsEnd busy) 5 = 5 ∧ bucketReserved (wCountsEnd busy) 5 = false ∧ (wCountsEnd busy).coh.move = none ∧
    bucketBusy (wCountsEnd busy) 5 = false ∧
    bucketBusy { dev48 with coh := { dev48.coh with lines := [(devLine, { line0 with active := some (3, true) })] } } (bucketOf (devLine * 128)) = true ∧
    (∀ b' ∈ (wCountsEnd busy).coh.counts.map (·.1), b' ≠ 5 → sliceOf (wCountsEnd busy) b' ≠ 5) ∧
    1 ≤ (0 + 1 + 65536 - 0) % 65536 ∧ (32767 + 65536 - 0) % 65536 ≤ 32767 ∧ 32767 < (32768 + 65536 - 0) % 65536 := by
  decide +kernel

theorem test_meets_halves_move :
    isDevMem dev48 (devLine * 128) = true ∧ isDevMem dev48 (0x100 * 128) = false ∧ (lineOf dev48 devLine).half false = .e ∧
    (lineOf dev48 0x100).half true = .i ∧ (lineOf (wLine { line0 with h0 := .o }) devLine).half false = .o ∧
    (lineOf (wLine { line0 with h1 := .i }) devLine).half true = .i ∧
    (lineOf { dev48 with coh := { dev48.coh with lines := [(0x100, { lineHome false with h0 := .s })] } } 0x100).half false = .s ∧
    isDevMem dev48 (devLine * 128 + 8) = true ∧ poisonIn dev48 (devLine * 128) 8 = none ∧ (1 : BitVec 4) ≠ 0 ∧
    (lineOf dev48 devLine).active = none ∧ (lineOf dev48 devLine).anyDirty = false ∧ ({ line0 with dirty := true } : LineSt).anyDirty = true := by decide +kernel

/-! Premises of the statements on the engines' events. -/

/-- Tile 0 with one command in its MVE and one in its CVE; the page 0x5000 in the tile's TLB. -/
def wRun (m c : Cmd) : State :=
  { wm with tiles := [(0, { engTile with mve := [m], cve := [c], tlb := [⟨0, 0x5000, 0x9000, 0, true, true, false⟩] })] }

/-- A COPY of 128 bytes from 0x5000 to 0x5100: two chunks. -/
def copy128 : Cmd := cmd .copy [0x5000, 0x5100, 128]
/-- A CONV of 32 FP32 elements to BF16. -/
def conv32 : Cmd := cmd .conv [0x5000, 0x5100, 32, 0x100]

theorem test_meets_data_land :
    cmdGoes (wRun copy128 conv32) 0 copy128 = true ∧ cmdGoes (wRun copy128 conv32) 0 conv32 = true ∧
    cmdGoes (wRun copy128 conv32) 0 { copy128 with fail := some ⟨6, 0, 0⟩ } = false ∧
    cmdGoes { jn 1 with tiles := (wRun copy128 conv32).tiles } 0 { copy128 with after := 1 } = false ∧
    cmdGoes { jn 1 with tiles := (wRun copy128 conv32).tiles } 0 copy128 = true ∧
    (tileOf (wRun copy128 conv32) 0).mve[0]? = some copy128 ∧
    chunkCount copy128 = 2 ∧ 1 ∉ copy128.landed ∧ 1 % (max (receivers copy128).length 1) = 0 ∧
    chunkAt copy128 1 = some ([⟨64, 64, 64⟩], 0) ∧
    ((readParts (wRun copy128 conv32) 0 copy128 [⟨64, 64, 64⟩]).toOption.any fun p =>
      (writeParts p.2 0 copy128 (dstBase copy128 0) ([⟨64, 64, 64⟩].zip p.1)).toOption.isSome) = true ∧
    okIs (engXlat (wRun copy128 conv32) 0 copy128 0x5040 64 .r) [(0x9040, 64)] = true ∧
    okIs (engXlat (wRun copy128 conv32) 0 copy128 0x5140 64 .w) [(0x9140, 64)] = true ∧
    compDsp (dwordOf copy128.blk 5) = false ∧ (tileOf (wRun copy128 conv32) 0).cve[0]? = some conv32 ∧ conv32.allLanded = false ∧ codeMx (auxSfmt 0x100) = false ∧
    ((engRead (wRun copy128 conv32) 0 conv32 0x5000 0 false 128).toOption.any fun p => !p.1.any (·.2)) = true ∧
    ((engRead { wRun copy128 conv32 with poison := [0x9020 / 32] } 0 conv32 0x5000 0 false 128).toOption.any fun p => p.1.any (·.2)) = true := by
  decide +kernel

/-- A COPY to array space: its region is of the command's context, or of context 5. -/
def copyLm : Cmd := cmd .copy [0x5000, 0x8400040, 64, 0, 0, 2]
theorem test_meets_takes :
    (match engTake (wRun copyLm conv32) copyLm [(0x8400040, 0, 64)] with
      | .ok _ => true
      | .error _ => false) = true ∧
    (match engTake { wRun copyLm conv32 with stamps := [(lmKey 33 0x40 / 4096, 5)] } copyLm [(0x8400040, 0, 64)] with
      | .error (.claim rs) => decide (rs = [lmKey 33 0x40 / 4096])
      | _ => false) = true ∧
    (match engTake (wRun copy128 conv32) copy128 [(0x5100, 64, 64)] with
      | .ok _ => true
      | .error _ => false) = true := by decide +kernel

/-- R279: a chunk is written from what its bytes were before the command itself wrote them; here its second chunk copies 0x5040 to
0x5080 after the first has copied 0x5000 to 0x5040. -/
theorem test_overlapping_copy :
    (let m := { cmd .copy [0x5000, 0x5040, 128] with landed := [] }
     let s := { wRun m conv32 with pmem := [(0x9000, 1), (0x9040, 2)] }
     match execChunkLanding 0 0 0 s with
      | .next t => match execChunkLanding 0 0 1 t with
        | .next u => decide (Mem.get u.pmem 0x9040 = 1 ∧ Mem.get u.pmem 0x9080 = 2)
        | _ => false
      | _ => false) = true := by decide +kernel

theorem test_meets_commands_report :
    (cmdAt (wRun { copy128 with landed := [0, 1] } conv32) 0 false 0).isSome = true ∧ (cmdAt (wRun copy128 conv32) 0 true 0).isSome = true ∧
    (tileOf (wRun copy128 conv32) 0).engStop = none ∧
    ({ copy128 with landed := [0, 1] } : Cmd).allLanded = true ∧ compSe (dwordOf copy128.blk 5) = false ∧ copy128.live = true ∧
    handlerAddr copy128 = 0 ∧ handlerAddr (cmd .copy [0, 0, 0, 0, 0, 0, 0x4002]) = 0x4002 ∧ wm.core.compQ.length < 16 ∧
    16 ≤ (List.replicate 16 (⟨0, 0, 0, 0, 0⟩ : Completion)).length ∧
    compSe (dwordOf (cmd .copy [0, 0, 0, 0, 0, 2 ^ 33]).blk 5) = true ∧ takeCredit wm.core 0 0 ≠ none ∧
    takeCredit { wm.core with credits := [⟨0, 0, 0, false⟩] } 0 0 = none ∧ coreShut wm 33 (compStrCore (2 ^ 33)) = false ∧
    wm.core.eventQ.length < 32 := by decide +kernel

/-- The matrix engine of tile 0: a command alone in its queue, one in its last slice, one written back. -/
def wMma (e : Mte) : State := { wMte [] 0 with tiles := [(0, { engTile with mte := e, tlb := [⟨0, 0x5000, 0x9000, 1, true, true, false⟩] })] }
def run1 (kind : MKind) (n : Nat) : MRun := ⟨{ mcmd kind with ctl := .ofNat 64 n, b := ⟨.ofNat 64 (2 ^ 63 + 2 ^ 40), 0x5000, 0⟩ }, [(0, [])], 0, 0, none⟩
def mte0 : Mte := Tile.reset.mte

/-- At ck 1 of the governor's period, with the command accepted in ck 0: the step is that of ck 4. -/
def wSgv : State := { wMma { mte0 with queue := [mcmd .mma] } with ck := 1 }
def atStep : State := elapse wSgv (toBoundary wSgv 0)

theorem test_meets_grant :
    toBoundary wSgv 0 = 3 ∧ toBoundary { wSgv with ck := 8 } 0 = 0 ∧ toBoundary { wSgv with ck := 8, sgvAt := [(0, 9)] } 0 = 4 ∧
    (0 : TileId) = sgTile (0 : BitVec 4).toNat 0 ∧ (mteOf atStep 0).queue = [mcmd .mma] ∧ (mcmd .mma).noGrant = false ∧
    (mteOf atStep 0).run = none ∧ (mteOf atStep 0).filler ≤ atStep.ck ∧ (mteOf atStep 0).rect = none ∧ (mteOf atStep 0).granted = false ∧
    engStopped atStep 0 = false ∧ (mcmd .mma).acceptCk < atStep.ck ∧ (∀ i, i < 16 → i ≠ 0 → waitsSince atStep (sgTile 0 i) = none) ∧
    1 ≤ fld (rampOf atStep 0).1 (4 * min (((upto 16).map (sgTile 0)).filter fun u => mteRunning atStep.ck (mteOf atStep u)).length 15) 4 := by decide +kernel

/-- R301: no stop, a request of ck 0 judged at ck 0 and after it, a switch stop of ck 0 judged at it. -/
theorem test_meets_stops :
    stopCause (wMma mte0) 0 0 = none ∧ stopCause (wMma { mte0 with stopReq := some 0 }) 0 0 = none ∧
    stopCause (wMma { mte0 with stopReq := some 0 }) 0 1 = some 2 ∧
    stopCause { wMma mte0 with tiles := [(0, { engTile with engStop := some 0 })] } 0 0 = some 3 := by decide +kernel

theorem test_meets_matrix_runs :
    isDark (wMma mte0) 0 = false ∧
    darkTile (wMma mte0) 0 (mcmd .mma) = none ∧ (run1 .mma 2).k + 1 < ctlN (run1 .mma 2).cmd.ctl ∧ ctlN (run1 .mma 1).cmd.ctl ≤ (run1 .mma 1).k + 1 ∧
    (run1 .mma 1).k = ctlStart (run1 .mma 1).cmd.ctl ∧
    (run1 .mma 1).acc.map (·.1) = (cmdTiles 0 (run1 .mma 1).cmd).map (·.1) ∧ vCol0 (mcmd .mma).c + 256 ≤ 512 ∧
    darkTile { wMma mte0 with tiles := [(0, { engTile with keeper := { engTile.keeper with state := .dark } })] } 0 (mcmd .mma) = some 0 ∧
    answered (wMma mte0) 33 .task 0 = true ∧
    ((streamRead (wMma mte0) 0 0 (streamPieces (run1 .mmas 1).cmd.b 0)).toOption.any fun p => p.2.1.isEmpty) = true ∧
    ctlBe (mcmd .mma).ctl = false ∧ ctlBe (2 ^ 30 : Word) = true ∧ wm.core.eventQ.length < 32 ∧ engStopped (wMma mte0) 0 = false ∧
    vBe (mcmd .mzero).c = false ∧ vCol0 (mcmd .mzero).c + vCols (mcmd .mzero).c ≤ 512 := by decide +kernel

/-- What a slice, a stop and a write-back wait for: regions of the tile's store that are being filled or taken, a stop of the engine. -/
theorem test_meets_matrix_waits :
    let s := wMma { mte0 with run := some (run1 .mma 1) }
    let f : State := { s with fills := [(tsKey 0 0 / 4096, 100)] }
    let g : State := { s with tiles := [(0, { engTile with engStop := some 0 })] }
    operandsFilled s 0 (mcmd .mma) 0 = true ∧ operandsFilled f 0 (mcmd .mma) 0 = false ∧ waitStop s 0 (run1 .mmas 1) = none ∧
    (tileOf g 0).engStop.isSome = true ∧ (run1 .mmas 1).stream = none ∧ stopCause s 0 0 = none ∧
    wbFilled s ⟨mcmd .mma, [0], none, 0, false⟩ = true ∧ wbFilled f ⟨mcmd .mma, [0], none, 0, false⟩ = false ∧
    (⟨mcmd .mma, [0], some (1, 0, 0), 0, false⟩ : MWb).stop = some (1, 0, 0) ∧
    rowsFilled s 0 0 64 = true ∧ viewForeign s 0 0 (vw 0 64 256 0) = [] ∧
    viewForeign { s with stamps := [(tsKey 0 0 / 4096, 5)] } 0 0 (vw 0 64 256 0) ≠ [] := by decide +kernel

/-- An MMAR on tiles 0 and 1, tile 1 of which is dark: the command that computes fails. -/
theorem test_meets_dark_rectangle :
    darkTile { wMma mte0 with tiles := [(0, engTile), (1, { engTile with dark := true })] } 0
      { mcmd .mmar with ctl := .ofNat 64 (1 + 2 ^ 36) } = some 1 := by decide +kernel
/-! Premises of the statements on switches, keepers, the dispatcher, records and the management core. -/

def part0 : Part := ⟨0, ⟨0, 0, 1, 1⟩, 2, 0, 100, true, false, false, 0, false, 0, none, []⟩
/-- Tile 0 holds the state of partition 0 of context 0, the LDS serves context 0 with a switch area at 0x100000, which the host maps. -/
def wPart (p : Part) (ck : Nat) : State :=
  { dev48 with
    ck := ck
    tiles := [(0, { Tile.reset with holder := some 0, part := some p.rect })]
    tsu := { dev48.tsu with host := [⟨0, 0, 0x9000000, 18, true, true, false⟩] }
    lds := { dev48.lds with enabled := true, parts := [(0, p)], ctxs := [(0, ⟨0, 0, 0, 0x100000, 0, 0, 0, none⟩)] } }

/-- The same part before its link is trained. -/
def linkDown : State := { dev48 with mgmt := { dev48.mgmt with linkUp := false } }

theorem test_meets_partition_switch :
    heldPart (wPart part0 0) 0 = some (0, part0) ∧ 2 ≤ part0.cls.toNat ∧ (1 : BitVec 2).toNat < 2 ∧ part0.expired = true ∧
    holdDone (wPart { part0 with step := 1 } 0) 0 { part0 with step := 1 } = true ∧
    holdDone { wPart { part0 with step := 1 } 0 with core := wh.core } 0 { part0 with step := 1 } = false ∧
    enginesDone (wPart { part0 with step := 2 } 0) 0 { part0 with step := 2 } = true ∧ journalsDone (wPart { part0 with step := 2 } 0) 0 { part0 with step := 2 } = true ∧
    liveTiles (wPart part0 0) 0 part0 = [0] ∧ ok (areaSegs (wPart part0 0) 0 0) = true ∧ (coreOf (wPart part0 0) 33).mprog = 0 ∧
    bit (mp 3) 63 = true ∧ fld (mp 3) 44 4 = 3 ∧
    part0.since + part0.slice ≤ (wPart part0 100).ck ∧ (wPart part0 99).ck < part0.since + part0.slice ∧
    part0.since + 8000 ≤ (wPart part0 8000).ck ∧ interactiveWaits (wPart part0 0) = false ∧
    Part.givesWay part0 3 = true ∧ Part.givesWay { part0 with expired := false, preempt := true } 3 = false ∧
    Part.givesWay { part0 with expired := false, preempt := true } 2 = true ∧
    mustLeave { wPart part0 0 with mgmt := { dev48.mgmt with wanted := [0] } } 0 = true ∧ mustLeave (wPart part0 0) 0 = false ∧
    interactiveWaits { wPart part0 0 with lds := { dev48.lds with queues := [(0, { newQueue 0 0 0 2 with pending := some [] })] } } = true := by
  decide +kernel

/-- The saved state of partition 0 while its tile is free. -/
def saved0 : Saved := ⟨[(33, Core.reset)], [(0, Tile.reset)], [(lmKey 33 0, 7)]⟩
def wSaved : State :=
  { wPart part0 0 with tiles := [], lds := { (wPart part0 0).lds with parts := [(0, { part0 with step := 4, saved := some saved0 })] } }
theorem test_meets_switch_restore :
    wSaved.lds.parts.find? (fun x => x.2.ctx == 0 && x.2.rect.has 0 && x.2.saved.isSome && x.2.step == 4) =
      some (0, { part0 with step := 4, saved := some saved0 }) ∧
    backTiles wSaved { part0 with step := 4 } saved0 = [0] ∧ tileFree wSaved 0 = true ∧ areaBad wSaved 0 [0] = none ∧ Mem.wf saved0.arr = true ∧
    (giveColour (dropEnded wSaved part0.rect) 0).map (·.1) = some 0 ∧
    (giveColour { wSaved with lds := { wSaved.lds with ctxs := [] } } 0).isNone = true ∧
    stillInClass wSaved part0 [0] = true ∧
    stillInClass { wSaved with lds := { wSaved.lds with resvs := [⟨3, ⟨0, 0, 1, 1⟩, [], 1⟩] } } part0 [0] = false ∧
    (∀ q ∈ ([⟨33, 33, 0, 0, .slotReturn⟩] : List Packet), goesTo [0] q = true) ∧ isLit dev48 0 = true ∧
    (tileOf dev48 0).holder = none ∧ (tileOf dev48 0).keeper.state = .lit := by decide +kernel

/-- Tile 17 (1, 1), its neighbour 18 to the east, at ck 4,352 with no beacon since ck 0. -/
def wKeep (k : Keeper) (side : List (TileId × SideMsg)) : State :=
  { dev48 with ck := 4352, tiles := [(17, { Tile.reset with keeper := k })], side := side }
def kp0 : Keeper := Tile.reset.keeper
/-- Votes of tiles 17 and 2 against 18, whose neighbours are 2, 17, 19 and 34. -/
def votes3 : List Vote := [⟨17, 18, 1, 0⟩, ⟨2, 18, 1, 0⟩, ⟨34, 18, 1, 0⟩]
/-- A beacon of tile 18 in LIT, with its CRC. -/
def beacon18 : BitVec 32 := beaconWord (wKeep kp0 []) 18

theorem test_meets_keepers_vote :
    tileBeside 17 .east = some 18 ∧ isDark (wKeep kp0 []) 17 = false ∧ kp0.sees 18 = false ∧ kp0.votes = [] ∧
    kp0.good.get .east + 4352 ≤ (wKeep kp0 []).ck ∧ { wKeep kp0 [] with ck := 4351 }.ck < kp0.good.get .east + 4352 ∧
    fld beacon18 16 16 = crc16 (leBytes 2 (fld beacon18 0 16)) ∧ fld beacon18 12 4 = tileX 18 ∧ fld beacon18 8 4 = tileY 18 ∧ bcState beacon18 ≤ 4 ∧
    fld (beacon18 ^^^ 1) 16 16 ≠ crc16 (leBytes 2 (fld (beacon18 ^^^ 1) 0 16)) ∧ kp0.state ≠ .appeal ∧
    kp0.bad.get .east < 3 ∧ 3 ≤ (kp0.bad.set .east 3).get .east ∧
    (∀ y ∈ tilesBeside 17, mustDeclare (wKeep kp0 []) 17 y = false) ∧ mustDeclare (wKeep { kp0 with votes := votes3 } []) 17 18 = true ∧
    (∀ y ∈ tilesBeside 17, y ≠ 18 → mustDeclare (wKeep { kp0 with votes := votes3 } []) 17 y = false) ∧
    (wKeep kp0 []).ck < 0 + 8192 ∧ (wKeep kp0 [(18, .declare [] 3), (17, .vote [16] ⟨2, 18, 1, 0⟩)]).side = [(18, SideMsg.declare [] 3)] ++ (17, .vote [16] ⟨2, 18, 1, 0⟩) :: [] ∧
    keeperWorks (wKeep kp0 []) 17 = true ∧ keeperWorks (wKeep { kp0 with state := .dark } []) 17 = false ∧ nextBeat kp0 4352 = 5120 ∧
    sideOpen (wKeep kp0 []) 17 18 = true ∧ sideOpen (wKeep { kp0 with closed := kp0.closed.set .east true } []) 17 18 = false := by
  decide +kernel

theorem test_meets_tiles_darken :
    isDark (wKeep kp0 []) 18 = false ∧ ({ kp0 with dark := [18] } : Keeper).sees 18 = true ∧
    isDark { wKeep kp0 [] with tiles := [(18, { Tile.reset with keeper := { kp0 with state := .dark } })] } 18 = true ∧
    (slotAt (coreOf wReady 33) 5).st ≠ .free ∧ (33 : CoreId) ∈ coresOfTile 0 ∧
    ({ kp0 with due := kp0.due.set .east (some (4353, true)) } : Keeper).due.get .east = some (4353, true) ∧ kp0.due.get .east = none ∧
    ({ Tile.reset with shadow := ⟨false, false, some (4353, true)⟩ } : Tile).shadow.due = some (4353, true) ∧ (wKeep kp0 []).ck < 4353 ∧
    neighbour 33 .east = some 34 ∧ tileOfCore 33 ≠ tileOfCore 34 := by decide +kernel

theorem test_meets_tiles_relight :
    ({ kp0 with state := .dark } : Keeper).state = .dark ∧ 3 ≤ 2 + 1 ∧ dev48.mgmt.boot = .running ∧ linkDown.mgmt.linkUp = false ∧ kp0.state = .lit ∧
    (∀ k ∈ coresOfTile 17, (coreOf dev48 k).released = false) ∧ kp0.appealCk = none ∧ (4 : Nat) ≤ ({ kp0 with sent := 4 } : Keeper).sent ∧
    4 ≤ (kp0.row.set .east 4).get .east ∧ (wKeep kp0 []).ck < 0 + 8192 ∧ 1280 ≤ kp0.good.get .east + 1280 ∧ kp0.good.get .east + 1280 < (wKeep kp0 []).ck ∧
    ({ kp0 with state := .appeal, appealCk := some 0 } : Keeper).state = .appeal ∧
    ((tilesBeside 17).filter fun y => !(rebuildView { wKeep { kp0 with state := .appeal } [] with ck := 100 } 17).contains y.toNat).length = 4 ∧
    majority (liveBeside kp0 17) = 3 ∧ (insertNat (18 : TileId).toNat [2, 16]).length = 3 ∧ (insertNat (18 : TileId).toNat []).length = 1 ∧
    dirTo 17 18 = some .east ∧ pathTo kp0.sees 17 19 = some [18, 19] := by decide +kernel

/-- A descriptor, a registered context 1, a page the host maps for it. -/
def ctxD : CtxDesc := ⟨5, 0, 0, 0, 0, 0, 0, none⟩
def wLds (m : Mem) : State :=
  { dev48 with
    pmem := m
    tsu := { dev48.tsu with host := [⟨5, 0, 0x4000, 0, true, true, false⟩] }
    lds := { dev48.lds with enabled := true, ctxs := [(1, ctxD)] } }
/-- A manifest at 0x4000: mark, version, one page of hashes, one entry, no handler. -/
def manifest : Mem :=
  Mem.write [] 0x4000 (leBytes 8 0x16f66 ++ leBytes 8 0 ++ leBytes 8 0x20000 ++ leBytes 8 (2 ^ 32 + 1) ++ leBytes 8 64 ++ leBytes 8 128 ++ leBytes 8 192 ++
    leBytes 8 0 ++ leBytes 64 1 ++ leBytes 8 0x20002)

/-- A real-time queue's control word: class 1, a rectangle of one tile, one row, one way. -/
def rtCtl : Word := .ofNat 64 (2 ^ 60 + 2 ^ 52 + 1)

/-- REGQUEUE as its operands stand in the mailbox. -/
def mbStart (s : State) : State := mbEnd { s with lds := { s.lds with mbOp := 4 } } s.lds.mbRes [1, 0, rtCtl]

theorem test_meets_mailbox_commands :
    (wLds []).lds.enabled = true ∧ (0x4040 : Word).toNat % 64 = 0 ∧ (0x4041 : Word).toNat % 64 ≠ 0 ∧
    (descOf (blkWords (Mem.read (wLds []).pmem 0x4040 64))).walk ≠ 3 ∧ SMap.get? (wLds []).lds.ctxs 2 = none ∧
    (∀ j ∈ [1], (SMap.get? (wLds []).lds.ctxs j).isSome = true) ∧ (SMap.get? (wLds []).lds.ctxs 1).isSome = true ∧
    (SMap.get? (wLds []).lds.ctxs 9).isSome = false ∧ (folioOf (wLds manifest) 1 0 0).isSome = true ∧ (folioOf (wLds []) 1 0 0).isNone = true ∧
    pageUsable (wLds []) 1 0 = true ∧ pageUsable (wLds []) 1 0x1000 = false ∧ fld (2 : Word) 6 24 = 0 ∧ 2 ≤ fld (2 : Word) 0 2 ∧
    fld (rtCtl) 0 2 < 2 ∧ 1 ≤ fld rtCtl 60 4 ∧ fld rtCtl 52 8 ≤ 127 ∧ (ctlRect rtCtl).inGrid = true ∧
    (reserve (mbStart (wLds [])) 1 rtCtl).isSome = true ∧ (wLds []).lds.mbBusy = false ∧
    (reserve (mbStart { wLds [] with lds := { (wLds []).lds with resvs := [⟨3, ⟨0, 0, 1, 1⟩, [], 1⟩] } }) 1 rtCtl).isNone = true ∧
    (keeperOf (wLds []) 0).state ≠ .admitting ∧ (255 : Word).toNat < 256 ∧
    (let lo := (wLds []).mgmt.hdmBase
     let hi := lo + hdmSize (wLds [])
     lo % 4096 = 0 ∧ hi % 4096 = 0 ∧ lo < hi ∧ hi < 2 ^ 64) := by decide +kernel

theorem get?_run {β : Type} (f : Nat → β) : ∀ n a j, a ≤ j → j < a + n → SMap.get? ((List.range' a n).map fun i => (i, f i)) j = some (f j)
  | 0, _, _, h, h' => absurd h' (by omega)
  | n + 1, a, j, h, h' => by
    simp only [List.range'_succ, List.map_cons, SMap.get?]
    by_cases e : a = j
    · simp [← e]
    · simpa [e, show j ≠ a from fun x => e x.symm] using get?_run f n (a + 1) j (by omega) (by omega)

/-- All 1,023 contexts registered. -/
theorem test_meets_mailbox_full (j : Nat) (h : 1 ≤ j) (h' : j < 1024) :
    (SMap.get? ((List.range' 1 1023).map fun i => (i, ctxD)) j).isSome = true := by
  rw [get?_run (fun _ => ctxD) 1023 1 j h (by omega)]
  rfl

/-- A user queue of context 1 at page 0, with a folio of one entry. -/
def uq (pend : Option (List Word)) : UQueue := { newQueue 0 1 0 2 with pending := pend, tail := 1 }
def folio0 : Folio := ⟨1, 0, 0x20000, [0], [0x20002], []⟩
def wQ (u : UQueue) (m : Mem) : State :=
  { wLds m with lds := { (wLds m).lds with queues := [(0, u)], folios := [folio0] } }

def okQ {α : Type} : Option α → Bool := Option.isSome
/-- A launch record of one tile whose entry is the folio's: one task on core 0 of the rectangle. -/
def record0 : List Word := blk [0x20002, 0, 0, 0, 0, 0, 0, 0]

theorem test_meets_launches :
    hasTailToken (wQ (uq none) []) 0 (uq none) = false ∧
    hasTailToken { dev48 with coh := { dev48.coh with lines := [(0x80, { lineHome false with hold := [(ldsReq 0, 1)] })] } } 0 { uq none with tailLine := some 0x80 } = true ∧
    translate (wQ (uq none) []) [] 1 0 .r = .ok 0x4000 ∧ (ldsRead (wQ (uq none) []) 1 0 8).isSome = true ∧
    (60 + 2 ^ 64 - 0) % 2 ^ 64 ≤ 60 ∧ 60 < (61 + 2 ^ 64 - 0) % 2 ^ 64 ∧ (uq none).stopped = false ∧ (uq none).head ≠ (uq none).tail ∧
    (ldsRead (wQ (uq none) []) 1 (0 + .ofNat 64 (0x100 + 64 * (0 % 60))) 64).isSome = true ∧
    mayTake (wQ (uq none) []) (uq none) = true ∧ mayTake (wQ (uq (some record0)) []) (uq none) = false ∧
    mayPlace (wQ (uq (some record0)) []) (uq (some record0)) = true ∧ mayPlace (wQ (uq (some record0)) []) { uq none with ctl := 3 } = false ∧
    (nextRecord (wQ (uq none) []) (uq none)).isSome = true ∧
    recCheck (wQ (uq none) []) (uq none) record0 = 0 ∧ recCheck (wQ (uq none) []) (uq none) (blk [0x30002]) = 2 ∧
    folioFor (wQ (uq none) []) (uq none) record0 = some folio0 ∧
    ((rectsFor (wQ (uq none) []) (uq none) record0).find? (rectFree (wQ (uq none) []))) = some ⟨0, 0, 1, 1⟩ ∧
    (giveColour (dropEnded (wQ (uq none) []) ⟨0, 0, 1, 1⟩) 1).isSome = true ∧
    SMap.get? (wPart part0 0).lds.parts 0 = some part0 := by decide +kernel

/-- Tile 0 is held by a partition whose slice has ended, and a launch of its shape wants tile 0. -/
def fix0 : List Word := blk [0x20002, 0, 0, 0, 0x100, 0, 0, 0]
def wWant : State :=
  let s := wQ (uq (some fix0)) []
  { s with tiles := [(0, { Tile.reset with holder := some 0 })], lds := { s.lds with parts := [(0, part0)] } }
theorem test_meets_wanted :
    mustLeave wWant 0 = true ∧ heldPart wWant 0 = some (0, part0) ∧ isRt (uq (some fix0)) = false ∧ (∀ x ∈ rectsFor wWant (uq none) fix0, rectFree wWant x = false) ∧
    (rectsFor wWant (uq none) fix0).find? (fun x => tilesGive wWant (ctlClass (uq none).ctl) x.tiles) = some ⟨0, 0, 1, 1⟩ := by decide +kernel

/-- An Interactive record goes before a Bulk one, and then the earlier (R404). -/
theorem test_lane_order :
    laneBefore (newQueue 0 1 0 2) (newQueue 1 1 0 3) 9 1 = true ∧ laneBefore (newQueue 0 1 0 3) (newQueue 1 1 0 3) 1 9 = true ∧
    laneBefore (newQueue 0 1 0 0) (newQueue 1 1 0 1) 9 1 = true ∧ laneBefore (newQueue 0 1 0 1) (newQueue 1 1 0 2) 1 9 = false ∧
    (((uq none).sawTail 3 7).sawTail 5 9).arrivals = [(3, 7), (5, 9)] := by decide +kernel

/-- No rectangle is free while every tile's keeper has left LIT. -/
theorem test_meets_no_rectangle :
    rectFree { wQ (uq none) [] with tiles := [(0, { Tile.reset with keeper := { kp0 with state := .dark } })] } ⟨0, 0, 1, 1⟩ = false := by decide +kernel

theorem test_meets_records_and_translations :
    ({ dev48.eva with inbox := [⟨2, 5, 0⟩] } : Eva).inbox = ⟨2, 5, 0⟩ :: [] ∧ fld (.ofNat 64 (2 * 2 ^ 56) : Word) 56 8 = 2 ∧
    (tsuXlat (wPart part0 0) 0 0x5000 .r).isSome = true ∧ (tsuXlat dev48 0 0x5000 .r).isNone = true ∧
    (⟨3, 33, 5, 0, 0x5000, false, false, none⟩ : PageReq) ∈ ([⟨3, 33, 5, 0, 0x5000, false, false, none⟩, ⟨4, 33, 5, 0, 0x6000, true, true, some 0⟩] : List PageReq) ∧
    (⟨2, 5, 0⟩ : Rec).asks = false ∧ (wQ (uq none) []).lds.queues.find? (fun x => x.2.id == 0) = some (0, uq none) ∧
    (wQ (uq none) []).lds.queues.find? (fun x => x.2.id == 9) = none ∧
    stillUsed { dev48 with taken := [(66, [redE])] } [(0x9000, 4096)] = true ∧
    pageHash (wQ (uq none) []) 1 0x20000 = some 0 ∧ hashResult (wQ (uq none) []) 1 0x20000 = none ∧ pageHash (wQ (uq none) []) 1 0x21000 = none ∧
    ({ dev48.tsu with inval := [[(0x4000, 4096)]] } : Tsu).inval = [(0x4000, 4096)] :: [] ∧ stillUsed dev48 [(0x4000, 4096)] = false ∧
    stillUsed { dev48 with net := [⟨33, 33, 0, 0, .far .task 0x4008 (.amo .add 1) 0 0⟩] } [(0x4000, 4096)] = true ∧
    (savedOf dev48 none 33).isNone = true ∧ (savedOf wSaved (some 0) 33).isSome = true := by decide +kernel

def exeHost : List HostPage := [⟨5, 0x20000, 0x4000, 0, true, false, true⟩]
theorem test_meets_page_hash :
    translate { wQ (uq none) [] with tsu := { dev48.tsu with host := exeHost } } [] 1 0x20000 .x = .ok 0x4000 := by decide +kernel

/-- A page of a registered context's SWITCH area, which nothing maps, and one outside every area (R397). -/
theorem test_meets_areas :
    let d : CtxDesc := ⟨5, 0, 0, 0x100000, 0, 0, 0, none⟩
    let s : State := { dev48 with lds := { dev48.lds with ctxs := [(1, d)] } }
    areaLost s ⟨0, 33, 0, 1, 0x100040, false, false, none⟩ = true ∧ areaLost s ⟨0, 33, 0, 1, 0x40000000000, false, false, none⟩ = false ∧
    (SMap.get? s.lds.ctxs (1 : CtxNum).toNat) = some d := by decide +kernel

/-- What stands next in the agenda, with its conditions met and not: the ring set by firmware, a measurement. -/
theorem test_meets_outside_inputs :
    ({ dev48 with agenda := [.ring dev48.mgmt.hdmBase 4096] } : State).agenda = .ring dev48.mgmt.hdmBase 4096 :: [] ∧
    dev48.mgmt.boot = .running ∧ dev48.mgmt.memGib ≠ 0 ∧ rampsLocked dev48 = false ∧ (4096 : Nat) = 2 ^ 12 ∧ dev48.mgmt.hdmBase % 32 = 0 ∧
    dev48.mgmt.hdmBase + 32 * 4096 ≤ dev48.mgmt.hdmBase + hdmSize dev48 ∧
    ({ dev48 with agenda := [.measure 8 0] } : State).agenda = .measure (.ofNat 8 (7 + 1)) 0 :: [] := by decide +kernel

def mgmtIs (m : Mgmt) : State := { dev48 with mgmt := m }
/-- Every tile has been reset and tested in bring-up, and core 34 has its TVEC. -/
def wTested : State := mgmtIs { dev48.mgmt with resets := List.range 256, tested := List.range 256, tvecs := [34] }
theorem test_meets_bring_up_order :
    allReset wTested = true ∧ allTested wTested = true ∧ allTested dev48 = false ∧ (34 : CoreId).toNat ∈ wTested.mgmt.tvecs ∧
    (35 : CoreId).toNat ∉ wTested.mgmt.tvecs ∧ (coreOf wTested 34).released = false ∧ isLit wTested (tileOfCore 34) = true ∧
    (17 : TileId).toNat ∉ dev48.mgmt.tested ∧ allReset (mgmtIs { dev48.mgmt with resets := List.range 256 }) = true ∧
    ({ dev48.mgmt with boot := .recovery } : Mgmt).boot = .recovery ∧ ({ dev48.mgmt with boot := .recovery } : Mgmt).mod0 = true ∧
    linkDown.mgmt.linkUp = false := by decide +kernel
theorem test_meets_management :
    spdmOpen dev48 = true ∧ spdmOpen linkDown = false ∧ 4 ≤ dev48.mgmt.capCk.toNat ∧ 8 ≤ dev48.mgmt.capCk.toNat ∧
    vget dev48.mgmt.exts 3 0 < 256 ∧ 256 ≤ vget (vset dev48.mgmt.exts 3 256) 3 0 ∧ 90 ≤ (90 : BitVec 8).toNat ∧ (240 : BitVec 8).toNat ≤ 240 ∧
    (89 : BitVec 8).toNat < 90 ∧ 4 ≤ dev48.mgmt.freq.toNat ∧ dev48.mgmt.freq.toNat ≤ 8 ∧ dev48.mgmt.tj.toNat < 100 ∧
    105 ≤ (105 : BitVec 8).toNat ∧ 100 ≤ (104 : BitVec 8).toNat ∧ (99 : BitVec 8).toNat < 100 ∧ 115 ≤ (115 : BitVec 8).toNat ∧ (114 : BitVec 8).toNat < 115 ∧
    State.reset.mgmt.memGib = 0 ∧ dev48.mgmt.memGib ≠ 0 ∧ (rampOf dev48 15).2 = false ∧
    (rampOf { dev48 with ramp := [(15, (0, true))] } 15).2 = true ∧ holdsState dev48 0 = false ∧ holdsState (wPart part0 0) 0 = true ∧ ({ dev48.mgmt with wanted := [3] } : Mgmt).wanted = [(3 : TileId).toNat] ∧ (keeperOf dev48 0).state ≠ .dark ∧
    rampsLocked dev48 = false ∧ arrayReleased dev48 = false ∧ dev48.mgmt.mod0 = true ∧
    rampsLocked { dev48 with ramp := (List.range 16).map fun g => (g, (rampReset, true)) } = true := by decide +kernel

/-- Bring-up done: the cores of tile 0 are released, every other tile has failed its self-test. -/
def wUp : State :=
  let r := { Core.reset with released := true }
  { dev48 with
    core := r
    others := [(0, r), (1, r), (32, r)]
    tiles := (List.range 255).map fun i => (i + 1, { Tile.reset with keeper := { kp0 with state := .fenced } }) }
theorem test_meets_array_released : arrayReleased wUp = true := by decide +kernel
/-! Results that the manual works out. -/

/-- The scalar destination s1 after one instruction on s2 = a, s3 = b. -/
def result (i : Instr) (a b : Nat) : Option Nat :=
  match exec i (at_ (cr (tc 0x10 [0, 0x2b, a, b]))) with
  | .next t => if (cx t).pc = 0x1004 then some (getS t 1).toNat else none
  | _ => none

def neg (n : Nat) : Nat := 2 ^ 64 - n

/-- R5, R9, R150: core (13, 18) is core 1 of tile (6, 9), in the supergroup with corner (8, 16), on die 1; its slot 9 has
the tag 0x9349. -/
theorem test_coordinates :
    tcore (coreAt 13 18) = 1 ∧ tileOfCore (coreAt 13 18) = tileAt 6 9 ∧ sgOf (coreAt 13 18) = sgOf (coreAt 8 16) ∧
    bit (coreid (coreAt 13 18)) 10 = true ∧ tagOf (coreAt 13 18) 9 = 0x9349 := by decide +kernel

/-- R15: a leaf of five heads at 0x7f0000101c40. -/
theorem test_successors : succOf 0x7f0000101c46 5 = 0x7f0000101c48 ∧ succOf 0x7f0000101c4a 5 = 0x7f0000101c82 := by decide +kernel

/-- R82, R83, R85, R86, R90: the shift by 65, the division of -7, the clipped field, the sign-extended constant. -/
theorem test_scalar_examples :
    result (.shl 1 2 3) 5 65 = some 10 ∧ result (.div 1 2 3) (neg 7) 2 = some (neg 3) ∧ result (.rem 1 2 3) (neg 7) 2 = some (neg 1) ∧
    result (.div 1 2 3) (2 ^ 63) (neg 1) = some (2 ^ 63) ∧ result (.rem 1 2 3) (2 ^ 63) (neg 1) = some 0 ∧
    result (.divu 1 2 3) 7 0 = some (neg 1) ∧ result (.rem 1 2 3) 7 0 = some 7 ∧
    result (.bfx 1 2 3) 0xf000000000000000 0x23c = some (neg 1) ∧ result (.bfxu 1 2 3) 0xf000000000000000 0x23c = some 15 ∧
    result (.bfi 1 2 3) 9 0 = some 0x2b ∧ result (.ldi 1 0xffffffff) 0 0 = some (neg 1) ∧ result (.ldih 1 0x1234) 0 0 = some 0x12340000002b := by
  decide +kernel

theorem test_scalar_wraps :
    result (.add 1 2 3) (neg 1) 2 = some 1 ∧ result (.sub 1 2 3) 1 2 = some (neg 1) ∧ result (.mulh 1 2 3) (neg 1) 1 = some (neg 1) ∧
    result (.mulhu 1 2 3) (neg 1) 2 = some 1 ∧ result (.sar 1 2 3) (neg 8) 1 = some (neg 4) ∧ result (.shr 1 2 3) (neg 8) 60 = some 15 ∧
    result (.slt 1 2 3) (neg 1) 0 = some 1 ∧ result (.sltu 1 2 3) (neg 1) 0 = some 0 ∧ result (.clz 1 2) 0 0 = some 64 ∧
    result (.ctz 1 2) 8 0 = some 3 ∧ result (.bswap 1 2) 0x0102030405060708 0 = some 0x0807060504030201 ∧ result (.add 0 2 3) 1 1 = some 0x2b := by
  decide +kernel

/-- R135: MOV q0, q0 on a core that is producer and consumer of a full queue issues. -/
theorem test_mov_full_queue :
    (match exec (.mov 32 32) (withQ [1, 2, 3, 4, 5, 6, 7, 8]) with
      | .next t => decide (vget (tileOf t 0).queues 0 [] = [2, 3, 4, 5, 6, 7, 8, 1] ∧ (cx t).pc = 0x1004)
      | _ => false) = true := by decide +kernel

/-- R102: CSWR TIMECMP, s6 is the head 0x0740 and the tail 0x04c6. -/
theorem test_word_cswr : (decode [0x0740, 0x04c6]).toOption = some (.cswr 0 0x013 6) := by decide +kernel

/-- A vector of lanes. -/
def lanes (w : Nat) (l : List Nat) : Vec := .ofNat 512 (packCodes w l)
/-- v4 after one instruction on v1, v2, v3 and s9. -/
def vresult (i : Instr) (x y z : Vec) (s9 : Nat) : Option Vec :=
  match exec i (at_ (cr { tc 0x10 [0, 0, 0, 0, 0, 0, 0, 0, 0, s9] with v := vset (vset (vset Ctx.reset.v 1 x) 2 y) 3 z })) with
  | .next t => some (getV t 4)
  | _ => none

/-- R114, R120: VSAR.H by 19 shifts by 3; VZIP.W and VUZP.W of 10 … 25 and 30 … 45. -/
theorem test_vector_examples :
    vresult (.vsarTwin .h 4 1 9 rx0) (lanes 16 (List.replicate 32 0xfff8)) 0 0 19 = some (lanes 16 (List.replicate 32 0xffff)) ∧
    vresult (.vzip .w 4 1 2 rx0) (lanes 32 ((List.range 16).map (10 + ·))) (lanes 32 ((List.range 16).map (30 + ·))) 0 0 =
      some (lanes 32 [10, 30, 11, 31, 12, 32, 13, 33, 14, 34, 15, 35, 16, 36, 17, 37]) ∧
    vresult (.vuzp .w 4 1 1 rx0) (lanes 32 [10, 30, 11, 31, 12, 32, 13, 33, 14, 34, 15, 35, 16, 36, 17, 37]) 0 0 0 =
      some (lanes 32 [10, 11, 12, 13, 14, 15, 16, 17, 10, 11, 12, 13, 14, 15, 16, 17]) := by decide +kernel

/-- R75: the tree sum of 1, 2^24, 1, -2^24 is 1. -/
theorem test_tree_sum :
    vresult (.vfred ⟨.add, .f⟩ 4 1 rx0) (lanes 32 [0x3f800000, 0x4b800000, 0x3f800000, 0xcb800000]) 0 0 0 = some 0x3f800000 := by decide +kernel

/-- R119: MXOR clears a predicate and MNOT sets all its bits. -/
theorem test_predicates :
    (match exec (.mnot 3 3) w0 with
      | .next t => decide (getM t 3 = BitVec.allOnes 64)
      | _ => false) = true ∧
    (match exec (.mxor 3 3 3) { w0 with core := { w0.core with task := { w0.core.task with m := vset Ctx.reset.m 3 0x55 } } } with
      | .next t => decide (getM t 3 = 0)
      | _ => false) = true := by decide +kernel

/-- R62: FP6 E2M3 codes packed. -/
theorem test_packing : leBytes 3 (packCodes 6 [0x08, 0x28, 0x01, 0x1f]) = [0x08, 0x1a, 0x7c] := by decide +kernel

/-- R63, R69: an MX element beyond the range of FP32 becomes +∞. -/
theorem test_mx_overflow : roundTo fp32 .ne false (scaled 0xfe (e5m2.decode 0x7b)) = 0x7f800000 := by decide +kernel

/-- R70: a block with 3.0, 1.3 and -0.1 quantised to MXFP4. -/
theorem test_quantise :
    quantiseBlock 0x12 ([0x40400000, 0x3fa66666, 0xbdcccccd].map fp32.decode) [.ne, .ne, .ne] = (0x7e, [0x7, 0x5, 0x8]) := by decide +kernel

/-- R72: a slice whose products are 2^24, 1 and -2^24 on C = 0.5. -/
theorem test_slice_sum :
    applySliceF 0x3f000000 ([0x4b800000, 0x3f800000, 0xcb800000].map fp32.decode) = 0x3fc00000 := by decide +kernel

/-- R25 and the worked case of chapter 1: ERET leaves the kernel. -/
theorem test_eret :
    (match exec .eret (at_ (cr { tc 0x630 [] with epc := 0x7f0000101c46, status := 0x610 })) with
      | .next t => decide ((cx t).pc = 0x7f0000101c46 ∧ (cx t).prv = false ∧ (cx t).ie = true ∧ (cx t).nest = false)
      | _ => false) = true := by decide +kernel

/-- R23: TRAP #7 in user mode with IE = 1. -/
theorem test_trap :
    (match exec (.trap 7) (at_ (cr { tc 0x100 [] with pc := 0x7f0000101c4a, succ := 0x7f0000101c82 })) with
      | .next t => decide ((cx t).epc = 0x7f0000101c82 ∧ (cx t).cause = 0x09 ∧ (cx t).eval = 7 ∧ (cx t).pprv = false ∧ (cx t).pie = true ∧
          (cx t).ie = false ∧ (cx t).prv = true ∧ (cx t).nest = true ∧ (cx t).pc = 0x2002)
      | _ => false) = true := by decide +kernel

/-- R26, log 1: after reset nothing has been released, and a step passes one ck. -/
theorem test_step_of_reset :
    (match step State.reset with
      | .next t => decide (t.ck = 1 ∧ t.core.released = false)
      | _ => false) = true := by decide +kernel

/-- Host question on every row: a word placed for the first step after reset runs. NOP leaves the pc at the next leaf. -/
theorem test_placed_word :
    (match step (State.reset.withFetchWord 16 0xf000) with
      | .next t => decide ((cx t).pc = 0x10042)
      | _ => false) = true := by decide +kernel

/-- R68: with seed 1, FP32 0x3f804000 becomes BF16 0x3f81 as element 0. -/
theorem test_stochastic :
    draw 1 0 = 0x00042021 ∧ roundTo bf16 (.st (draw 1 0)) false (fp32.decode 0x3f804000) = 0x3f81 := by decide +kernel

end Sys2Proof.Tests
end

section
/-!
PROOFS. What stands while time passes, and when a gang ends (R20, R147, R169, R187, R363): every register of both contexts of
every core. Only what a context waits for may change.
-/
namespace Sys2Proof.Machine

/-! Memory. -/

theorem SameMem.refl (s : State) : SameMem s s := ⟨fun _ => rfl, fun _ => rfl, rfl, rfl, rfl, rfl⟩

theorem SameMem.trans {s t u : State} (h : SameMem s t) (g : SameMem t u) : SameMem s u := by
  obtain ⟨hp, ha, hst, hpo, hco, hlo⟩ := h
  obtain ⟨gp, ga, gst, gpo, gco, glo⟩ := g
  exact ⟨fun a => (gp a).trans (hp a), fun a => (ga a).trans (ha a), gst.trans hst, gpo.trans hpo, gco.trans hco, glo.trans hlo⟩

theorem sameMem_setCore (s : State) (k : CoreId) (c : Core) : SameMem s (setCore s k c) := by
  unfold setCore
  split <;> exact SameMem.refl s

/-! The relation, of contexts, of cores and of states. -/

/-- `y` is `x` but for what it waits for. -/
def CtxStands (x y : Ctx) : Prop := ∃ w, y = { x with wait := w }

theorem CtxStands.refl (x : Ctx) : CtxStands x x := ⟨x.wait, rfl⟩

theorem CtxStands.trans {x y z : Ctx} : CtxStands x y → CtxStands y z → CtxStands x z := by
  rintro ⟨v, rfl⟩ ⟨w, rfl⟩
  exact ⟨w, rfl⟩

/-- Both contexts of a core stand but for what they wait for, and so does TVEC. -/
structure CoreStands (c d : Core) : Prop where
  tvec : d.tvec = c.tvec
  task : CtxStands c.task d.task
  hand : CtxStands c.hand d.hand

theorem CoreStands.refl (c : Core) : CoreStands c c := ⟨rfl, .refl _, .refl _⟩

theorem CoreStands.trans {c d e : Core} (h : CoreStands c d) (g : CoreStands d e) : CoreStands c e :=
  ⟨g.tvec.trans h.tvec, h.task.trans g.task, h.hand.trans g.hand⟩

/-- Every core stands so, and with it which core and context step, memory, the translation service and the management core. -/
structure Stands (s t : State) : Prop where
  cur : t.cur = s.cur
  kind : t.kind = s.kind
  tsu : t.tsu = s.tsu
  mgmt : t.mgmt = s.mgmt
  mem : SameMem s t
  cores : ∀ k, CoreStands (coreOf s k) (coreOf t k)

theorem Stands.refl (s : State) : Stands s s := ⟨rfl, rfl, rfl, rfl, .refl s, fun _ => .refl _⟩

theorem Stands.trans {s t u : State} (h : Stands s t) (g : Stands t u) : Stands s u :=
  ⟨g.cur.trans h.cur, g.kind.trans h.kind, g.tsu.trans h.tsu, g.mgmt.trans h.mgmt, h.mem.trans g.mem,
    fun k => (h.cores k).trans (g.cores k)⟩

theorem Stands.foldl {α : Type} {f : State → α → State} (h : ∀ s a, Stands s (f s a)) (l : List α) (s : State) :
    Stands s (l.foldl f s) := by
  induction l generalizing s with
  | nil => exact .refl s
  | cons a r ih => exact (h s a).trans (ih (f s a))

theorem Stands.core {s t : State} (h : Stands s t) : CoreStands s.core t.core := by
  have hc := h.cores s.cur
  rwa [coreOf_cur, ← h.cur, coreOf_cur] at hc

/-- The context that steps stands but for its wait. -/
theorem Stands.cx {s t : State} (h : Stands s t) : CtxStands (cx s) (cx t) := by
  have hc := h.core
  unfold Machine.cx
  rw [h.kind]
  cases s.kind with
  | task => exact hc.task
  | handler => exact hc.hand

/-! Updates after which a state stands. -/

@[simp] theorem setCore_kind (s : State) (k : CoreId) (c : Core) : (setCore s k c).kind = s.kind := by
  unfold setCore; split <;> rfl

@[simp] theorem setCore_tsu (s : State) (k : CoreId) (c : Core) : (setCore s k c).tsu = s.tsu := by
  unfold setCore; split <;> rfl

@[simp] theorem setCore_mgmt (s : State) (k : CoreId) (c : Core) : (setCore s k c).mgmt = s.mgmt := by
  unfold setCore; split <;> rfl

theorem stands_setCore (s : State) (k : CoreId) (c : Core) (h : CoreStands (coreOf s k) c) : Stands s (setCore s k c) where
  cur := cur_setCore s k c
  kind := setCore_kind s k c
  tsu := setCore_tsu s k c
  mgmt := setCore_mgmt s k c
  mem := sameMem_setCore s k c
  cores j := by
    by_cases hj : j = k
    · subst hj
      rwa [coreOf_setCore_self]
    · rw [coreOf_setCore_ne s c hj]
      exact .refl _

/-- A core set to one with the same contexts and TVEC. -/
theorem stands_setCore_of_eq (s : State) (k : CoreId) (c : Core) (hv : c.tvec = (coreOf s k).tvec) (ht : c.task = (coreOf s k).task)
    (hh : c.hand = (coreOf s k).hand) : Stands s (setCore s k c) :=
  stands_setCore s k c ⟨hv, ht ▸ .refl _, hh ▸ .refl _⟩

theorem stands_modCore (s : State) (k : CoreId) (f : Core → Core) (h : ∀ c, CoreStands c (f c)) : Stands s (modCore s k f) :=
  stands_setCore s k _ (h _)

theorem stands_modTile (s : State) (t : TileId) (f : Tile → Tile) : Stands s (modTile s t f) :=
  ⟨rfl, rfl, rfl, rfl, .refl s, fun _ => .refl _⟩

theorem stands_mirrorSlot (s : State) (k : CoreId) (j : Nat) (p : Option (BitVec 16)) : Stands s (mirrorSlot s k j p) :=
  stands_modTile s _ _

theorem stands_coreRec (s : State) (k : CoreId) (n : Nat) (c : BitVec 8) (tag : BitVec 16) (x y : Word) :
    Stands s (coreRec s k n c tag x y) :=
  ⟨rfl, rfl, rfl, rfl, .refl s, fun _ => .refl _⟩

theorem stands_sendAs (s : State) (k d : CoreId) (tag : BitVec 16) (b : Body) : Stands s (sendAs s k d tag b) :=
  ⟨rfl, rfl, rfl, rfl, .refl s, fun _ => .refl _⟩

theorem stands_net (s : State) (ps : List Packet) : Stands s { s with net := ps } :=
  ⟨rfl, rfl, rfl, rfl, .refl s, fun _ => .refl _⟩

/-! The end of a ck at the named barriers (R169). -/

theorem coreStands_releaseWaiters (c : Core) (b : Nat) : CoreStands c (releaseWaiters c b) := by
  have key : ∀ x : Ctx, CtxStands x (match x.wait with
      | .bwait i d a _ => if i.toNat = b then { x with wait := .bwait i d a true } else x
      | _ => x) := by
    intro x
    split
    · split
      · exact ⟨_, rfl⟩
      · exact .refl x
    · exact .refl x
  exact ⟨rfl, key c.task, key c.hand⟩

theorem stands_barAdd (s : State) (k : CoreId) (b arr : Nat) (delta : Int) : Stands s (barAdd s k b arr delta) :=
  stands_setCore_of_eq s k _ rfl rfl rfl

theorem stands_barApply (s : State) (k : CoreId) (b arr : Nat) (delta : Int) : Stands s (barApply s k b arr delta) := by
  unfold barApply
  dsimp only
  split
  · exact .refl s
  split
  · refine Stands.trans ?_ (stands_coreRec _ k _ _ _ _ _)
    exact stands_setCore_of_eq s k _ rfl rfl rfl
  split
  · have released : ∀ v, Stands s (setCore s k (releaseWaiters { coreOf s k with bars := v } b)) := by
      intro v
      obtain ⟨hv, ht, hh⟩ := coreStands_releaseWaiters { coreOf s k with bars := v } b
      exact stands_setCore s k _ ⟨hv, ht, hh⟩
    split
    · exact (released _).trans (stands_barAdd _ k b 0 0)
    · exact released _
  · exact stands_setCore_of_eq s k _ rfl rfl rfl

theorem stands_barSettle (s : State) (k : CoreId) : Stands s (barSettle s k) := by
  have events : ∀ (u : State) (x : Nat × Nat × Int), Stands u (barApply u k x.1 x.2.1 x.2.2) :=
    fun u x => stands_barApply u k x.1 x.2.1 x.2.2
  have cleared : Stands s (setCore s k { coreOf s k with barIn := [] }) := stands_setCore_of_eq s k _ rfl rfl rfl
  exact cleared.trans (.foldl events _ _)

theorem stands_barRun (n : Nat) (s : State) : Stands s (barRun n s) := by
  induction n generalizing s with
  | zero => exact .refl s
  | succ n ih =>
    unfold barRun
    split
    · exact (Stands.foldl stands_barSettle _ s).trans (ih _)
    · exact .refl s

/-! Launches accepted at the end of a ck (R187). -/

theorem stands_launchAccept (s : State) (k : CoreId) : Stands s (launchAccept s k) := by
  unfold launchAccept
  dsimp only
  split
  · exact .refl s
  split
  next l q j hq hj =>
    split
    · exact stands_setCore_of_eq s k _ rfl rfl rfl
    · refine (stands_mirrorSlot s k j (some l.parent)).trans ?_
      split <;> exact stands_setCore_of_eq _ k _ rfl rfl rfl
  next => exact .refl s

theorem stands_launchesIn (s : State) : Stands s (launchesIn s) := by
  refine Stands.foldl (fun u k => Stands.trans ?_ (stands_launchAccept _ k)) _ s
  exact stands_setCore_of_eq u k _ rfl rfl rfl

/-! Ports that close and open (R363, R365, R369). -/

theorem coreStands_bindCount (t : Nat) (h : CtxKind) (c : Core) : CoreStands c (c.modCtx h (bindCount t)) := by
  have key : ∀ x : Ctx, CtxStands x (bindCount t x) := by
    intro x
    unfold bindCount
    split
    · split
      · exact ⟨_, rfl⟩
      · exact .refl x
    · exact .refl x
  cases h with
  | task => exact ⟨rfl, key c.task, .refl _⟩
  | handler => exact ⟨rfl, .refl _, key c.hand⟩

/-- A closed port answers a packet, with a record or without; a COPYX command goes back to its engine, and an invalidation for
BIND is counted. The cases are the bodies in the order of `adrift`. -/
theorem stands_adrift (s : State) (p : Packet) : Stands s (adrift s p) := by
  have answer : ∀ b, Stands s (sendAs s p.dst p.src 0xffff b) := fun b => stands_sendAs s _ _ _ b
  have logged : ∀ n c x b, Stands s (sendAs (coreRec s p.src n c p.tag x 0) p.dst p.src 0xffff b) :=
    fun n c x b => (stands_coreRec s _ n c _ x 0).trans (stands_sendAs _ _ _ _ b)
  unfold adrift
  dsimp only
  split
  case h_1 =>
    split
    · exact .refl s
    · exact logged ..
  case h_2 | h_3 | h_4 | h_5 | h_9 => exact logged ..
  case h_6 | h_8 => exact answer _
  case h_7 =>
    split
    · exact answer _
    · exact .refl s
  case h_10 => exact stands_modTile s _ _
  case h_11 => exact stands_modCore s _ _ (coreStands_bindCount _ _)
  case h_12 => exact .refl s

theorem stands_closePath (s : State) (x : TileId) (other : TileId → Bool) : Stands s (closePath s x other) :=
  (stands_net s _).trans (.foldl stands_adrift _ _)

theorem stands_setLinks (s : State) (k : CoreId) (f : Core → Quad LinkEnd) : Stands s (modCore s k fun c => { c with links := f c }) :=
  stands_setCore_of_eq s k _ rfl rfl rfl

theorem stands_dropLinks (s : State) (t : TileId) (d : Dir) : Stands s (dropLinks s t d) := by
  refine Stands.foldl (fun u k => ?_) _ s
  split
  · split
    · exact .refl u
    · exact (stands_setLinks u _ _).trans (stands_setLinks _ k _)
  · exact .refl u

theorem stands_portChange (s : State) (t : TileId) (d : Dir) (at_ : Nat) (shut : Bool) : Stands s (portChange s t d at_ shut) := by
  unfold portChange
  dsimp only
  split
  · split
    · exact (stands_modTile s t _).trans ((stands_closePath _ _ _).trans (stands_dropLinks _ t d))
    · exact stands_modTile s t _
  · exact stands_modTile s t _

theorem stands_shadowChange (s : State) (x : TileId) (shut : Bool) : Stands s (shadowChange s x shut) := by
  unfold shadowChange
  dsimp only
  split
  · exact (stands_modTile s x _).trans (stands_closePath _ _ _)
  · exact stands_modTile s x _

theorem stands_settleTile (s : State) (t : TileId) : Stands s (settleTile s t) := by
  have port : ∀ (u : State) (d : Dir), Stands u (match (tileOf s t).keeper.due.get d with
      | some (c, shut) => if c ≤ u.ck then portChange u t d c shut else u
      | none => u) := by
    intro u d
    split
    · split
      · exact stands_portChange u t d _ _
      · exact .refl u
    · exact .refl u
  unfold settleTile
  dsimp only
  refine (Stands.foldl port allDirs s).trans ?_
  split
  · split
    · exact stands_shadowChange _ t _
    · exact .refl _
  · exact .refl _

theorem stands_settlePorts (s : State) : Stands s (settlePorts s) := .foldl stands_settleTile _ s

/-! Time (R20). -/

theorem SMap.get?_map {α β : Type} (f : α → β) (m : SMap α) (a : Nat) :
    SMap.get? (m.map fun x => (x.1, f x.2)) a = (SMap.get? m a).map f := by
  induction m with
  | nil => rfl
  | cons c r ih =>
    simp only [List.map_cons, SMap.get?]
    split
    · rfl
    · exact ih

/-- A core once its bank array has gone on for n ck. -/
def Core.bankTick (n : Nat) (c : Core) : Core := { c with banks := bankRun n c.banks }

theorem coreStands_bankTick (n : Nat) (c : Core) : CoreStands c (c.bankTick n) := ⟨rfl, .refl _, .refl _⟩

/-- The clock goes on by n, and with it every bank array. -/
theorem stands_tick (s : State) (n : Nat) : Stands s { s with
    ck := s.ck + n
    core := { s.core with banks := bankRun n s.core.banks }
    others := s.others.map fun x => (x.1, { x.2 with banks := bankRun n x.2.banks }) } := by
  have listed := SMap.get?_map (Core.bankTick n) s.others
  refine ⟨rfl, rfl, rfl, rfl, .refl s, fun k => ?_⟩
  unfold coreOf
  dsimp only
  split
  · exact coreStands_bankTick n s.core
  · refine (listed k.toNat).symm ▸ ?_
    cases SMap.get? s.others k.toNat with
    | none => exact .refl _
    | some c => exact coreStands_bankTick n c

/-- While time passes every register stands. -/
theorem stands_elapse (s : State) (n : Nat) : Stands s (elapse s n) := by
  unfold elapse
  split
  · exact .refl s
  · exact ((stands_barRun _ s).trans (stands_launchesIn _)).trans ((stands_tick _ n).trans (stands_settlePorts _))

/-! The end of a gang (R147). -/

theorem coreStands_leaveGang (c : Core) : CoreStands c c.leaveGang := by
  refine ⟨rfl, ?_, .refl _⟩
  unfold Core.leaveGang
  dsimp only
  split
  · exact ⟨_, rfl⟩
  · exact .refl _

theorem stands_dissolve (s : State) (k : CoreId) : Stands s (dissolve s k) := by
  unfold dissolve
  split
  · exact .refl s
  · exact .foldl (fun u m => stands_modCore u m _ coreStands_leaveGang) _ s

theorem stands_dissolveMine (s : State) : Stands s (dissolveMine s) := by
  unfold dissolveMine
  split
  · exact stands_dissolve s s.cur
  · exact .refl s

/-- No core that has left its gang joins it again while others leave. -/
theorem gang_foldl_leaveGang (k : CoreId) (l : List CoreId) (s : State) (h : (coreOf s k).gang = none) :
    (coreOf (l.foldl (fun u m => modCore u m Core.leaveGang) s) k).gang = none := by
  induction l generalizing s with
  | nil => exact h
  | cons m r ih =>
    refine ih _ ?_
    by_cases hm : k = m
    · subst hm
      rw [coreOf_modCore_self]
      rfl
    · rwa [coreOf_modCore_ne s _ hm]

theorem gang_dissolve (s : State) (k : CoreId) : (coreOf (dissolve s k) k).gang = none := by
  unfold dissolve
  split
  next h => exact h
  next g _ =>
    refine gang_foldl_leaveGang k (gangMembers g) _ ?_
    rw [coreOf_modCore_self]
    rfl

end Sys2Proof.Machine
end

section
/-!
PROOFS. One ck of the core that steps (log 4): what follows a turn that asks for no page and finds no reset waiting, the
step of a core that is not live, and the step in which the task context alone has its turn (R26, R142, R397, R431).
-/
namespace Sys2Proof.Machine

/-! The fields of STATUS (R17). -/

theorem bits_mkStatus (nest pie ie pprv prv : Bool) : let w := mkStatus nest pie ie pprv prv
    bit w 10 = nest ∧ bit w 9 = pie ∧ bit w 8 = ie ∧ bit w 5 = pprv ∧ bit w 4 = prv := by
  revert nest pie ie pprv prv
  decide

/-! What follows a turn (R397, R431). -/

/-- No area fails where no page has been asked for. -/
theorem areaFault_of_reqs {before : List PageReq} {s : State} (h : s.tsu.reqs = before) : areaFault before s = s := by
  have hnew : (s.tsu.reqs.filter fun r => !before.contains r) = [] := by
    subst h
    exact List.filter_eq_nil_iff.mpr fun r hr => by simp [hr]
  unfold areaFault
  rw [hnew]
  rfl

theorem serveResets_of_wanted {s : State} (h : s.mgmt.wanted = []) : serveResets s = s := by
  simp [serveResets, h]

/-- A turn that has asked for no page, with no reset waiting, is followed by nothing. -/
theorem settle_quiet {s t : State} (hr : t.tsu.reqs = s.tsu.reqs) (hw : t.mgmt.wanted = []) : settle s t = t := by
  rw [settle, areaFault_of_reqs hr, serveResets_of_wanted hw]

/-- After a ck that passes nothing follows either. -/
theorem settle_elapse {s t : State} (hr : t.tsu.reqs = s.tsu.reqs) (hw : t.mgmt.wanted = []) (n : Nat) :
    settle s (elapse t n) = elapse t n := by
  have h := stands_elapse t n
  exact settle_quiet (by rw [h.tsu, hr]) (by rw [h.mgmt, hw])

/-! A core that fetches nothing (R26). -/

theorem coreLive_of_not_released {s : State} {k : CoreId} (h : (coreOf s k).released = false) : coreLive s k = false := by
  simp [coreLive, h]

/-- The step of a core that does not issue is a ck that passes, with power or without (R427). -/
theorem step_of_not_live {s : State} (ha : s.agenda = []) (hw : s.mgmt.wanted = []) (hl : coreLive s s.cur = false) :
    step s = .next (elapse s 1) := by
  unfold step turn
  rw [ha]
  dsimp only
  split
  · simp [coreStep, hl, onNext, settle_elapse rfl hw]
  · rfl

end Sys2Proof.Machine
end

section
/-!
PROOFS. Reset and release (O47; R17 to R20, R26, R133, R159, R206, R280, R307, R417).
-/
namespace Sys2Proof.Machine

open Host (Outcome)

/-! After reset: the one core that is listed, and every unlisted core and tile, are as a tile reset leaves them. -/

@[simp] theorem coreOf_reset (k : CoreId) : coreOf State.reset k = Core.reset := by
  unfold coreOf
  split <;> rfl

@[simp] theorem tileOf_reset (t : TileId) : tileOf State.reset t = Tile.reset := rfl

@[simp] theorem ctx_reset (h : CtxKind) : Core.reset.ctx h = Ctx.reset := by cases h <;> rfl

/-- A table that holds one value everywhere reads as that value, beyond its end too. -/
@[simp] theorem vget_replicate {α : Type} (n i : Nat) (d : α) : vget (Vector.replicate n d) i d = d := by
  by_cases h : i < n <;> simp [vget, h]

theorem vget_replicate_lt {α : Type} {n i : Nat} (x d : α) (h : i < n) : vget (Vector.replicate n x) i d = x := by
  simp [vget, h]

theorem getS_reset (r : Nat) : Ctx.reset.getS r = 0 := by
  unfold Ctx.getS
  split
  · rfl
  · exact vget_replicate 32 r 0

theorem memOk_reset : MemOk State.reset := ⟨rfl, rfl⟩

theorem ctxReset_registers : let x := Ctx.reset
    (∀ r, x.getS r = 0) ∧ (∀ r, vget x.v r 0 = 0) ∧ (∀ r, vget x.m r 0 = 0) ∧ x.epc = 0 ∧ x.eval = 0 ∧ x.cause = 0 ∧
    x.status = 0x430 ∧ x.prv = true ∧ x.pprv = true ∧ x.nest = true ∧ x.ie = false ∧ x.pie = false ∧
    x.sealerr = 0 ∧ x.kscr = 0 ∧ x.faultx = 0 :=
  ⟨getS_reset, fun r => vget_replicate 32 r 0, fun r => vget_replicate 8 r 0, rfl, rfl, rfl, rfl, by decide, by decide, by decide,
    by decide, by decide, rfl, rfl, rfl⟩

theorem coreReset_registers : let c := Core.reset
    c.tvec = 0 ∧ c.ctxnum = 0 ∧ c.vsave = 0 ∧ c.copyid = 0 ∧ c.copyepc = 0 ∧ c.mprog = 0 ∧ c.mprogc = 0 ∧ c.stealf = 0 ∧
    (∀ v, vget c.views v View.reset = View.reset) ∧ (∀ i, i < 64 → vget c.slotCnt i 0 = 4) ∧
    c.act = none ∧ c.released = false ∧ cycleOf State.reset c = 0 ∧ c.timecmp = 0xffffffffffffffff ∧ c.hlimit.toNat = 2000 ∧
    c.trctl = 0x0000ffff00000000 ∧ (∀ b, vget c.bars b 0 = 0) ∧ (∀ j, (slotAt c j).st = .free) ∧
    (∀ w, vget c.wins w Window.reset = Window.reset) ∧ (∀ j, vget c.journal j none = none) :=
  ⟨rfl, rfl, rfl, rfl, rfl, rfl, rfl, rfl, fun v => vget_replicate 8 v View.reset, fun _ h => vget_replicate_lt 4 0 h,
    rfl, rfl, rfl, rfl, rfl, rfl, fun b => vget_replicate 64 b 0, fun j => congrArg Slot.st (vget_replicate 64 j Slot.reset),
    fun w => vget_replicate 4 w Window.reset, fun j => vget_replicate 32 j none⟩

theorem tileReset_queues : let t := Tile.reset
    t.qmap = 0x000000e4dcb74321 ∧ ∀ j, vget t.queues j [] = [] :=
  ⟨rfl, fun j => vget_replicate 8 j []⟩

/-! The bring-up path (R26, R430 step 6; log 67). -/

/-- A core that has not been released gets its vector, and is not released by that. -/
theorem tvecBringupWrite_core {s : State} {k : CoreId} {v : Word} (hb : s.mgmt.boot = .running)
    (hl : s.mgmt.linkUp = true ∨ allTested s = true) (hr : (coreOf s k).released = false) :
    ∃ t, exec (.tvecBringupWrite k v) s = .next t ∧
      coreOf t k = { coreOf s k with tvecKept := setBit v 0 false, tvec := setBit v 0 false } := by
  refine ⟨_, congrArg Outcome.next (if_pos ⟨hb, hl⟩), ?_⟩
  rw [coreOf_modCore_self]
  change { coreOf s k with
    tvecKept := setBit v 0 false, tvec := if (coreOf s k).released then (coreOf s k).tvec else setBit v 0 false } = _
  simp [hr]

/-- A released core starts at TVEC, as from a trap entry of cause 0, and no other core changes. -/
theorem coreRelease_next {s : State} {k : CoreId} (hb : s.mgmt.boot = .running) (hl : isLit s (tileOfCore k) = true)
    (hr : (coreOf s k).released = false) (ht : s.mgmt.linkUp = true ∨ (allTested s = true ∧ k.toNat ∈ s.mgmt.tvecs)) :
    exec (.coreRelease k) s = .next (setCore s k { coreOf s k with
      released := true
      task := { (coreOf s k).task with
        pc := (coreOf s k).tvec
        status := mkStatus true (coreOf s k).task.pie (coreOf s k).task.ie (coreOf s k).task.pprv true
        cause := 0 } }) := by
  refine congrArg Outcome.next (if_neg ?_)
  rcases ht with hup | ⟨htested, hvec⟩
  · simp [hb, hl, hr, hup]
  · simp [hb, hl, hr, htested, hvec]

/-- Settles O47: the reset values are those of `Core.reset` and `Tile.reset`; a core that is not released is not live; the two
events of the bring-up path do what R26 says. -/
theorem resetAndRelease : Obligations.reset_and_release := by
  unfold Obligations.reset_and_release
  refine ⟨memOk_reset, fun k => ?_, fun _ => tileReset_queues, fun _ => rfl, fun s ha hw hr => ?_, fun s k v hb hl hr => ?_,
    fun s k hb hlit hr hl => ?_⟩
  · rw [coreOf_reset]
    exact ⟨fun h => by rw [ctx_reset]; exact ctxReset_registers, coreReset_registers⟩
  · exact step_of_not_live ha hw (coreLive_of_not_released (by rwa [coreOf_cur]))
  · obtain ⟨t, ht, hc⟩ := tvecBringupWrite_core (v := v) hb hl hr
    exact ⟨t, ht, by rw [hc], by rw [hc]; exact hr⟩
  · refine ⟨_, coreRelease_next hb hlit hr hl, ?_⟩
    rw [coreOf_setCore_self]
    obtain ⟨hnest, -, -, -, hprv⟩ := bits_mkStatus true (coreOf s k).task.pie (coreOf s k).task.ie (coreOf s k).task.pprv true
    exact ⟨rfl, rfl, hprv, hnest, rfl, rfl, fun j hj => coreOf_setCore_ne s _ hj⟩

end Sys2Proof.Machine
end

section
/-!
PROOFS. The step in which the task context alone has its turn (R22, R142): an event that enters, a fetch that fails, and
the trap that either ends in.
-/
namespace Sys2Proof.Machine

/-! The turn of the task context alone. -/

/-- With an empty agenda the task context steps: it may issue, no handler is active, it stands in no gang, no sample is taken
and no reset waits. -/
structure TaskAlone (s : State) : Prop where
  agenda : s.agenda = []
  powered : s.mgmt.powered = true
  wanted : s.mgmt.wanted = []
  kind : s.kind = .task
  live : taskLive s s.cur = true
  act : s.core.act = none
  gang : s.core.gang = none
  period : fld s.core.trctl 12 20 = 0

theorem cx_of_task {s : State} (h : s.kind = .task) : cx s = s.core.task := by
  unfold cx
  rw [h]
  rfl

theorem withKind_self {s : State} {h : CtxKind} (hk : s.kind = h) : { s with kind := h } = s := by
  subst hk
  rfl

theorem coreLive_of_taskLive {s : State} {k : CoreId} (h : taskLive s k = true) : coreLive s k = true := by
  simp only [taskLive, Bool.and_eq_true] at h
  exact h.1.1.1

theorem sampleRec_of_period {s : State} {k : CoreId} (h : fld (coreOf s k).trctl 12 20 = 0) : sampleRec s k = s := by
  simp [sampleRec, h]

theorem expire_of_idle {s : State} (h : s.core.act = none) : expire s = s := by
  simp [expire, budgetOut, h]

theorem TaskAlone.coreStep {s : State} (h : TaskAlone s) (ex : Ex) :
    coreStep ex s = onNext (taskTurn ex false s) fun t => elapse t 1 := by
  have hs : sampleRec s s.cur = s := sampleRec_of_period (by rw [coreOf_cur]; exact h.period)
  simp [Machine.coreStep, coreLive_of_taskLive h.live, hs, expire_of_idle h.act, h.act]

/-- A turn of the task context that asks for no page and lets no reset wait is the whole step, and one ck passes. -/
theorem TaskAlone.step {s t : State} (h : TaskAlone s) (ht : taskTurn exec false s = .next t)
    (hr : t.tsu.reqs = s.tsu.reqs) (hm : t.mgmt = s.mgmt) : step s = .next (elapse t 1) := by
  unfold Machine.step turn
  rw [h.agenda]
  simp [h.powered, h.coreStep, ht, onNext, settle_elapse hr (hm ▸ h.wanted)]

/-- What enters at the boundary is the turn. -/
theorem TaskAlone.taskTurn_of_entry {s t : State} (h : TaskAlone s) {ex : Ex} {other : Bool} (he : entry s = some t) :
    taskTurn ex other s = .next t := by
  simp [taskTurn, h.gang, taskTry, withKind_self h.kind, h.live, he]

/-- With nothing entering, nothing awaited and no pause, the turn is one instruction, here one that leaves the context waiting for
nothing, and so for no gang. -/
theorem TaskAlone.taskTurn_of_issue {s t : State} (h : TaskAlone s) {ex : Ex} {other : Bool} (he : entry s = none)
    (hw : s.core.task.wait = .none) (hk : s.core.task.takes = []) (hp : s.core.task.pauseEnd = 0) (hi : issue ex s = .next t)
    (ht : (cx t).wait = .none) : taskTurn ex other s = .next t := by
  have hc := cx_of_task h.kind
  have hclear : pauseClear s = s := by simp [pauseClear, hc, hp]
  have hend : endWait s = s := by
    have hx : { cx s with wait := .none, takes := [] } = cx s := by rw [hc, ← hw, ← hk]
    rw [endWait, hx, setCx_cx]
  simp [taskTurn, h.gang, taskTry, withKind_self h.kind, h.live, he, proceed, pauseLets, hclear, attempt, hc, hw, hp, hend, hi,
    onNext, ht]

/-! A core that keeps no chunks (R419). -/

section NoChunks
variable {s : State} (h : chunkOn s.core = false)
include h

theorem chunkMode_of_off : chunkMode s.core ≠ 1 ∧ chunkMode s.core ≠ 2 := by
  simpa [chunkOn] using h

theorem chunkTrap_of_off (x : CtxKind) : chunkTrap s s.cur x = s := by
  simp [chunkTrap, h]

theorem trapHeld_of_off : trapHeld s = false := by
  simp [trapHeld, mustHold, holdsForAck, (chunkMode_of_off h).2]

theorem entryHeld_of_off : entryHeld s = false := by
  simp [entryHeld, (chunkMode_of_off h).2]

end NoChunks

/-! A trap that enters (R23). -/

theorem trapEntry_setCore {s : State} {k : CoreId} {code : BitVec 8} {async : Bool} {epc v fx : Word}
    (hn : ((coreOf s k).task.nest && !async) = false) (ht : tvecOk s k = true) :
    ∃ c, trapEntry s k code async epc v fx = setCore s k c := by
  unfold trapEntry
  simp only [hn, ht, Bool.not_true, Bool.false_eq_true, if_false]
  exact ⟨_, rfl⟩

/-- What a trap entry of the core that steps leaves in its task context. -/
theorem cx_trapEntry {s : State} {code : BitVec 8} {async : Bool} {epc v fx : Word} (hk : s.kind = .task)
    (hn : (s.core.task.nest && !async) = false) (ht : tvecOk s s.cur = true) :
    let x := cx (trapEntry s s.cur code async epc v fx)
    x.cause = BitVec.ofNat 64 (async.toNat * 2 ^ 63 + code.toNat) ∧ x.eval = v ∧ x.epc = epc ∧ x.pc = s.core.tvec ∧ x.wait = .none := by
  rw [← coreOf_cur s] at hn
  have htask := trapEntry_task s s.cur code async epc v fx hn ht
  obtain ⟨c, hc⟩ := trapEntry_setCore (code := code) (epc := epc) (v := v) (fx := fx) hn ht
  rw [hc] at htask ⊢
  have hcx : cx (setCore s s.cur c) = (coreOf (setCore s s.cur c) s.cur).task := by
    rw [cx_of_task (by rw [setCore_kind, hk]), ← coreOf_cur, cur_setCore]
  rw [hcx, htask, coreOf_cur]
  exact ⟨rfl, rfl, rfl, rfl, rfl⟩

/-- A turn that ends in a trap entry from `r`, which differs from `s` in what a turn may prepare: after the step the core is
in the kernel. -/
theorem TaskAlone.step_trapEntry {s r : State} (h : TaskAlone s) {code : BitVec 8} {async : Bool} {epc v fx : Word}
    (ht : taskTurn exec false s = .next (trapEntry r r.cur code async epc v fx)) (hr : r.tsu.reqs = s.tsu.reqs)
    (hm : r.mgmt = s.mgmt) (hk : r.kind = .task) (hn : (r.core.task.nest && !async) = false) (hv : tvecOk r r.cur = true) :
    ∃ u, Machine.step s = .next u ∧ (cx u).cause = BitVec.ofNat 64 (async.toNat * 2 ^ 63 + code.toNat) ∧ (cx u).eval = v ∧
      (cx u).epc = epc ∧ (cx u).pc = r.core.tvec := by
  obtain ⟨hcause, heval, hepc, hpc, -⟩ := cx_trapEntry (code := code) (epc := epc) (v := v) (fx := fx) hk hn hv
  obtain ⟨c, hc⟩ := trapEntry_setCore (code := code) (epc := epc) (v := v) (fx := fx) (by rwa [coreOf_cur]) hv
  have hstep := h.step ht (by rw [hc, setCore_tsu, hr]) (by rw [hc, setCore_mgmt, hm])
  obtain ⟨w, hw⟩ := (stands_elapse (trapEntry r r.cur code async epc v fx) 1).cx
  refine ⟨_, hstep, ?_⟩
  rw [hw]
  exact ⟨hcause, heval, hepc, hpc⟩

/-! An asynchronous event that enters (R22, R336 to R338). -/

theorem eventPending_of_nextEvent {s : State} {k : CoreId} (h : (nextEvent s k).isSome) : eventPending s k = true := by
  unfold nextEvent at h
  unfold eventPending
  dsimp only at h ⊢
  split at h
  next e he =>
    obtain ⟨code, -, hf⟩ := List.exists_of_findSome?_eq_some he
    have hq : (coreOf s k).eventQ ≠ [] := List.ne_nil_of_mem (List.mem_of_find?_eq_some hf)
    simp [hq]
  next =>
    split at h
    next j hj => simp [hj]
    next =>
      split at h
      next ht => simp [ht]
      next => simp at h

theorem entry_of_event {s : State} (hd : s.core.death = none) (hi : s.core.task.ie = true) (hw : s.core.task.wait = .none)
    (hc : chunkOn s.core = false) (he : (nextEvent s s.cur).isSome) : entry s = some (enterAsync s) := by
  have hm : mayEnter s = true := by
    have hp := eventPending_of_nextEvent he
    have hh := entryHeld_of_off hc
    have ha : s.core.task.wait.abandons = true := by rw [hw]; rfl
    simp only [mayEnter, hi, ha, hp, hh, Bool.not_false, Bool.and_self]
  simp [entry, hd, hm]

theorem dissolve_of_alone {s : State} {k : CoreId} (h : (coreOf s k).gang = none) : dissolve s k = s := by
  unfold dissolve
  rw [h]

/-- The machine once the events of the core that steps are those of `q`. -/
def withEvents (s : State) (q : List Event) : State := { s with core := { s.core with eventQ := q } }

theorem enterAsync_eq {s : State} {code : BitVec 8} {v : Word} {q : List Event} (hg : s.core.gang = none)
    (hc : chunkOn s.core = false) (he : nextEvent s s.cur = some (code, v, q)) :
    enterAsync s = trapEntry (withEvents s q) s.cur code true s.core.task.pc v 0 := by
  have hd : dissolve s s.cur = s := dissolve_of_alone (by rwa [coreOf_cur])
  simp only [enterAsync, he, hd, chunkTrap_of_off hc]
  rfl

/-- What a core finds at its TVEC does not depend on its events. -/
theorem tvecOk_withEvents (s : State) (q : List Event) : tvecOk (withEvents s q) s.cur = tvecOk s s.cur := by
  have hc : coreOf (withEvents s q) s.cur = { s.core with eventQ := q } := coreOf_cur (withEvents s q)
  have hl : ∀ a, leafAt (withEvents s q) s.cur a = leafAt s s.cur a := by
    intro a
    simp only [leafAt, nearOf, imageAt, hc, coreOf_cur]
    rfl
  simp only [tvecOk, hc, hl, coreOf_cur]

/-! A fetch that finds a bad target (R14, R25). -/

theorem fetch_badTarget {s : State} (h : targetOk (cx s).pc = false ∨
    ∃ f, fetchLeaf s (cx s).pc = .ok f ∧ leafH f.image < slotOf (cx s).pc) : fetch s = exc 0x03 (cx s).pc := by
  unfold fetch
  by_cases ht : targetOk (cx s).pc = true
  · obtain hf | ⟨f, hf, hlt⟩ := h
    · simp [ht] at hf
    · simp [need, ht, hf, Nat.not_le.mpr hlt, exc, bind, Except.bind]
  · simp [need, ht, exc, bind, Except.bind]

theorem noteHash_eq (s : State) (ctx : CtxNum) (page pa : Nat) :
    ∃ hs, noteHash s ctx page pa = { s with tsu := { s.tsu with hashed := hs } } := by
  unfold noteHash
  split
  · exact ⟨_, rfl⟩
  · exact ⟨s.tsu.hashed, rfl⟩

/-- The fetch notes no more than the result of a page's check. -/
theorem noteFetch_eq (s : State) : ∃ hs, noteFetch s = { s with tsu := { s.tsu with hashed := hs } } := by
  unfold noteFetch
  dsimp only
  split
  · split
    · exact noteHash_eq s _ _ _
    · exact ⟨s.tsu.hashed, rfl⟩
  · exact ⟨s.tsu.hashed, rfl⟩

theorem raise_badTarget {s : State} (h : s.kind = .task) (v : Word) :
    raise s { code := 0x03, eval := v } = trapEntry s s.cur 0x03 false (cx s).pc v 0 := by
  simp [raise, raiseAt, h, isKill]

theorem issue_badTarget {s : State} {ex : Ex} (hf : fetch s = exc 0x03 (cx s).pc) (hc : chunkOn s.core = false) :
    issue ex s = .next (raise (noteFetch s) { code := 0x03, eval := (cx s).pc }) := by
  obtain ⟨hs, hn⟩ := noteFetch_eq s
  have hc' : chunkOn (noteFetch s).core = false := by rw [hn]; exact hc
  simp [issue, hf, exc, faultAt, trapHeld_of_off hc', chunkTrap_of_off hc']

end Sys2Proof.Machine
end

section
/-!
PROOFS. ERET and the step after it (O18; R25, R101).
-/
namespace Sys2Proof.Machine

/-! The return sequence touches, of the core, the context that steps and the run times of the slots (R418). -/

theorem Core.runStop_eq (c : Core) (ck : Nat) : ∃ v, c.runStop ck = { c with slots := v } := by
  unfold Core.runStop
  dsimp only
  split
  · split
    · exact ⟨c.slots, rfl⟩
    · exact ⟨_, rfl⟩
  · exact ⟨c.slots, rfl⟩

theorem Core.runStart_eq (c : Core) (ck : Nat) : ∃ v, c.runStart ck = { c with slots := v } := by
  unfold Core.runStart
  split
  · exact ⟨_, rfl⟩
  · exact ⟨c.slots, rfl⟩

theorem core_returnSeq (s : State) : ∃ v, (returnSeq s).core = { s.core with slots := v }.setCtx s.kind (cx (returnSeq s)) := by
  obtain ⟨v, hv⟩ := s.core.runStop_eq s.ck
  obtain ⟨w, hw⟩ := (s.core.runStop s.ck).runStart_eq s.ck
  refine ⟨w, ?_⟩
  rw [cx_returnSeq]
  unfold returnSeq
  rw [hw, hv]
  rfl

@[simp] theorem gang_setCtx (c : Core) (h : CtxKind) (x : Ctx) : (c.setCtx h x).gang = c.gang := by cases h <;> rfl
@[simp] theorem tvec_setCtx (c : Core) (h : CtxKind) (x : Ctx) : (c.setCtx h x).tvec = c.tvec := by cases h <;> rfl

@[simp] theorem gang_returnSeq (s : State) : (returnSeq s).core.gang = s.core.gang := by
  obtain ⟨v, hv⟩ := core_returnSeq s
  rw [hv, gang_setCtx]

@[simp] theorem tvec_returnSeq (s : State) : (returnSeq s).core.tvec = s.core.tvec := by
  obtain ⟨v, hv⟩ := core_returnSeq s
  rw [hv, tvec_setCtx]

theorem sameMem_returnSeq (s : State) : SameMem s (returnSeq s) := ⟨fun _ => rfl, fun _ => rfl, rfl, rfl, rfl, rfl⟩

/-! ERET in supervisor mode. -/

theorem kind_of_supervisor {s : State} (h : userMode s = false) : s.kind = .task := by
  unfold userMode at h
  split at h
  next hk => exact hk
  next => simp at h

/-- Privilege does not depend on what contexts wait for. -/
theorem userMode_of_stands {s t : State} (h : Stands s t) : userMode t = userMode s := by
  obtain ⟨w, hw⟩ := h.core.task
  unfold userMode
  rw [h.kind, hw]
  rfl

theorem exec_eret {s : State} (h : userMode s = false) : exec .eret s = .next (returnSeq (dissolveMine s)) := by
  have hu := (userMode_of_stands (stands_dissolveMine s)).trans h
  change execEret s = _
  simp [execEret, needS, need, hu, finishTo, bind, Except.bind, pure, Except.pure]

theorem gang_dissolveMine {s : State} (h : s.kind = .task) : (dissolveMine s).core.gang = none := by
  have hd : dissolveMine s = dissolve s s.cur := by
    unfold dissolveMine
    rw [h]
  have hc := (stands_dissolve s s.cur).cur
  rw [hd, ← coreOf_cur, hc]
  exact gang_dissolve s s.cur

/-- `t` is where the return sequence leads from `s`: the context that steps has what the last trap entry saved, and may have
stopped waiting; its core is in no gang. -/
structure Returned (s t : State) : Prop where
  context : ∃ w, cx t = { cx s with
    status := mkStatus false (cx s).pie (cx s).pie (cx s).pprv (cx s).pprv, pc := (cx s).epc, last := .retired, wait := w }
  kind : t.kind = .task
  gang : t.core.gang = none
  tvec : t.core.tvec = s.core.tvec
  mem : SameMem s t

theorem eret_returned {s : State} (h : userMode s = false) : ∃ t, exec .eret s = .next t ∧ Returned s t := by
  have hk := kind_of_supervisor h
  have hs := stands_dissolveMine s
  obtain ⟨w, hw⟩ := hs.cx
  refine ⟨_, exec_eret h, ⟨w, ?_⟩, ?_, ?_, ?_, hs.mem.trans (sameMem_returnSeq _)⟩
  · rw [cx_returnSeq, hw]
    rfl
  · rw [returnSeq_kind, hs.kind, hk]
  · rw [gang_returnSeq, gang_dissolveMine hk]
  · rw [tvec_returnSeq, hs.core.tvec]

namespace Returned

variable {s t : State} (h : Returned s t)
include h

/-- The fields of STATUS after the return (R17, R25). -/
theorem status : (cx t).prv = (cx s).pprv ∧ (cx t).ie = (cx s).pie ∧ (cx t).nest = false ∧ (cx t).pprv = (cx s).pprv ∧
    (cx t).pie = (cx s).pie := by
  obtain ⟨w, hw⟩ := h.context
  obtain ⟨hnest, hpie, hie, hpprv, hprv⟩ := bits_mkStatus false (cx s).pie (cx s).pie (cx s).pprv (cx s).pprv
  rw [hw]
  exact ⟨hprv, hie, hnest, hpprv, hpie⟩

theorem pc : (cx t).pc = (cx s).epc := by
  obtain ⟨w, hw⟩ := h.context
  rw [hw]

theorem saved : (cx t).epc = (cx s).epc ∧ (cx t).cause = (cx s).cause ∧ (cx t).eval = (cx s).eval := by
  obtain ⟨w, hw⟩ := h.context
  rw [hw]
  exact ⟨rfl, rfl, rfl⟩

theorem registers : (∀ r, getS t r = getS s r) ∧ (∀ r, getV t r = getV s r) ∧ (∀ r, getM t r = getM s r) := by
  obtain ⟨w, hw⟩ := h.context
  unfold getS getV getM
  rw [hw]
  exact ⟨fun _ => rfl, fun _ => rfl, fun _ => rfl⟩

theorem nest : t.core.task.nest = false := by
  rw [← cx_of_task h.kind]
  exact h.status.2.2.1

/-- The address returned to is no valid target: the step after the return takes the bad-target trap there. -/
theorem badTarget (hr : Claims.ready t) (hv : tvecOk (noteFetch t) t.cur = true) (hb : targetOk (cx s).epc = false ∨
    ∃ f, fetchLeaf t (cx s).epc = .ok f ∧ leafH f.image < slotOf (cx s).epc) :
    ∃ u, step t = .next u ∧ (cx u).cause = 0x03 ∧ (cx u).eval = (cx s).epc ∧ (cx u).epc = (cx s).epc ∧ (cx u).pc = s.core.tvec := by
  obtain ⟨ha, hp, hw, hk, -, hlive, hact, hg, hwait, htakes, hpause, he, hc, hper⟩ := hr
  have alone : TaskAlone t := ⟨ha, hp, hw, hk, hlive, hact, hg, hper⟩
  have hfetch := fetch_badTarget (h.pc.symm ▸ hb)
  have hnest := h.nest
  obtain ⟨hs, hn⟩ := noteFetch_eq t
  have hk' : (noteFetch t).kind = .task := by rw [hn]; exact hk
  have hnest' : ((noteFetch t).core.task.nest && !false) = false := by rw [hn]; simpa using hnest
  have hv' : tvecOk (noteFetch t) (noteFetch t).cur = true := by rw [hn] at hv ⊢; exact hv
  have hraise := raise_badTarget hk' (cx t).pc
  have hturn : taskTurn exec false t = .next (raise (noteFetch t) { code := 0x03, eval := (cx t).pc }) :=
    alone.taskTurn_of_issue he hwait htakes hpause (issue_badTarget hfetch hc) (by
      rw [hraise]
      exact (cx_trapEntry hk' hnest' hv').2.2.2.2)
  rw [hraise] at hturn
  obtain ⟨u, hu, hcause, heval, hepc, hpc⟩ :=
    alone.step_trapEntry hturn (by rw [hn]) (by rw [hn]) hk' hnest' hv'
  refine ⟨u, hu, hcause, heval.trans h.pc, hepc.trans ?_, hpc.trans ?_⟩
  · rw [hn]
    exact h.pc
  · rw [hn]
    exact h.tvec

/-- With the restored IE = 1 and an event pending, the event enters at the address returned to. -/
theorem event {code : BitVec 8} {v : Word} {q : List Event} (alone : TaskAlone t) (hd : t.core.death = none)
    (hw : t.core.task.wait = .none) (hc : chunkOn t.core = false) (hv : tvecOk t t.cur = true) (hi : (cx s).pie = true)
    (he : nextEvent t t.cur = some (code, v, q)) :
    ∃ u, step t = .next u ∧ (cx u).cause.toNat = 2 ^ 63 + code.toNat ∧ (cx u).epc = (cx s).epc ∧ (cx u).pc = s.core.tvec := by
  have hcx := cx_of_task h.kind
  obtain ⟨-, hie, -⟩ := h.status
  have hentry := entry_of_event hd (by rw [← hcx, hie, hi]) hw hc (by rw [he]; rfl)
  rw [enterAsync_eq h.gang hc he] at hentry
  have hv' : tvecOk (withEvents t q) t.cur = true := by rw [tvecOk_withEvents, hv]
  obtain ⟨u, hu, hcause, -, hepc, hpc⟩ := alone.step_trapEntry (r := withEvents t q) (alone.taskTurn_of_entry hentry) rfl rfl
    h.kind (Bool.and_false _) hv'
  refine ⟨u, hu, ?_, hepc.trans ?_, hpc.trans h.tvec⟩
  · rw [hcause, BitVec.toNat_ofNat]
    have := code.isLt
    simp only [Bool.toNat_true]
    omega
  · rw [← hcx, h.pc]

end Returned

/-- Settles O18: ERET leads to a state that `Returned` describes, and the two facts about the step after it follow from that. -/
theorem returnSequence : Obligations.return_sequence := by
  unfold Obligations.return_sequence
  intro s hs
  obtain ⟨t, ht, h⟩ := eret_returned hs
  obtain ⟨hprv, hie, hnest, hpprv, hpie⟩ := h.status
  obtain ⟨hepc, hcause, heval⟩ := h.saved
  obtain ⟨hgetS, hgetV, hgetM⟩ := h.registers
  refine ⟨t, ht, hprv, hie, hnest, hpprv, hpie, h.pc, hepc, hcause, heval, hgetS, hgetV, hgetM, h.gang, h.mem, h.badTarget,
    ?_⟩
  intro code v q ha hp hw hl hact hd hwait hc hper hv hi he
  exact h.event ⟨ha, hp, hw, h.kind, hl, hact, h.gang, hper⟩ hd hwait hc hv hi he

end Sys2Proof.Machine
end

section
/-!
PROOFS. What the functions of integer operand values give (R81 to R83), as numbers.
-/
namespace Sys2Proof.Machine

/-- The low bits of a word; those above do not count. -/
theorem fld_low {w : Nat} (x : BitVec w) (n : Nat) : fld x 0 n = x.toNat % 2 ^ n := rfl

/-! Conditions (R81). -/

theorem boolW_decide (p : Prop) [Decidable p] : boolW (decide p) = if p then 1 else 0 := by
  by_cases h : p <;> simp [boolW, h]

theorem seq_eq (x y : Word) : boolW (condEq x y) = if x = y then 1 else 0 := boolW_decide (x = y)

theorem sne_eq (x y : Word) : boolW (!condEq x y) = if x ≠ y then 1 else 0 := by
  rw [← boolW_decide, decide_not]
  rfl

theorem slt_eq (x y : Word) : boolW (condLt x y) = if x.toInt < y.toInt then 1 else 0 := by
  rw [condLt, BitVec.slt_eq_decide, boolW_decide]

theorem sltu_eq (x y : Word) : boolW (condLtu x y) = if x.toNat < y.toNat then 1 else 0 := by
  rw [condLtu, BitVec.ult_eq_decide, boolW_decide]

/-! Sums, products and shifts (R81 to R83). -/

theorem add_eq_ofInt (x y : Word) : x + y = .ofInt 64 (x.toInt + y.toInt) := by
  rw [BitVec.ofInt_add, BitVec.ofInt_toInt, BitVec.ofInt_toInt]

theorem sub_eq_ofInt (x y : Word) : x - y = .ofInt 64 (x.toInt - y.toInt) := by
  apply BitVec.eq_of_toInt_eq
  rw [BitVec.toInt_sub, BitVec.toInt_ofInt]

theorem mul_eq_ofNat (x y : Word) : x * y = .ofNat 64 (x.toNat * y.toNat) := rfl

theorem shiftLeft_eq_ofNat (x : Word) (n : Nat) : x <<< n = .ofNat 64 (x.toNat * 2 ^ n) := by
  apply BitVec.eq_of_toNat_eq
  rw [BitVec.toNat_shiftLeft, Nat.shiftLeft_eq, BitVec.toNat_ofNat]

theorem shiftRight_eq_ofNat (x : Word) (n : Nat) : x >>> n = .ofNat 64 (x.toNat / 2 ^ n) := by
  apply BitVec.eq_of_toNat_eq
  rw [BitVec.toNat_ushiftRight, Nat.shiftRight_eq_div_pow, BitVec.toNat_ofNat,
    Nat.mod_eq_of_lt (Nat.lt_of_le_of_lt (Nat.div_le_self ..) x.isLt)]

theorem shlW_eq (x y : Word) : shlW x y = .ofNat 64 (x.toNat * 2 ^ (y.toNat % 64)) := shiftLeft_eq_ofNat x _
theorem shrW_eq (x y : Word) : shrW x y = .ofNat 64 (x.toNat / 2 ^ (y.toNat % 64)) := shiftRight_eq_ofNat x _

theorem sarW_eq (x y : Word) : sarW x y = .ofInt 64 (x.toInt / 2 ^ (y.toNat % 64)) := by
  rw [sarW, fld_low, BitVec.sshiftRight_eq, Int.shiftRight_eq_div_pow]
  rfl

/-! Minima and maxima (R81). -/

theorem minS_eq (x y : Word) : minS x y = .ofInt 64 (min x.toInt y.toInt) := by
  rw [minS, BitVec.slt_eq_decide]
  by_cases h : y.toInt < x.toInt
  · rw [if_pos (decide_eq_true h), Int.min_eq_right (Int.le_of_lt h), BitVec.ofInt_toInt]
  · rw [if_neg (mt of_decide_eq_true h), Int.min_eq_left (Int.not_lt.mp h), BitVec.ofInt_toInt]

theorem maxS_eq (x y : Word) : maxS x y = .ofInt 64 (max x.toInt y.toInt) := by
  rw [maxS, BitVec.slt_eq_decide]
  by_cases h : x.toInt < y.toInt
  · rw [if_pos (decide_eq_true h), Int.max_eq_right (Int.le_of_lt h), BitVec.ofInt_toInt]
  · rw [if_neg (mt of_decide_eq_true h), Int.max_eq_left (Int.not_lt.mp h), BitVec.ofInt_toInt]

theorem minU_eq (x y : Word) : minU x y = .ofNat 64 (min x.toNat y.toNat) := by
  rw [minU, BitVec.ult_eq_decide]
  by_cases h : y.toNat < x.toNat
  · rw [if_pos (decide_eq_true h), Nat.min_eq_right (Nat.le_of_lt h), BitVec.ofNat_toNat, BitVec.setWidth_eq]
  · rw [if_neg (mt of_decide_eq_true h), Nat.min_eq_left (Nat.not_lt.mp h), BitVec.ofNat_toNat, BitVec.setWidth_eq]

theorem maxU_eq (x y : Word) : maxU x y = .ofNat 64 (max x.toNat y.toNat) := by
  rw [maxU, BitVec.ult_eq_decide]
  by_cases h : x.toNat < y.toNat
  · rw [if_pos (decide_eq_true h), Nat.max_eq_right (Nat.le_of_lt h), BitVec.ofNat_toNat, BitVec.setWidth_eq]
  · rw [if_neg (mt of_decide_eq_true h), Nat.max_eq_left (Nat.not_lt.mp h), BitVec.ofNat_toNat, BitVec.setWidth_eq]

/-! Quotients and remainders (R83). -/

theorem remS_eq (x y : Word) : remS x y = if y = 0 then x else .ofInt 64 (x.toInt - x.toInt.tdiv y.toInt * y.toInt) := by
  rw [remS, Int.tmod_def, Int.mul_comm]

theorem remU_eq (x y : Word) : remU x y = if y = 0 then x else .ofNat 64 (x.toNat - x.toNat / y.toNat * y.toNat) := by
  rw [remU, Nat.mod_eq_sub_div_mul]

theorem divS_eq (x y : Word) : divS x y = if y = 0 then 0xffffffffffffffff else .ofInt 64 (x.toInt.tdiv y.toInt) := rfl

theorem divU_eq (x y : Word) : divU x y = if y = 0 then 0xffffffffffffffff else .ofNat 64 (x.toNat / y.toNat) := rfl

/-! Immediates (R37, R81, R82). -/

theorem toNat_setWidth_imm (i : BitVec 10) : (i.setWidth 64 : Word).toNat = i.toNat :=
  BitVec.toNat_setWidth_of_le (by decide)

theorem toInt_simm (i : BitVec 10) : (simm i).toInt = i.toInt := BitVec.toInt_signExtend_of_le (by decide)

theorem simm_eq (i : BitVec 10) : simm i = .ofInt 64 i.toInt := by rw [← toInt_simm, BitVec.ofInt_toInt]

theorem addi_eq (x : Word) (i : BitVec 10) : x + simm i = .ofInt 64 (x.toInt + i.toInt) := by
  rw [add_eq_ofInt, toInt_simm]

theorem slti_eq (x : Word) (i : BitVec 10) : boolW (condLt x (simm i)) = if x.toInt < i.toInt then 1 else 0 := by
  rw [slt_eq, toInt_simm]

theorem shli_eq (x : Word) (i : BitVec 10) : shlW x (i.setWidth 64) = .ofNat 64 (x.toNat * 2 ^ (i.toNat % 64)) := by
  rw [shlW_eq, toNat_setWidth_imm]

theorem shri_eq (x : Word) (i : BitVec 10) : shrW x (i.setWidth 64) = .ofNat 64 (x.toNat / 2 ^ (i.toNat % 64)) := by
  rw [shrW_eq, toNat_setWidth_imm]

theorem sari_eq (x : Word) (i : BitVec 10) : sarW x (i.setWidth 64) = .ofInt 64 (x.toInt / 2 ^ (i.toNat % 64)) := by
  rw [sarW_eq, toNat_setWidth_imm]

end Sys2Proof.Machine
end

section
/-!
PROOFS. What the functions of R84 and R85 give: counts, reversals, extensions and fields, bit by bit or as numbers.
-/
namespace Sys2Proof.Machine

theorem bit_eq_testBit {w : Nat} (x : BitVec w) (j : Nat) : bit x j = x.toNat.testBit j := rfl

theorem bit_of_le {w : Nat} (x : BitVec w) {j : Nat} (h : w ≤ j) : bit x j = false := BitVec.getLsbD_of_ge x j h

/-! Counts of zeros (R84): by recursion over the bits looked at. -/

theorem clzGo_le (x : Word) (n : Nat) : clzGo x n ≤ n := by
  induction n with
  | zero => simp [clzGo]
  | succ n ih => rw [clzGo]; split <;> omega

theorem clzGo_zeros (x : Word) (n : Nat) : ∀ j, n - clzGo x n ≤ j → j < n → bit x j = false := by
  induction n with
  | zero => simp
  | succ n ih =>
    intro j hj hn
    rw [clzGo] at hj
    split at hj
    · omega
    · next h =>
      rcases Nat.lt_succ_iff_lt_or_eq.mp hn with hlt | rfl
      · exact ih j (by omega) hlt
      · simpa using h

/-- Where the count stops short there is a one. -/
theorem clzGo_one (x : Word) (n : Nat) (h : clzGo x n < n) : bit x (n - 1 - clzGo x n) = true := by
  induction n with
  | zero => simp at h
  | succ n ih =>
    rw [clzGo] at h ⊢
    split at h
    · next hb => simp [hb]
    · next hb =>
      rw [if_neg hb]
      have := ih (by omega)
      rwa [show n + 1 - 1 - (1 + clzGo x n) = n - 1 - clzGo x n by omega]

theorem ctzGo_le (x : Word) (i n : Nat) : ctzGo x i n ≤ n := by
  induction n generalizing i with
  | zero => simp [ctzGo]
  | succ n ih =>
    have := ih (i + 1)
    rw [ctzGo]
    split <;> omega

theorem ctzGo_zeros (x : Word) (i n : Nat) : ∀ j, i ≤ j → j < i + ctzGo x i n → bit x j = false := by
  induction n generalizing i with
  | zero =>
    intro j hi hj
    simp only [ctzGo] at hj
    omega
  | succ n ih =>
    intro j hi hj
    rw [ctzGo] at hj
    split at hj
    · omega
    · next h =>
      rcases Nat.eq_or_lt_of_le hi with rfl | hlt
      · simpa using h
      · exact ih (i + 1) j hlt (by omega)

/-- Where the count stops short there is a one. -/
theorem ctzGo_one (x : Word) (i n : Nat) (h : ctzGo x i n < n) : bit x (i + ctzGo x i n) = true := by
  induction n generalizing i with
  | zero => simp at h
  | succ n ih =>
    rw [ctzGo] at h ⊢
    split at h
    · next hb => simp [hb]
    · next hb =>
      rw [if_neg hb, ← Nat.add_assoc]
      exact ih (i + 1) (by omega)

theorem toNat_ofNat_of_le {n : Nat} (h : n ≤ 64) : (BitVec.ofNat 64 n).toNat = n := by
  rw [BitVec.toNat_ofNat, Nat.mod_eq_of_lt (by omega)]

theorem toNat_clzW (x : Word) : (clzW x).toNat = clzGo x 64 := toNat_ofNat_of_le (clzGo_le x 64)
theorem toNat_ctzW (x : Word) : (ctzW x).toNat = ctzGo x 0 64 := toNat_ofNat_of_le (ctzGo_le x 0 64)

theorem clzW_spec (x : Word) : let r := clzW x
    r.toNat ≤ 64 ∧ (∀ j, 64 - r.toNat ≤ j → bit x j = false) ∧ (r.toNat < 64 → bit x (63 - r.toNat) = true) := by
  simp only [toNat_clzW]
  refine ⟨clzGo_le x 64, fun j hj => ?_, clzGo_one x 64⟩
  by_cases h : j < 64
  · exact clzGo_zeros x 64 j hj h
  · exact bit_of_le x (Nat.not_lt.mp h)

theorem ctzW_spec (x : Word) : let r := ctzW x
    r.toNat ≤ 64 ∧ (∀ j, j < r.toNat → bit x j = false) ∧ (r.toNat < 64 → bit x r.toNat = true) := by
  simp only [toNat_ctzW]
  refine ⟨ctzGo_le x 0 64, fun j hj => ctzGo_zeros x 0 64 j (Nat.zero_le j) (by omega), fun h => ?_⟩
  simpa using ctzGo_one x 0 64 h

/-! The number of ones (R84). -/

theorem popCount_eq (n v : Nat) : popCount n v = ((List.range n).filter fun j => v.testBit j).length := by
  induction n generalizing v with
  | zero => rfl
  | succ n ih =>
    have hrest : ((List.map Nat.succ (List.range n)).filter fun j => v.testBit j).length = popCount n (v / 2) := by
      rw [ih, List.filter_map, List.length_map]
      simp only [Function.comp_def, Nat.testBit_succ]
    rw [popCount, List.range_succ_eq_map, List.filter_cons, Nat.testBit_zero]
    rcases Nat.mod_two_eq_zero_or_one v with h | h <;> simp [h, hrest, Nat.add_comm]

theorem toNat_popcW (x : Word) : (popcW x).toNat = ((List.range 64).filter fun j => bit x j).length := by
  have hle : popCount 64 x.toNat ≤ 64 := by
    rw [popCount_eq]
    exact Nat.le_trans (List.length_filter_le ..) (Nat.le_of_eq List.length_range)
  rw [popcW, toNat_ofNat_of_le hle, popCount_eq]
  rfl

/-! Reversals of bits and of bytes (R84). -/

theorem wordOfBits_lt (f : Nat → Bool) (n : Nat) : wordOfBits f n < 2 ^ n := by
  induction n with
  | zero => simp [wordOfBits]
  | succ n ih =>
    rw [wordOfBits, Nat.shiftLeft_eq, Nat.pow_succ]
    cases f n <;> simp only [Bool.toNat_false, Bool.toNat_true] <;> omega

theorem testBit_wordOfBits (f : Nat → Bool) {n j : Nat} (h : j < n) : (wordOfBits f n).testBit j = f j := by
  induction n with
  | zero => simp at h
  | succ n ih =>
    rw [wordOfBits, Nat.shiftLeft_eq, Nat.add_comm, Nat.mul_comm, Nat.testBit_two_pow_mul_add _ (wordOfBits_lt f n)]
    rcases Nat.lt_succ_iff_lt_or_eq.mp h with hlt | rfl
    · rw [if_pos hlt, ih hlt]
    · cases f j <;> simp

theorem bit_brevW (x : Word) {j : Nat} (h : j < 64) : bit (brevW x) j = bit x (63 - j) := by
  rw [brevW, bit_eq_testBit, BitVec.toNat_ofNat, Nat.mod_eq_of_lt (wordOfBits_lt _ 64), testBit_wordOfBits _ h]

theorem length_leBytes (n v : Nat) : (leBytes n v).length = n := by
  induction n generalizing v with
  | zero => rfl
  | succ n ih => simp [leBytes, ih]

theorem toNat_getElem_leBytes {n v i : Nat} (h : i < (leBytes n v).length) : (leBytes n v)[i].toNat = v >>> (8 * i) % 2 ^ 8 := by
  induction n generalizing v i with
  | zero => simp [leBytes] at h
  | succ n ih =>
    cases i with
    | zero => simp [leBytes]
    | succ i =>
      simp only [leBytes, List.getElem_cons_succ]
      rw [ih, ← Nat.shiftRight_add, Nat.mul_succ, Nat.add_comm]

theorem ofLe_lt (bs : List Byte) : ofLe bs < 2 ^ (8 * bs.length) := by
  induction bs with
  | nil => simp [ofLe]
  | cons b bs ih =>
    have := b.isLt
    have hpow : 2 ^ (8 * (bs.length + 1)) = 256 * 2 ^ (8 * bs.length) := by rw [Nat.mul_succ, Nat.pow_add, Nat.mul_comm]
    rw [ofLe, Nat.shiftLeft_eq, List.length_cons, hpow]
    omega

theorem ofLe_byte (bs : List Byte) {i : Nat} (h : i < bs.length) : ofLe bs >>> (8 * i) % 2 ^ 8 = bs[i].toNat := by
  induction bs generalizing i with
  | nil => simp at h
  | cons b bs ih =>
    have hb := b.isLt
    cases i with
    | zero =>
      rw [ofLe, Nat.shiftLeft_eq, Nat.mul_zero, Nat.shiftRight_zero, Nat.add_mul_mod_self_right]
      exact Nat.mod_eq_of_lt hb
    | succ i =>
      have hrest : ofLe (b :: bs) >>> 8 = ofLe bs := by
        rw [ofLe, Nat.shiftLeft_eq, Nat.shiftRight_eq_div_pow]
        omega
      rw [Nat.mul_succ, Nat.add_comm, Nat.shiftRight_add, hrest, ih (by simpa using h)]
      rfl

theorem fld_bswapW (x : Word) {j : Nat} (h : j < 8) : fld (bswapW x) (8 * j) 8 = fld x (8 * (7 - j)) 8 := by
  have hlen : (leBytes 8 x.toNat).reverse.length = 8 := by rw [List.length_reverse, length_leBytes]
  have hlt : ofLe (leBytes 8 x.toNat).reverse < 2 ^ 64 := by simpa only [hlen] using ofLe_lt (leBytes 8 x.toNat).reverse
  rw [fld, bswapW, BitVec.toNat_ofNat, Nat.mod_eq_of_lt hlt, ofLe_byte _ (by omega), List.getElem_reverse,
    toNat_getElem_leBytes]
  simp only [length_leBytes, fld]

/-! Extensions (R84) and fields (R85). -/

theorem toIntN_eq_bmod {n v : Nat} (hn : 0 < n) : toIntN n v = (v : Int).bmod (2 ^ n) := by
  have hpow : 2 ^ n = 2 * 2 ^ (n - 1) := by rw [Nat.mul_comm, Nat.two_pow_pred_mul_two hn]
  rw [toIntN, Int.bmod_def, ← Int.natCast_emod, hpow]
  generalize v % (2 * 2 ^ (n - 1)) = r
  split <;> split <;> omega

theorem toInt_sextTo {n : Nat} (x : Word) (h0 : 0 < n) (h : n ≤ 64) : (sextTo n x).toInt = toIntN n x.toNat := by
  rw [sextTo, BitVec.toInt_signExtend_of_le h, BitVec.toInt_setWidth, toIntN_eq_bmod h0]

theorem toNat_zextTo {n : Nat} (x : Word) (h : n ≤ 64) : (zextTo n x).toNat = x.toNat % 2 ^ n := by
  rw [zextTo, BitVec.toNat_setWidth_of_le h, BitVec.toNat_setWidth]

theorem extBits_pos (e : ExtW) : 0 < extBits e := by cases e <;> decide
theorem extBits_le (e : ExtW) : extBits e ≤ 64 := by cases e <;> decide

theorem toNat_maskW {n : Nat} (h : n ≤ 64) : (maskW n).toNat = 2 ^ n - 1 := by
  have : 2 ^ n ≤ 2 ^ 64 := Nat.pow_le_pow_right (by decide) h
  have : 0 < 2 ^ n := Nat.two_pow_pos n
  rw [maskW, BitVec.toNat_ofNat, Nat.mod_eq_of_lt (by omega)]

theorem bit_maskW {n : Nat} (h : n ≤ 64) (j : Nat) : bit (maskW n) j = decide (j < n) := by
  rw [bit_eq_testBit, toNat_maskW h, Nat.testBit_two_pow_sub_one]

theorem fieldWidth_le (y : Word) : fieldWidth y ≤ 64 := Nat.le_trans (Nat.min_le_right ..) (Nat.sub_le ..)

theorem toNat_bfxuW (x y : Word) : (bfxuW x y).toNat = fld x (fieldPos y) (fieldWidth y) := by
  rw [bfxuW, BitVec.toNat_and, toNat_maskW (fieldWidth_le y), Nat.and_two_pow_sub_one_eq_mod, BitVec.toNat_ushiftRight]
  rfl

theorem toInt_bfxW (x y : Word) :
    (bfxW x y).toInt = if fieldWidth y = 0 then 0 else toIntN (fieldWidth y) (fld x (fieldPos y) (fieldWidth y)) := by
  rw [bfxW]
  split
  · rfl
  · next h => rw [toInt_sextTo _ (Nat.pos_of_ne_zero h) (fieldWidth_le y), toNat_bfxuW]

theorem bit_bfiW (d x y : Word) {j : Nat} (h : j < 64) :
    bit (bfiW d x y) j = if fieldPos y ≤ j ∧ j < fieldPos y + fieldWidth y then bit x (j - fieldPos y) else bit d j := by
  have hmask : bit (maskW (fieldWidth y) <<< fieldPos y) j = decide (fieldPos y ≤ j ∧ j < fieldPos y + fieldWidth y) := by
    have := bit_maskW (fieldWidth_le y) (j - fieldPos y)
    simp only [bit] at this
    simp only [bit, BitVec.getLsbD_shiftLeft, this]
    grind
  simp only [bit] at hmask
  simp only [bfiW, bit, BitVec.getLsbD_or, BitVec.getLsbD_and, BitVec.getLsbD_not, hmask, BitVec.getLsbD_shiftLeft]
  split <;> grind

end Sys2Proof.Machine
end

section
/-!
PROOFS. The two word forms of the integer and bit instructions (R34 to R36, R50).
-/
namespace Sys2Proof.Machine

theorem headOp_rHead (op : BitVec 8) (a : Spec) : headOp (op ++ 1#2 ++ a) = op := by
  unfold headOp
  rw [BitVec.append_assoc]
  exact BitVec.extractLsb'_append_eq_left

theorem headL_rHead (op : BitVec 8) (a : Spec) : (headL (op ++ 1#2 ++ a)).toNat = 1 := by
  unfold headL
  rw [BitVec.extractLsb'_append_eq_of_le (by decide), BitVec.extractLsb'_append_eq_right]
  rfl

theorem headA_rHead (op : BitVec 8) (a : Spec) : headA (op ++ 1#2 ++ a) = a := BitVec.extractLsb'_append_eq_right

theorem tailA_rTail (a b : Spec) (fn : BitVec 4) : tailA (a ++ b ++ fn) = a := by
  unfold tailA
  rw [BitVec.append_assoc]
  exact BitVec.extractLsb'_append_eq_left

theorem rrB_rTail (a b : Spec) (fn : BitVec 4) : rrB (a ++ b ++ fn) = b := by
  unfold rrB
  rw [BitVec.extractLsb'_append_eq_of_le (by decide)]
  exact BitVec.extractLsb'_append_eq_right

theorem rrFn_rTail (a b : Spec) (fn : BitVec 4) : rrFn (a ++ b ++ fn) = fn := BitVec.extractLsb'_append_eq_right

theorem riImm_iTail (a : Spec) (i : BitVec 10) : riImm (a ++ i) = i := BitVec.extractLsb'_append_eq_right
theorem tailA_iTail (a : Spec) (i : BitVec 10) : tailA (a ++ i) = a := BitVec.extractLsb'_append_eq_left

/-- A word of the R format is what the row of its opcode makes of its fields. -/
theorem decode_rWords {op : BitVec 8} {d a b : Spec} {fn : BitVec 4} {f : BitVec 4 → Spec → Spec → Spec → Option Instr} {i : Instr}
    (hf : formOf op.toNat = some (.r f)) (hi : f fn d a b = some i) : decode (Claims.rWords op d a b fn) = .ok i := by
  simp only [Claims.rWords, decode, headOp_rHead, hf, Form.read, headL_rHead, headA_rHead, rrFn_rTail, tailA_rTail, rrB_rTail, hi,
    okOr]

/-- A word of the I format likewise. -/
theorem decode_iWords {op : BitVec 8} {d a : Spec} {imm : BitVec 10} {f : Spec → Spec → BitVec 10 → Instr}
    (hf : formOf op.toNat = some (.i f)) : decode (Claims.iWords op d a imm) = .ok (f d a imm) := by
  simp only [Claims.iWords, decode, headOp_rHead, hf, Form.read, headL_rHead, headA_rHead, riImm_iTail, tailA_iTail]

theorem integer_words : Claims.integer_words := by
  intro d a b i
  simp only [List.forall_mem_cons, List.not_mem_nil, false_implies, implies_true, and_true]
  constructor
  · and_intros <;> exact decode_rWords (by rfl) (by rfl)
  · and_intros <;> exact decode_iWords (by rfl)

theorem bit_words : Claims.bit_words := by
  intro d a b
  simp only [List.forall_mem_cons, List.not_mem_nil, false_implies, implies_true, and_true]
  and_intros <;> exact decode_rWords (by rfl) (by rfl)

end Sys2Proof.Machine
end

section
/-!
PROOFS. The integer and bit instructions (R81 to R85): each is one of the shapes of R78 with a function of its operands, whose
value the lemmas above give.
-/
namespace Sys2Proof.Machine

section Shapes

variable {s s1 : State} {d a b : Spec} {x y v : Word} {i : Instr}

/-- An instruction of the shape d := f(a, b) completes with the value of f. -/
theorem exec_of_opR (f : Word → Word → Word) (h : Allowed s [.dstS d, .srcS a, .srcS b]) (hr : Reads s [a, b] [x, y] s1)
    (hi : exec i s = opR s d a b f) (hv : f x y = v) : ∀ t, writeS s1 d v = .ok t → exec i s = .next (retire t) := by
  subst hv
  exact fun t hw => hi.trans (opR_next h hr hw)

/-- An instruction of the shape d := f(a) completes with the value of f. -/
theorem exec_of_opR1 (f : Word → Word) (h : Allowed s [.dstS d, .srcS a]) (hr : Reads s [a] [x] s1)
    (hi : exec i s = opR1 s d a f) (hv : f x = v) : ∀ t, writeS s1 d v = .ok t → exec i s = .next (retire t) := by
  subst hv
  exact fun t hw => hi.trans (opR1_next h hr hw)

/-- BFI completes too; it reads its d before its sources are taken (R78). -/
theorem exec_bfi (h : Allowed s [.regS d, .srcS a, .srcS b]) (hr : Reads s [a, b] [x, y] s1) :
    ∀ t, writeS s1 d (bfiW (getS s d.toNat) x y) = .ok t → exec (.bfi d a b) s = .next (retire t) := by
  intro t hw
  obtain ⟨s2, ha, s3, hb, rfl⟩ := hr
  have hroles : checkRoles s [.srcS a, .srcS b] = .ok () := h.roles (by simp)
  show execBfi d a b s = .next (retire t)
  simp [execBfi, finish, h.uses, hroles, ha, hb, hw, bind, Except.bind]

end Shapes

theorem register_results : Claims.register_results := by
  intro s s1 d a b x y h hr
  simp only [List.forall_mem_cons, List.not_mem_nil, false_implies, implies_true, and_true]
  exact ⟨exec_of_opR (· + ·) h hr rfl (add_eq_ofInt x y),
    exec_of_opR (· - ·) h hr rfl (sub_eq_ofInt x y),
    exec_of_opR (· &&& ·) h hr rfl rfl,
    exec_of_opR (· ||| ·) h hr rfl rfl,
    exec_of_opR (· ^^^ ·) h hr rfl rfl,
    exec_of_opR shlW h hr rfl (shlW_eq x y),
    exec_of_opR shrW h hr rfl (shrW_eq x y),
    exec_of_opR sarW h hr rfl (sarW_eq x y),
    exec_of_opR minS h hr rfl (minS_eq x y),
    exec_of_opR maxS h hr rfl (maxS_eq x y),
    exec_of_opR minU h hr rfl (minU_eq x y),
    exec_of_opR maxU h hr rfl (maxU_eq x y),
    exec_of_opR (fun x y => boolW (condEq x y)) h hr rfl (seq_eq x y),
    exec_of_opR (fun x y => boolW (!condEq x y)) h hr rfl (sne_eq x y),
    exec_of_opR (fun x y => boolW (condLt x y)) h hr rfl (slt_eq x y),
    exec_of_opR (fun x y => boolW (condLtu x y)) h hr rfl (sltu_eq x y),
    exec_of_opR (· * ·) h hr rfl (mul_eq_ofNat x y),
    exec_of_opR mulhS h hr rfl rfl,
    exec_of_opR mulhU h hr rfl rfl,
    exec_of_opR divS h hr rfl (divS_eq x y),
    exec_of_opR remS h hr rfl (remS_eq x y),
    exec_of_opR divU h hr rfl (divU_eq x y),
    exec_of_opR remU h hr rfl (remU_eq x y)⟩

theorem immediate_results : Claims.immediate_results := by
  intro s s1 d a i x h hr
  simp only [List.forall_mem_cons, List.not_mem_nil, false_implies, implies_true, and_true]
  exact ⟨exec_of_opR1 (fun x => x + simm i) h hr rfl (addi_eq x i),
    exec_of_opR1 (fun x => x &&& simm i) h hr rfl (by rw [simm_eq]),
    exec_of_opR1 (fun x => x ||| simm i) h hr rfl (by rw [simm_eq]),
    exec_of_opR1 (fun x => x ^^^ simm i) h hr rfl (by rw [simm_eq]),
    exec_of_opR1 (fun x => boolW (condLt x (simm i))) h hr rfl (slti_eq x i),
    exec_of_opR1 (fun x => shlW x (i.setWidth 64)) h hr rfl (shli_eq x i),
    exec_of_opR1 (fun x => shrW x (i.setWidth 64)) h hr rfl (shri_eq x i),
    exec_of_opR1 (fun x => sarW x (i.setWidth 64)) h hr rfl (sari_eq x i)⟩

theorem bit_count_results : Claims.bit_count_results := by
  intro s s1 d a x e h hr
  simp only [List.forall_mem_cons, List.not_mem_nil, false_implies, implies_true, and_true]
  exact ⟨⟨clzW x, clzW_spec x, exec_of_opR1 clzW h hr rfl rfl⟩,
    ⟨ctzW x, ctzW_spec x, exec_of_opR1 ctzW h hr rfl rfl⟩,
    ⟨popcW x, toNat_popcW x, exec_of_opR1 popcW h hr rfl rfl⟩,
    ⟨brevW x, fun _ => bit_brevW x, exec_of_opR1 brevW h hr rfl rfl⟩,
    ⟨bswapW x, fun _ => fld_bswapW x, exec_of_opR1 bswapW h hr rfl rfl⟩,
    ⟨sextTo (extBits e) x, toInt_sextTo x (extBits_pos e) (extBits_le e), exec_of_opR1 _ h hr rfl rfl⟩,
    ⟨zextTo (extBits e) x, toNat_zextTo x (extBits_le e), exec_of_opR1 _ h hr rfl rfl⟩⟩

theorem bit_field_results : Claims.bit_field_results := by
  intro s s1 d a b x y p w hr
  refine ⟨fun h => ⟨?bfxu, ?bfx⟩, fun h => ?bfi⟩
  case bfxu => exact ⟨bfxuW x y, toNat_bfxuW x y, exec_of_opR bfxuW h hr rfl rfl⟩
  case bfx => exact ⟨bfxW x y, toInt_bfxW x y, exec_of_opR bfxW h hr rfl rfl⟩
  case bfi => exact ⟨bfiW (getS s d.toNat) x y, fun _ => bit_bfiW (getS s d.toNat) x y, exec_bfi h hr⟩

/-- Settles O7: the words decode by `decode_rWords` and `decode_iWords`, and the values are those of the lemmas on integer results. -/
theorem integerResults : Obligations.integer_results := ⟨integer_words, register_results, immediate_results⟩

/-- Settles O8: the words decode by `decode_rWords`, and the values meet the rules by the lemmas on counts, reversals and fields. -/
theorem bitResults : Obligations.bit_results := ⟨bit_words, bit_count_results, bit_field_results⟩

end Sys2Proof.Machine
end
